-- ==== Sys2Proof/Word.lean ====
section
/-!
DEFINITION. Word.lean: the word types and the bounded numbers that the panel's tables use.
Numbers follow spec/01_panel.md (R16 to R22) and spec/10_clocking.md (R356).
-/
namespace Sys2Proof

abbrev Byte := BitVec 8
abbrev Word := BitVec 64

/-- Logical core id (R22): 0 to 7,167. -/
abbrev CoreId := Fin 7168
/-- Cluster number, logical core id [12:3] (R22): four clusters on each of 224 cell dies. -/
abbrev ClusterNo := Fin 896
/-- Region number, logical core id [12:4] (R22). -/
abbrev RegionNo := Fin 448
/-- Cell die index (R16). -/
abbrev CellDie := Fin 224
/-- Site number 20 x row + col (R202, R356). -/
abbrev SiteNo := Fin 240
/-- Die number by R356: sites 0 to 239, link dies 240 to 263, host dies 264 and 265, base-camp die 266. -/
abbrev DieNo := Fin 267
/-- Memory site index (R17). -/
abbrev MemSiteNo := Fin 16
/-- Partition index (R397). -/
abbrev PartNo := Fin 16
/-- Command ring or event ring number (R302). -/
abbrev RingNo := Fin 128
/-- Link number (R19). -/
abbrev LinkNo := Fin 96
/-- Link die number (Table 1.2). -/
abbrev LinkDieNo := Fin 24
/-- Host die number. -/
abbrev HostNo := Fin 2
/-- Ethernet port number (R19). -/
abbrev PortNo := Fin 4
/-- Move channel (R91). -/
abbrev ChanNo := Fin 8

/-- A sparse table: the entries of a map from numbers, in rising order of the number. -/
abbrev Assoc (α : Type) := List (Nat × α)

/-- A byte memory in the form of Host.Cell: addresses strictly rising, no listed byte zero. -/
abbrev Mem := List (Nat × BitVec 8)

/-- The field [hi:lo] of a number (R2). -/
def bits (n hi lo : Nat) : Nat := n / 2 ^ lo % 2 ^ (hi + 1 - lo)

/-- Bit k of a number. -/
def bit (n k : Nat) : Bool := n / 2 ^ k % 2 == 1

end Sys2Proof
end

