-- ==== Sys2Proof/Syntax.lean ====
section
/-!
DEFINITION. Syntax.lean: the commands of the panel. Sys2Proof.Instr has one constructor for each row of
spec/opcode_table.json, with the row's operands. An instruction row carries the core that runs it and the class fields of
its word (spec/04_instruction_set.md); a row for the arrival of a cell carries the cell (spec/06_fabric.md, Table 6.1); a
row for something measured carries the reading.
-/
namespace Sys2Proof

/-- Class fields of a matrix word (R126, Table 4.7). -/
structure MatFields where
  td : BitVec 5
  m1 : BitVec 5
  clr : Bool
  rnd : BitVec 2
  ovf : Bool
  exact : Bool
  anchor : BitVec 8
  deriving DecidableEq, Repr

/-- Class fields of a vector word (R130, Table 4.10). -/
structure VecFields where
  vd : BitVec 5
  va : BitVec 5
  vb : BitVec 5
  vc : BitVec 5
  pg : BitVec 3
  pen : Bool
  fmt : BitVec 4
  fmt2 : BitVec 4
  mx2 : Bool
  rnd : BitVec 2
  ovf : Bool
  rs : BitVec 5
  bs : Bool
  pd : BitVec 3
  cond : BitVec 3
  spo : BitVec 24
  deriving DecidableEq, Repr

/-- Class fields of a move word (R140, Table 4.13). -/
structure MovFields where
  ch : BitVec 3
  srem : Bool
  drem : Bool
  rs : BitVec 5
  rd : BitVec 5
  rl : BitVec 5
  lev : Bool
  lctr : BitVec 6
  sig : Bool
  sctr : BitVec 6
  len : BitVec 24
  src : BitVec 24
  dst : BitVec 24
  deriving DecidableEq, Repr

/-- Class fields of a sync word (R145, Table 4.15). -/
structure SynFields where
  ctr : BitVec 6
  rs : BitVec 5
  bctx : BitVec 2
  imm : BitVec 32
  deriving DecidableEq, Repr

/-- Class fields of a control word (R147, Table 4.17). -/
structure CtlFields where
  rd : BitVec 5
  ra : BitVec 5
  rb : BitVec 5
  im : Bool
  imm : BitVec 64
  deriving DecidableEq, Repr

/-- What the core's own hardware does wrong during the step of one instruction (R87, R90, R157). -/
inductive Glitch where
  /-- Nothing. -/
  | none
  /-- A single-bit scratchpad error in the given line, corrected on read (R157). -/
  | corrected (line : Nat)
  /-- A double-bit scratchpad error in a read by the core's own units (R157). -/
  | uncorrectable
  /-- The second pass of a paired vector instruction differs (R90); seen only with paired execution. -/
  | mismatch
  /-- A multiplier of the lane adds a wrong block sum to the accumulator of the row (R84 to R87). -/
  | product (row : Fin 32) (lane : Fin 64) (delta : Int)
  deriving DecidableEq, Repr

/-- A direction of travel and an edge of a site, in the order of R202. -/
inductive Dir where
  | east | north | west | south
  deriving DecidableEq, Repr

/-- Number of a torus or grid direction (Tables 6.4 and R202). -/
def Dir.code : Dir → Nat
  | .east => 0 | .north => 1 | .west => 2 | .south => 3

/-- A fabric cell (R187, Table 6.1). With mc set, the masks stand in place of route, torus and source fields. -/
structure Cell where
  ver : BitVec 4
  cls : BitVec 2
  vc : BitVec 2
  ocls : BitVec 2
  kind : BitVec 5
  half : Bool
  mc : Bool
  pos : BitVec 3
  lb : BitVec 6
  l1s0 : BitVec 7
  l1s1 : BitVec 7
  l1s2 : BitVec 7
  l3s0 : BitVec 7
  l3s1 : BitVec 7
  l3s2 : BitVec 7
  dx : BitVec 5
  dy : BitVec 5
  dz : BitVec 5
  sx : BitVec 4
  sy : BitVec 4
  sz : BitVec 4
  colmask : BitVec 20
  rowmask : BitVec 12
  coremask : BitVec 32
  srcEp : BitVec 16
  dstEp : BitVec 16
  tag : BitVec 10
  idx : BitVec 9
  cnt : BitVec 9
  offset : BitVec 36
  payload : List Byte
  deriving DecidableEq, Repr

/-- Where a router of the grid or the port of a rim die stands. -/
inductive RouterLoc where
  /-- Router q of a grid site (R182, R183). -/
  | grid (site : SiteNo) (q : Fin 4)
  /-- The port of a rim die, by its number of R356 less 240 (R235). -/
  | rim (die : Fin 27)
  deriving DecidableEq, Repr

/-- The task-start message of the belay network (R103, R104, R113, R313). ring and slot name the launch. -/
structure TaskStartMsg where
  rank : BitVec 25
  nranks : BitVec 32
  entry : BitVec 20
  args : Word
  task : BitVec 32
  step : BitVec 32
  seed : BitVec 32
  sbBypass : Bool
  paired : Bool
  haltOnAssay : Bool
  astatClear : Bool
  ring : RingNo
  slot : Nat
  deriving DecidableEq, Repr

/-- A completion token (R105). -/
structure Token where
  status : BitVec 4
  astat : BitVec 16
  checked : BitVec 32
  unchecked : BitVec 32
  deriving DecidableEq, Repr

/-- Who makes a Cairn operation (R304, R464, R473, R483). -/
inductive Who where
  /-- A management session, by its sid. -/
  | session (sid : BitVec 16)
  /-- The Cairn window of a host die, by the QP that carries the operation. -/
  | qp (host : HostNo) (qpn : BitVec 24)
  /-- The serial monitor. -/
  | monitor
  /-- Base-camp firmware. -/
  | firmware
  deriving DecidableEq, Repr

/-- A register or entry that REGISTER_WRITE names (R11, R12). -/
inductive RegTarget where
  /-- A CORE_ register in space 0x3, written by the endpoint (R111). -/
  | core (c : CoreId) (off : BitVec 16) (by_ : BitVec 16)
  /-- An SPM_ register in the window of space 0x2 (R162). -/
  | spm (c : CoreId) (off : BitVec 12) (by_ : BitVec 16)
  /-- A CRU_ register in space 0x4 (R265). -/
  | cru (m : MemSiteNo) (off : BitVec 12) (by_ : BitVec 16)
  /-- A Cairn entry of at most 8 bytes, index.sub, written by who (R12). -/
  | cairn (who : Who) (index : BitVec 16) (sub : BitVec 8)
  /-- CLK_STATE of a die, written by base-camp firmware over the service bus (R357). -/
  | clk (d : DieNo)
  deriving DecidableEq, Repr

/-- A codeword as the receiver's FEC gives it (R267 to R271, Table 8.1). -/
structure Codeword where
  bad : Bool
  corrected : Bool
  /-- Its number, by the receiver's count (R269). -/
  num : BitVec 10
  ctype : BitVec 2
  seq : BitVec 10
  cvc : BitVec 4
  ccnt : BitVec 4
  /-- Its 640 bytes of cell stream (R267). -/
  stream : List Byte
  deriving DecidableEq, Repr

/-- A capability record (R278, Table 8.6). -/
structure CapRec where
  ver : BitVec 4
  gen : BitVec 4
  protoMin : BitVec 4
  protoMax : BitVec 4
  rappel : Bool
  shape : BitVec 3
  dbl : Bool
  nx : BitVec 5
  ny : BitVec 5
  nz : BitVec 5
  x : Byte
  y : Byte
  z : Byte
  dir : BitVec 3
  dlink : BitVec 6
  link : BitVec 7
  fw : BitVec 16
  deriving DecidableEq, Repr

/-- An IP address of a connection request (R292, R294). -/
inductive Ip where
  | v4 (a : BitVec 32)
  | v6 (a : BitVec 128)
  deriving DecidableEq, Repr

/-- An engine of a memory site, numbered as in R249. -/
inductive Engine where
  | reduce | gather | relayout
  deriving DecidableEq, Repr

/-- What the lines of one read of a stack or of a scratchpad report (R157, R239, Table 7.1). A line is counted from the first
that the read touches. -/
inductive EccObs where
  | clean
  | corrected (line : Nat)
  | uncorrectable (line : Nat)
  /-- A parity failure of the stack's link at the line, which the one retry mends (Table 7.1). -/
  | parity (line : Nat)
  deriving DecidableEq, Repr

/-- What sends contributions: a move channel of a core, or a stream whose output feeds another stream (R252, R254). -/
inductive Contributor where
  | core (c : CoreId)
  | site (m : MemSiteNo)
  deriving DecidableEq, Repr

/-- A packet at a host die, and whether it is marked CE (R297). -/
structure Packet where
  host : HostNo
  ce : Bool
  deriving DecidableEq, Repr

/-- A ring whose next copy starts, and what the reads of its source report (R239, R314). -/
structure CopyStart where
  ring : RingNo
  ecc : EccObs
  deriving DecidableEq, Repr

/-- A requester of an arbiter, and how long it has held what it was granted (R245, R469). -/
structure Holder (n : Nat) where
  req : Fin n
  held : Nat
  deriving DecidableEq, Repr

/-- One PMBus poll of a module (R370, Table 16.2). -/
structure PmbusReading where
  vout : BitVec 16
  iout : BitVec 16
  temp : Int
  statusFault : Bool
  phaseFail : Byte
  deriving DecidableEq, Repr

/-- The hub's sample block (R501, Table 16.7). -/
structure HubBlock where
  inlet : BitVec 16
  outlet : BitVec 16
  plate : BitVec 16
  flow : BitVec 16
  seq : BitVec 16
  inletOk : Bool
  outletOk : Bool
  plateOk : Bool
  flowOk : Bool
  busOk : Bool
  ver : BitVec 4
  deriving DecidableEq, Repr

/-- What the panel measures and finds during a full panel reset (Tables 12.1 to 12.3).
Positions are named by physical core id (R20), dies and sites by their numbers. -/
structure BootObs where
  /-- The PUF secret was reconstructed, and every floor read with a valid signature (R442). -/
  pufOk : Bool
  floorsOk : Bool
  /-- The 156.25 MHz reference is present (R335, Table 12.1 step 3). -/
  refPresent : Bool
  /-- TRIP_N is high at the TRIP_CLR pulse of step 1: no comparator asserts it (R498). -/
  tripHigh : Bool
  /-- Grid sites that do not answer, or answer with the wrong kind (Table 12.3 item 1). -/
  deadSites : List SiteNo
  /-- Link dies that do not answer (Table 12.4). -/
  deadLinks : List LinkDieNo
  /-- Edge halves that fail calibration: site and k = 2 x edge + half (R344). -/
  badEdges : List (SiteNo × Fin 8)
  /-- FIFO depth that gives a connected half a crossing of 2 ticks: one for every half but those listed, by site and k. An edge
  half whose depth is not from 2 to 7 fails (R343, R344). -/
  depth : Nat
  depths : List ((SiteNo × Fin 8) × Nat)
  /-- Physical cores that fail the known-answer test (R392). -/
  badCores : List (BitVec 14)
  /-- Memory sites not trained at 48 GiB (Table 12.3 item 4). -/
  badSites : List MemSiteNo
  /-- Lane repairs that the HBM PHY trainings find (Table 7.1). -/
  lanes : List Byte
  /-- Host ports found up (step 11). -/
  portsUp : List PortNo
  /-- Versions found of each distinct die revision and stack code, by the pair codes 0x11 to 0x16 (R454). -/
  revisions : List (BitVec 8 × BitVec 16)
  /-- Milliseconds from the first step to ready. -/
  durationMs : BitVec 32
  deriving DecidableEq, Repr

/-- A definition entry of a partition (R397). -/
inductive PartField where
  | rect (v : BitVec 32)
  | sites (v : BitVec 16)
  | owner (v : BitVec 32)
  deriving DecidableEq, Repr

/-- A drill record (R431, Table 13.9). -/
structure DrillRec where
  ver : BitVec 4
  kind : BitVec 4
  part : BitVec 4
  target : BitVec 16
  window : BitVec 32
  trigger : Word
  repeat_ : BitVec 16
  interval : BitVec 32
  deriving DecidableEq, Repr

/-- A perturbation register (R434). -/
inductive PertReg where
  | rtr | pwr | lnk
  deriving DecidableEq, Repr

/-- A station's hello (R461). -/
structure HelloMsg where
  verLo : BitVec 4
  verHi : BitVec 4
  level : BitVec 2
  nonce : List Byte
  ephemeral : List Byte
  cert : List Byte
  deriving DecidableEq, Repr

/-- The commands: one constructor for each row of spec/opcode_table.json, in the table's order. -/
inductive Instr where
  /-- MLOAD (R80). -/
  | mload (c : CoreId) (f : MatFields) (g : Glitch)
  /-- MMUL (R81). -/
  | mmul (c : CoreId) (f : MatFields) (g : Glitch)
  /-- MREAD (R82). -/
  | mread (c : CoreId) (f : MatFields) (g : Glitch)
  /-- VLD (R139). -/
  | vld (c : CoreId) (f : VecFields) (g : Glitch)
  /-- VST (R139). -/
  | vst (c : CoreId) (f : VecFields) (g : Glitch)
  /-- VMOV (R133). -/
  | vmov (c : CoreId) (f : VecFields) (g : Glitch)
  /-- VBCAST (R133). -/
  | vbcast (c : CoreId) (f : VecFields) (g : Glitch)
  /-- VTLOAD (R137). -/
  | vtload (c : CoreId) (f : VecFields) (g : Glitch)
  /-- VPSET (R130). -/
  | vpset (c : CoreId) (f : VecFields) (g : Glitch)
  /-- VPST (R139). -/
  | vpst (c : CoreId) (f : VecFields) (g : Glitch)
  /-- VADD (R131). -/
  | vadd (c : CoreId) (f : VecFields) (g : Glitch)
  /-- VSUB (R131). -/
  | vsub (c : CoreId) (f : VecFields) (g : Glitch)
  /-- VMUL (R131). -/
  | vmul (c : CoreId) (f : VecFields) (g : Glitch)
  /-- VFMA (R131). -/
  | vfma (c : CoreId) (f : VecFields) (g : Glitch)
  /-- VMIN (R134). -/
  | vmin (c : CoreId) (f : VecFields) (g : Glitch)
  /-- VMAX (R134). -/
  | vmax (c : CoreId) (f : VecFields) (g : Glitch)
  /-- VDIV (R134). -/
  | vdiv (c : CoreId) (f : VecFields) (g : Glitch)
  /-- VSQRT (R132). -/
  | vsqrt (c : CoreId) (f : VecFields) (g : Glitch)
  /-- VABS (R134). -/
  | vabs (c : CoreId) (f : VecFields) (g : Glitch)
  /-- VNEG (R134). -/
  | vneg (c : CoreId) (f : VecFields) (g : Glitch)
  /-- VAND (R130). -/
  | vand (c : CoreId) (f : VecFields) (g : Glitch)
  /-- VOR (R130). -/
  | vor (c : CoreId) (f : VecFields) (g : Glitch)
  /-- VXOR (R130). -/
  | vxor (c : CoreId) (f : VecFields) (g : Glitch)
  /-- VSHL (R130). -/
  | vshl (c : CoreId) (f : VecFields) (g : Glitch)
  /-- VSHR (R130). -/
  | vshr (c : CoreId) (f : VecFields) (g : Glitch)
  /-- VSRA (R130). -/
  | vsra (c : CoreId) (f : VecFields) (g : Glitch)
  /-- VCMP (R135). -/
  | vcmp (c : CoreId) (f : VecFields) (g : Glitch)
  /-- VSEL (R135). -/
  | vsel (c : CoreId) (f : VecFields) (g : Glitch)
  /-- VREDSUM (R136). -/
  | vredsum (c : CoreId) (f : VecFields) (g : Glitch)
  /-- VREDMAX (R136). -/
  | vredmax (c : CoreId) (f : VecFields) (g : Glitch)
  /-- VREDMIN (R136). -/
  | vredmin (c : CoreId) (f : VecFields) (g : Glitch)
  /-- VACT (R137). -/
  | vact (c : CoreId) (f : VecFields) (g : Glitch)
  /-- VCVT (R63). -/
  | vcvt (c : CoreId) (f : VecFields) (g : Glitch)
  /-- VMXP (R138). -/
  | vmxp (c : CoreId) (f : VecFields) (g : Glitch)
  /-- VMXU (R138). -/
  | vmxu (c : CoreId) (f : VecFields) (g : Glitch)
  /-- MCOPY (R91). -/
  | mcopy (c : CoreId) (f : MovFields)
  /-- M2D (R143). -/
  | m2d (c : CoreId) (f : MovFields)
  /-- MCONTRIB (R255). -/
  | mcontrib (c : CoreId) (f : MovFields)
  /-- MFILL (R142). -/
  | mfill (c : CoreId) (f : MovFields)
  /-- MOVE_START (R142). -/
  | moveStart (c : CoreId) (ch : ChanNo) (g : Glitch)
  /-- MOVE_COMPLETE (R93). -/
  | moveComplete (c : CoreId) (ch : ChanNo)
  /-- ESET (R145). -/
  | eset (c : CoreId) (f : SynFields)
  /-- EADD (R145). -/
  | eadd (c : CoreId) (f : SynFields)
  /-- EWAIT (R96). -/
  | ewait (c : CoreId) (f : SynFields)
  /-- ESIG (R146). -/
  | esig (c : CoreId) (f : SynFields)
  /-- BAR (R100). -/
  | bar (c : CoreId) (f : SynFields)
  /-- BARRIER_RELEASE (R100). -/
  | barrierRelease (r : RingNo) (slot : Nat) (ctx : Fin 4)
  /-- ADD (R147). -/
  | add (c : CoreId) (f : CtlFields)
  /-- SUB (R147). -/
  | sub (c : CoreId) (f : CtlFields)
  /-- MUL (R147). -/
  | mul (c : CoreId) (f : CtlFields)
  /-- AND (R147). -/
  | andOp (c : CoreId) (f : CtlFields)
  /-- OR (R147). -/
  | orOp (c : CoreId) (f : CtlFields)
  /-- XOR (R147). -/
  | xorOp (c : CoreId) (f : CtlFields)
  /-- SHL (R147). -/
  | shl (c : CoreId) (f : CtlFields)
  /-- SHR (R147). -/
  | shr (c : CoreId) (f : CtlFields)
  /-- SRA (R147). -/
  | sra (c : CoreId) (f : CtlFields)
  /-- SLT (R147). -/
  | slt (c : CoreId) (f : CtlFields)
  /-- SLTU (R147). -/
  | sltu (c : CoreId) (f : CtlFields)
  /-- BEQ (R148). -/
  | beq (c : CoreId) (f : CtlFields)
  /-- BNE (R148). -/
  | bne (c : CoreId) (f : CtlFields)
  /-- BLT (R148). -/
  | blt (c : CoreId) (f : CtlFields)
  /-- BGE (R148). -/
  | bge (c : CoreId) (f : CtlFields)
  /-- BLTU (R148). -/
  | bltu (c : CoreId) (f : CtlFields)
  /-- BGEU (R148). -/
  | bgeu (c : CoreId) (f : CtlFields)
  /-- JAL (R148). -/
  | jal (c : CoreId) (f : CtlFields)
  /-- JALR (R148). -/
  | jalr (c : CoreId) (f : CtlFields)
  /-- LD1U (R149). -/
  | ld1u (c : CoreId) (f : CtlFields) (g : Glitch)
  /-- LD2U (R149). -/
  | ld2u (c : CoreId) (f : CtlFields) (g : Glitch)
  /-- LD4U (R149). -/
  | ld4u (c : CoreId) (f : CtlFields) (g : Glitch)
  /-- LD8 (R149). -/
  | ld8 (c : CoreId) (f : CtlFields) (g : Glitch)
  /-- LD1S (R149). -/
  | ld1s (c : CoreId) (f : CtlFields) (g : Glitch)
  /-- LD2S (R149). -/
  | ld2s (c : CoreId) (f : CtlFields) (g : Glitch)
  /-- LD4S (R149). -/
  | ld4s (c : CoreId) (f : CtlFields) (g : Glitch)
  /-- ST1 (R149). -/
  | st1 (c : CoreId) (f : CtlFields)
  /-- ST2 (R149). -/
  | st2 (c : CoreId) (f : CtlFields)
  /-- ST4 (R149). -/
  | st4 (c : CoreId) (f : CtlFields)
  /-- ST8 (R149). -/
  | st8 (c : CoreId) (f : CtlFields)
  /-- LDP (R149). -/
  | ldp (c : CoreId) (f : CtlFields)
  /-- STP (R149). -/
  | stp (c : CoreId) (f : CtlFields)
  /-- IFENCE (R70). -/
  | ifence (c : CoreId) (f : CtlFields)
  /-- RSEED (R150). -/
  | rseed (c : CoreId) (f : CtlFields)
  /-- END (R105). -/
  | endTask (c : CoreId) (f : CtlFields)
  /-- RPRC (R147). -/
  | rprc (c : CoreId) (f : CtlFields)
  /-- RANGE_RETIRE (R75). -/
  | rangeRetire (c : CoreId) (entry : Nat)
  /-- DRAIN_COMPLETE (R105). -/
  | drainComplete (c : CoreId)
  /-- TOKEN_ACK (R105). -/
  | tokenAck (c : CoreId)
  /-- TASK_START (R103). -/
  | taskStart (c : CoreId) (m : TaskStartMsg)
  /-- TASK_STOP (R107). -/
  | taskStop (c : CoreId)
  /-- PARTITION_STOP (R101). -/
  | partitionStop (c : CoreId)
  /-- STALL_WATCHDOG (R174). -/
  | stallWatchdog (c : CoreId)
  /-- GATHERER_TIMEOUT (R160). -/
  | gathererTimeout (c : CoreId) (line : Nat)
  /-- SPM_RING_CFG (R164). -/
  | spmRingCfg (c : CoreId) (n : Fin 16) (v : Word)
  /-- SPM_RING_PUSH (R171). -/
  | spmRingPush (c : CoreId) (n : Fin 16) (v : Word)
  /-- SPM_RING_POP (R171). -/
  | spmRingPop (c : CoreId) (n : Fin 16) (v : Word)
  /-- CORE_EVC_WRITE (R97). -/
  | coreEvcWrite (c : CoreId) (n : Fin 64) (v : Word)
  /-- REGISTER_WRITE (R11). -/
  | registerWrite (t : RegTarget) (v : Word)
  /-- CORE_RESET (R109). -/
  | coreReset (c : CoreId)
  /-- CLUSTER_RESET (R403). -/
  | clusterReset (k : ClusterNo)
  /-- REGION_RESET (R403). -/
  | regionReset (r : RegionNo)
  /-- PARTITION_RESET (R404). -/
  | partitionReset (p : PartNo)
  /-- CELL_ROUTE (R193). -/
  | cellRoute (at_ : RouterLoc) (din : Option Dir) (x : Cell) (ecc : Bool)
  /-- WRITE (R212). -/
  | write (x : Cell)
  /-- READ (R212). -/
  | read (x : Cell) (e : EccObs)
  /-- REG_WRITE (R111). -/
  | regWrite (x : Cell)
  /-- REG_READ (R111). -/
  | regRead (x : Cell)
  /-- SIGNAL (R97). -/
  | signal (x : Cell)
  /-- CREDIT_REQUEST (R254). -/
  | creditRequest (x : Cell)
  /-- CONTRIB (R255). -/
  | contrib (x : Cell)
  /-- MWRITE (R207). -/
  | mwrite (k : ClusterNo) (x : Cell)
  /-- WRITE_ACK (R212). -/
  | writeAck (x : Cell)
  /-- READ_DATA (R210). -/
  | readData (x : Cell)
  /-- REG_DATA (R72). -/
  | regData (x : Cell)
  /-- ADDRESS_ERROR_RESPONSE (R214). -/
  | addressErrorResponse (x : Cell)
  /-- RESET_NACK (R214). -/
  | resetNack (x : Cell)
  /-- CORE_ABSENT (R214). -/
  | coreAbsent (x : Cell)
  /-- BUSY (R211). -/
  | busy (x : Cell)
  /-- BUSY_RETRY (R211). -/
  | busyRetry (ep : BitVec 16) (tag : BitVec 10) (idx : BitVec 9)
  /-- CREDIT_GRANT (R254). -/
  | creditGrant (x : Cell)
  /-- TARGET_SLOT_TIMEOUT (R213). -/
  | targetSlotTimeout (ni : Nat) (src : BitVec 28) (tag : BitVec 10)
  /-- TOMBSTONE_EXPIRY (R213). -/
  | tombstoneExpiry (ni : Nat) (src : BitVec 28) (tag : BitVec 10)
  /-- REQUESTER_TIMEOUT (R214). -/
  | requesterTimeout (ep : BitVec 16) (tag : BitVec 10)
  /-- TAG_REOPEN (R214). -/
  | tagReopen (ep : BitVec 16) (tag : BitVec 10)
  /-- CONGESTION_WINDOW_END (R202). -/
  | congestionWindowEnd (site : SiteNo) (occ : List Nat)
  /-- CONGESTION_MAP (R202). -/
  | congestionMap (d : DieNo)
  /-- CONGESTION_MAP_STALE (R202). -/
  | congestionMapStale (d : DieNo)
  /-- CMAP_RECORD (R203). -/
  | cmapRecord
  /-- ROUTER_FENCE (R231). -/
  | routerFence (site : SiteNo) (q : Fin 4) (cause : BitVec 4)
  /-- ROUTE_HOLE_MAP (R231). -/
  | routeHoleMap (d : DieNo)
  /-- HOP_TABLE_UPDATE (R31). -/
  | hopTableUpdate
  /-- TRANSIT_TABLE_RECOMPUTE (R285). -/
  | transitTableRecompute
  /-- RMAP_COMMIT (R228). -/
  | rmapCommit (p : PartNo)
  /-- RANK_MAP_LOADED (R229). -/
  | rankMapLoaded (p : PartNo)
  /-- CODEWORD_RECEIVE (R270). -/
  | codewordReceive (l : LinkNo) (w : Codeword)
  /-- RETRY_REQUEST (R270). -/
  | retryRequest (l : LinkNo) (seq : BitVec 10)
  /-- LINK_CREDIT (R271). -/
  | linkCredit (l : LinkNo) (cvc : BitVec 4) (ccnt : BitVec 4)
  /-- LINK_TRAINING (R278). -/
  | linkTraining (l : LinkNo) (signal_ lock_ : Bool) (rtt : BitVec 12)
  /-- CAPABILITY_RECORD (R278). -/
  | capabilityRecord (l : LinkNo) (copies : List (List (BitVec 20)))
  /-- TRAINING_TIMEOUT (R278). -/
  | trainingTimeout (l : LinkNo) (signal_ : Bool)
  /-- LOSS_OF_LOCK (R280). -/
  | lossOfLock (l : LinkNo)
  /-- RETRAIN_ATTEMPT (R280). -/
  | retrainAttempt (l : LinkNo) (peerFailed : Bool)
  /-- LINK_FENCE (R279). -/
  | linkFence (l : LinkNo)
  /-- LINK_UNFENCE (R280). -/
  | linkUnfence (l : LinkNo)
  /-- LINK_RETRAIN (R279). -/
  | linkRetrain (l : LinkNo)
  /-- CELL_EXIT (R284). -/
  | cellExit (d : LinkDieNo) (x : Cell)
  /-- CELL_ENTRY (R195). -/
  | cellEntry (l : LinkNo) (x : Cell)
  /-- EXIT_MAP_CHANGE (R282). -/
  | exitMapChange
  /-- RDMA_WRITE (R299). -/
  | rdmaWrite (p : Packet) (qpn : BitVec 24) (rkey : BitVec 32) (va : Word) (data : List Byte)
  /-- RDMA_WRITE_IMM (R299). -/
  | rdmaWriteImm (p : Packet) (qpn : BitVec 24) (rkey : BitVec 32) (va : Word) (data : List Byte) (imm : BitVec 32)
  /-- RDMA_READ (R299). -/
  | rdmaRead (p : Packet) (qpn : BitVec 24) (rkey : BitVec 32) (va : Word) (len : BitVec 32)
  /-- FETCH_AND_ADD (R301). -/
  | fetchAndAdd (p : Packet) (qpn : BitVec 24) (rkey : BitVec 32) (va : Word) (v : Word)
  /-- COMPARE_AND_SWAP (R301). -/
  | compareAndSwap (p : Packet) (qpn : BitVec 24) (rkey : BitVec 32) (va : Word) (cmp swap : Word)
  /-- INVALID_OPCODE (R293). -/
  | invalidOpcode (h : HostNo) (qpn : BitVec 24)
  /-- ICRC_FAIL (R293). -/
  | icrcFail (port : PortNo)
  /-- RDMA_ACK (R314). -/
  | rdmaAck (h : HostNo) (qpn : BitVec 24)
  /-- RDMA_READ_RESPONSE (R314). -/
  | rdmaReadResponse (p : Packet) (qpn : BitVec 24) (data : List Byte)
  /-- ACK_TIMEOUT (R296). -/
  | ackTimeout (h : HostNo) (qpn : BitVec 24)
  /-- CM_REQ (R294). -/
  | cmReq (port : PortNo) (ver part : Byte) (ip : Ip)
  /-- CM_RTU (R294). -/
  | cmRtu (h : HostNo) (qpn : BitVec 24)
  /-- CM_REJ (R294). -/
  | cmRej (h : HostNo) (qpn : BitVec 24)
  /-- CM_DREQ (R294). -/
  | cmDreq (h : HostNo) (qpn : BitVec 24)
  /-- CM_DREP (R295). -/
  | cmDrep (h : HostNo) (qpn : BitVec 24)
  /-- CNP_RECEIVED (R297). -/
  | cnpReceived (h : HostNo) (qpn : BitVec 24)
  /-- RATE_INCREASE (R297). -/
  | rateIncrease (h : HostNo) (qpn : BitVec 24)
  /-- QP_ERROR (R328). -/
  | qpError (h : HostNo) (qpn : BitVec 24) (syndrome : Byte)
  /-- PORT_STATE (R291). -/
  | portState (port : PortNo) (up : Bool)
  /-- PORT_RESTART (R291). -/
  | portRestart (port : PortNo)
  /-- RING_TAIL_WRITE (R307). -/
  | ringTailWrite (r : RingNo) (tail : Word)
  /-- LAUNCH (R313). -/
  | launch (r : RingNo)
  /-- COPY (R314). -/
  | copy (r : CopyStart)
  /-- COLLECTIVE (R315). -/
  | collective (r : RingNo)
  /-- RESHARD (R315). -/
  | reshard (r : RingNo)
  /-- BARRIER (R316). -/
  | barrier (r : RingNo)
  /-- FENCE (R317). -/
  | fence (r : RingNo)
  /-- PITCH (R318). -/
  | pitch (r : RingNo)
  /-- ABORT (R322). -/
  | abort (r : RingNo) (rec_ : List Byte)
  /-- QUERY (R319). -/
  | query (r : RingNo) (rec_ : List Byte)
  /-- COMPLETION_TOKEN (R108). -/
  | completionToken (c : CoreId) (t : Token)
  /-- EVENT_RING_CONS (R325). -/
  | eventRingCons (r : RingNo) (cons_ : Word)
  /-- COMMAND_RING_ENABLE (R305). -/
  | commandRingEnable (who : Who) (r : RingNo) (on_ : Bool)
  /-- EVENT_RING_ENABLE (R328). -/
  | eventRingEnable (who : Who) (r : RingNo) (on_ : Bool)
  /-- REDUCE_OPEN (R250). -/
  | reduceOpen (m : MemSiteNo) (src : BitVec 16) (d : List Byte)
  /-- REDUCE_CLOSE (R250). -/
  | reduceClose (m : MemSiteNo) (src : BitVec 16) (d : List Byte)
  /-- GATHER (R259). -/
  | gather (m : MemSiteNo) (src : BitVec 16) (d : List Byte)
  /-- SCATTER (R260). -/
  | scatter (m : MemSiteNo) (src : BitVec 16) (d : List Byte)
  /-- RELAYOUT (R261). -/
  | relayout (m : MemSiteNo) (src : BitVec 16) (d : List Byte)
  /-- DESCRIPTOR_START (R248). -/
  | descriptorStart (m : MemSiteNo) (e : Engine) (ecc : EccObs)
  /-- DESCRIPTOR_END (R249). -/
  | descriptorEnd (m : MemSiteNo) (e : Engine) (stream : Fin 64)
  /-- STREAM_TIMEOUT (R257). -/
  | streamTimeout (m : MemSiteNo) (stream : Fin 64)
  /-- ARBITER_CUTOFF (R246). -/
  | arbiterCutoff (m : MemSiteNo) (ch : Fin 32) (req : Holder 5)
  /-- ARB_LOCK_CLEAR (R246). -/
  | arbLockClear (m : MemSiteNo)
  /-- REFRESH (R247). -/
  | refresh (m : MemSiteNo) (pc : Fin 64) (granted : Bool)
  /-- REFRESH_OVERDUE (R247). -/
  | refreshOverdue (m : MemSiteNo) (pc : Fin 64)
  /-- PATROL (R241). -/
  | patrol (m : MemSiteNo) (line : Nat) (e : EccObs)
  /-- HBM_TEMP_READ (R240). -/
  | hbmTempRead (m : MemSiteNo) (temp : BitVec 16)
  /-- REF_CHECK (R336). -/
  | refCheck (present : Bool) (ppm : Int)
  /-- REF_RESTORED (R337). -/
  | refRestored
  /-- PRC_SKEW_CHECK (R342). -/
  | prcSkewCheck (d : DieNo) (skew : Int)
  /-- CHANGE_ARM (R348). -/
  | changeArm (die : Option DieNo) (step : BitVec 4)
  /-- CHANGE_ACK (R348). -/
  | changeAck (d : DieNo)
  /-- CHANGE_DEADLINE (R348). -/
  | changeDeadline (settled : Bool)
  /-- CHANGE_CANCEL (R350). -/
  | changeCancel (d : DieNo)
  /-- CHANGE_STOP (R349). -/
  | changeStop
  /-- CHANGE_RESUME (R348). -/
  | changeResume (unlocked : List DieNo)
  /-- RELOCK_FALLBACK (R351). -/
  | relockFallback (d : DieNo)
  /-- CURRENT_SAMPLE (R367). -/
  | currentSample (d : CellDie) (rail r0 r1 : Nat)
  /-- THROTTLE_STEP (R367). -/
  | throttleStep (d : CellDie) (scope : Fin 3)
  /-- DROOP_DETECT (R369). -/
  | droopDetect (r : RegionNo)
  /-- DROOP_RECOVER (R369). -/
  | droopRecover (r : RegionNo) (skipped : Nat)
  /-- LDO_SLICE_FAIL (R364). -/
  | ldoSliceFail (r : RegionNo) (slice : Fin 16)
  /-- PMBUS_POLL (R370). -/
  | pmbusPoll (site : SiteNo) (v : PmbusReading)
  /-- MODULE_TIMEOUT (R370). -/
  | moduleTimeout (site : SiteNo)
  /-- BUMP_DROP (R371). -/
  | bumpDrop (site : SiteNo) (group : Fin 64) (ratio : BitVec 16)
  /-- HEADROOM_REQUEST (R372). -/
  | headroomRequest (r : RegionNo)
  /-- HEADROOM_DEFER_TIMEOUT (R372). -/
  | headroomDeferTimeout (r : RegionNo)
  /-- HEADROOM_RELEASE (R372). -/
  | headroomRelease (r : RegionNo)
  /-- RETENTION_HOLD (R363). -/
  | retentionHold (r : RegionNo)
  /-- SLACK_SAMPLE (R373). -/
  | slackSample (r : RegionNo) (slack : Byte)
  /-- TEMPERING_PERIOD_END (R373). -/
  | temperingPeriodEnd
  /-- DOMAIN_REPORT (R375). -/
  | domainReport (d : Fin 720) (mean peak : BitVec 32) (mv10 : BitVec 32)
  /-- REPORT_REARM (R375). -/
  | reportRearm (d : Fin 720)
  /-- PITCH_PHASE_START (R376). -/
  | pitchPhaseStart (hint : Nat) (power : Nat)
  /-- PITCH_PHASE_END (R376). -/
  | pitchPhaseEnd (hint : Nat)
  /-- HUB_SAMPLE (R501). -/
  | hubSample (b : Option HubBlock)
  /-- TRAY_LOST (R379). -/
  | trayLost
  /-- CAP_UPDATE (R380). -/
  | capUpdate (power : Nat)
  /-- STEP_CONTROL (R381). -/
  | stepControl (power : Nat)
  /-- HEARTBEAT (R425). -/
  | heartbeat (d : DieNo) (milliwatts : Nat) (silent : List (BitVec 14))
  /-- DIE_SENSOR_SAMPLE (R382). -/
  | dieSensorSample (site : SiteNo) (temp : Int)
  /-- DIE_UNPIN (R382). -/
  | dieUnpin (site : SiteNo)
  /-- THERMAL_TRIP (R383). -/
  | thermalTrip (d : DieNo) (temp : Int)
  /-- QUENCH_LIFTED (R386). -/
  | quenchLifted
  /-- STBY_OK_FALL (R498). -/
  | stbyOkFall
  /-- BUS_UNDERVOLTAGE (R495). -/
  | busUndervoltage
  /-- COLD_BOOT (R390). -/
  | coldBoot (o : BootObs)
  /-- WARM_PANEL_RESET (R394). -/
  | warmPanelReset (o : BootObs)
  /-- PARTITION_DEFINE (R397). -/
  | partitionDefine (p : PartNo) (f : PartField)
  /-- SWITCH_ON (R399). -/
  | switchOn (p : PartNo)
  /-- PARTITION_STARTED (R398). -/
  | partitionStarted (p : PartNo) (scrubFailed : List (BitVec 14))
  /-- SWITCH_OFF (R399). -/
  | switchOff (p : PartNo)
  /-- DELETE (R400). -/
  | delete (p : PartNo)
  /-- COMPACT (R417). -/
  | compact
  /-- SPARE_SWITCH_IN (R416). -/
  | spareSwitchIn (k : ClusterNo)
  /-- UNCHECKED_HOUR (R418). -/
  | uncheckedHour (pcid : BitVec 14)
  /-- SWEEP (R420). -/
  | sweep (pcid : BitVec 14) (pass : Bool) (temp : BitVec 16) (unit_ : BitVec 4)
  /-- PUSHED_SWEEP (R423). -/
  | pushedSweep (r : RegionNo) (failed : List (BitVec 14)) (temp : BitVec 16) (unit_ : BitVec 4)
  /-- HEARTBEAT_MISSING (R426). -/
  | heartbeatMissing (d : DieNo) (pcid : Option (BitVec 14))
  /-- PROBE_TIMEOUT (R426). -/
  | probeTimeout (site : SiteNo) (pcid : Option (BitVec 14))
  /-- LIVENESS (R427): the ages in milliseconds are those that began before State saw a heartbeat or progress (log 88). -/
  | liveness (c : CoreId) (kind : BitVec 3) (beatAge progressAge : BitVec 16)
  /-- CLEAR (R428). -/
  | clear (pcid : BitVec 14)
  /-- QUARANTINE (R428). -/
  | quarantine (pcid : BitVec 14)
  /-- RETURN (R428). -/
  | returnPos (pcid : BitVec 14)
  /-- REPLACE (R428). -/
  | replace (pcid : BitVec 14)
  /-- RETIRE (R428). -/
  | retire (pcid : BitVec 14)
  /-- UNFENCE (R428). -/
  | unfence (pcid : BitVec 14)
  /-- FENCE_ROUTER (R428). -/
  | fenceRouter (site : SiteNo) (q : Fin 4)
  /-- RETIRE_SITE (R428). -/
  | retireSite (m : MemSiteNo)
  /-- CANCEL (R428). -/
  | cancel
  /-- ACTION_PROCEED (R429). -/
  | actionProceed (pass : Bool)
  /-- DRILL_ARM (R431). -/
  | drillArm (slot : Fin 8) (rec_ : DrillRec)
  /-- DRILL_TRIGGER (R431). -/
  | drillTrigger (slot : Fin 8)
  /-- DRILL_WINDOW_END (R432). -/
  | drillWindowEnd (slot : Fin 8)
  /-- PERTURB_WRITE (R434). -/
  | perturbWrite (d : DieNo) (reg : PertReg) (v : Word)
  /-- PERTURB_TIMEOUT (R434). -/
  | perturbTimeout (d : DieNo) (reg : PertReg)
  /-- LICENCE_INSTALL (R449). -/
  | licenceInstall (rec_ : List Byte)
  /-- STAGE_OPEN (R456). -/
  | stageOpen (sid : BitVec 16) (comp : Byte)
  /-- STAGE_DATA (R456). -/
  | stageData (sid : BitVec 16) (v : Word)
  /-- STAGE_COMMIT (R456). -/
  | stageCommit (sid : BitVec 16)
  /-- HALLMARK_ISSUE (R458). -/
  | hallmarkIssue
  /-- HELLO (R461). -/
  | hello (mac : BitVec 48) (m : HelloMsg)
  /-- FINISH (R461). -/
  | finish (mac : BitVec 48) (sid : BitVec 16) (sig tag : List Byte)
  /-- FINISH_TIMEOUT (R461). -/
  | finishTimeout (sid : BitVec 16)
  /-- REQUEST (R466). -/
  | request (mac : BitVec 48) (sid : BitVec 16) (seq : BitVec 32) (body tag : List Byte)
  /-- CLOSE (R468). -/
  | close (mac : BitVec 48) (sid : BitVec 16) (seq : BitVec 32) (tag : List Byte)
  /-- SESSION_IDLE_TIMEOUT (R468). -/
  | sessionIdleTimeout (sid : BitVec 16)
  /-- STATION_UNBLOCK (R467). -/
  | stationUnblock (mac : BitVec 48)
  /-- SERVICE_BUS_CUTOFF (R470). -/
  | serviceBusCutoff (req : Holder 8)
  /-- FIRMWARE_LOCK_CLEAR (R469). -/
  | firmwareLockClear
  /-- BUS_LOCK_CLEAR (R470). -/
  | busLockClear (req : Fin 8)
  /-- HELP (R473). -/
  | help
  /-- VER (R473). -/
  | ver
  /-- ID (R473). -/
  | id
  /-- STATE (R473). -/
  | state
  /-- LOG (R473). -/
  | log (n : Option Nat)
  /-- GET (R473). -/
  | get (index : BitVec 16) (sub : Byte)
  /-- BAUD (R473). -/
  | baud (n : Nat)
  /-- UNLOCK (R474). -/
  | unlock (answer : Option (List Byte))
  /-- LOCK (R474). -/
  | lock
  /-- UNLOCK_TIMEOUT (R474). -/
  | unlockTimeout
  /-- SET (R473). -/
  | set (index : BitVec 16) (sub : Byte) (v : List Byte)
  /-- BUS_TAKE (R471). -/
  | busTake
  /-- BUS_GIVE (R471). -/
  | busGive
  /-- RESET_WARM (R473). -/
  | resetWarm
  /-- RESET_COLD (R473). -/
  | resetCold (o : BootObs)
  /-- RECOVER (R475). -/
  | recover (comp : Byte) (bundle : List Byte)
  /-- ILLEGAL_INSTRUCTION (R115). -/
  | illegalInstruction (c : CoreId) (w : BitVec 128)
  /-- CREDIT_REQUEST_RETRY (R254): by a move channel, or a stream, of that number. -/
  | creditRequestRetry (w : Contributor) (n : Nat)
  /-- REGION_ON (R362). -/
  | regionOn (r : RegionNo)
  deriving DecidableEq, Repr

end Sys2Proof
end

