-- ==== Sys2Proof/Config.lean ====
section
/-!
DEFINITION. Config.lean: what the model leaves open. Each constant without a body is a free value of the manual or a
function of a named standard that the manual does not restate; nothing in Lean can compute it (logs 4 and 9).
-/
namespace Sys2Proof.Config

/-- The first n bytes of a byte string of unknown length, with zeros behind a shorter one: a free value of n bytes. -/
def fit (n : Nat) (l : List Byte) : List Byte := (l ++ List.replicate n 0).take n

/-- An undefined 32-bit lane of a vector register, lane store or table after core reset or a sweep (Table 3.10, R421):
applied to the counter of the event, the register and the lane. -/
opaque freeLane : Nat → Nat → Nat → BitVec 32

/-- An undefined predicate (Table 3.10). -/
opaque freePred : Nat → Nat → BitVec 64

/-- An undefined accumulator value with its flags, as a number of 197 bits (R46, Table 3.10). -/
opaque freeAcc : Nat → Nat → Nat → BitVec 197

/-- A byte that overlapping writes leave undefined (R143, R263): applied to a counter and the byte's place. -/
opaque freeByte : Nat → Nat → BitVec 8

/-- A partition salt drawn by base-camp firmware (R298). -/
opaque salt : Nat → BitVec 32

/-- The monitor's challenge (R474): 32 bytes. -/
opaque challengeOf : Nat → List Byte
def challenge (k : Nat) : List Byte := fit 32 (challengeOf k)

/-- Number that the search for a free session id starts at (R461). -/
opaque newSid : Nat → BitVec 16

/-- The nonce drawn by the panel for a handshake (R461): 32 bytes. -/
opaque nonceOf : Nat → List Byte
def nonce (k : Nat) : List Byte := fit 32 (nonceOf k)

/-- Number of the next QP drawn by a host die (R294). -/
opaque newQpn : Nat → BitVec 24

/-- SHA-384 (R442, R445, R451, R474): 48 bytes. -/
opaque sha384Of : List Byte → List Byte
def sha384 (m : List Byte) : List Byte := fit 48 (sha384Of m)

/-- HMAC with SHA-384 over a key and a message (R461 to R467): 48 bytes. -/
opaque hmacOf : List Byte → List Byte → List Byte
def hmac (key m : List Byte) : List Byte := fit 48 (hmacOf key m)

/-- ECDSA P-384 verification: public key, message, signature (R442, R449, R461). -/
opaque ecdsaVerify : List Byte → List Byte → List Byte → Bool

/-- The PUF secret of the base-camp die: 256 bits (R437, R446). -/
opaque pufSecretOf : List Byte
def pufSecret : List Byte := fit 32 pufSecretOf

/-- "plotezu-device" (R446). -/
def deviceSalt : List Byte := [0x70, 0x6C, 0x6F, 0x74, 0x65, 0x7A, 0x75, 0x2D, 0x64, 0x65, 0x76, 0x69, 0x63, 0x65]

/-- The device's private key (R446): HKDF with SHA-384 of the PUF secret, salt "plotezu-device" and no info. -/
def devicePrivate : List Byte := hmac (hmac deviceSalt pufSecret) [0x01]

/-- Public key of a private key on brainpoolP384r1, as an uncompressed point of 97 bytes (R438). -/
opaque publicKeyOf : List Byte → List Byte
def publicKey (d : List Byte) : List Byte := fit 97 (publicKeyOf d)

/-- Signature over a message under a private key, r then s (R438): 96 bytes. -/
opaque ecdsaSign : List Byte → List Byte → List Byte

/-- The device's signature over a message (R458, R461). -/
def deviceSign (m : List Byte) : List Byte := fit 96 (ecdsaSign devicePrivate m)

/-- The x-coordinate of the shared point of the panel's ephemeral key and the station's (R463): 48 bytes. -/
opaque sharedPoint : List Byte → List Byte → List Byte
def sharedSecret (panel station : List Byte) : List Byte := fit 48 (sharedPoint panel station)

/-- The bytes "cairn v1". -/
def sessionInfo : List Byte := [0x63, 0x61, 0x69, 0x72, 0x6E, 0x20, 0x76, 0x31]

/-- The 96 bytes of session keys (R463): HKDF with SHA-384, the station's nonce followed by the panel's as salt. -/
def sessionKey (panel station nonces : List Byte) : List Byte :=
  let prk := hmac nonces (sharedSecret panel station)
  let t1 := hmac prk (sessionInfo ++ [0x01])
  t1 ++ hmac prk (t1 ++ sessionInfo ++ [0x02])

/-- The panel's ephemeral public key for a handshake (R461). -/
opaque ephemeral : Nat → List Byte

/-- The device public key (R446). -/
def deviceKey : List Byte := publicKey devicePrivate

/-- The device id: the first 16 bytes of the SHA-384 of the device public key (R446). -/
def deviceId : List Byte := (sha384 deviceKey).take 16

/-- The certificates and the serial number of the device, and its MAC addresses (R446, Table 14.1). -/
opaque deviceCert : List Byte
opaque caCert : List Byte
opaque serialText : List Byte
def serialNo : List Byte := serialText.take 16
opaque mgmtMacOf : List Byte
def mgmtMac : List Byte := fit 6 mgmtMacOf
opaque portMacOf : Nat → List Byte
def portMac (k : Nat) : List Byte := fit 6 (portMacOf k)
opaque romVer : BitVec 16
opaque bcMask : BitVec 64

/-- Roots and keys in the ROM and the identity (R440, R449): licence, firmware and operator keys. -/
opaque rootKey : Nat → List Byte

/-- Licence signing public key that a base-camp firmware image carries, by the digest of the image (R448). -/
opaque fwLicenceKey : List (BitVec 8) → List (BitVec 8)

/-- Facts that a station certificate carries (R461, R462): its key, the level that its subject allows (1 plain, 2 privileged,
0 neither), and whether the key with a digest signed it. -/
opaque certKey : List (BitVec 8) → List (BitVec 8)
opaque certLevel : List (BitVec 8) → Nat
opaque certSignedBy : List (BitVec 8) → List (BitVec 8) → Bool

/-- Cause of identity-fail (R446): 1 the derived key differs from the device certificate's, 2 the certificate does not chain to
the device CA certificate; 0 the identity holds. -/
def identFault : Nat :=
  if deviceKey ≠ certKey deviceCert then 1
  else if certSignedBy deviceCert (sha384 (certKey caCert)) = false then 2
  else 0

/-- The fleet root key of a digest, against which a monitor's answer is checked (R474). -/
opaque fleetKey : List (BitVec 8) → List (BitVec 8)

/-- Microcode revision of component 2 or 3, by the version of its bundle (R445). -/
opaque ucode : Nat → Nat → BitVec 8

/-- Cause code of a refused rank map (R229, Table 9.13): the manual gives the field no codes. Applied to the place of the
condition in the list of R229. -/
opaque rankCause : Nat → BitVec 4

/-- Row of the tile whose assay accumulator a drill inverts a bit of (Table 13.10): the manual names no row. -/
opaque drillRow : Nat → Nat

/-- Die field of a clk-cancel event when every die has acknowledged (R350, Table 10.4). -/
opaque cancelDie : BitVec 9

/-- Channel number of a thermal-warn event (Table 11.9): the manual numbers no channels. Applied to the row of Table 11.5. -/
opaque warnChannel : Nat → BitVec 4

/-- Logical core field of the core-lost event of a position that serves none (R180). -/
opaque spareLcid : Nat → BitVec 13

/-- Die field of a topology event whose item names no die (R395, Table 12.10): applied to 8 x item + direction. -/
opaque topoDie : Nat → BitVec 9

/-- Die field of a thermal-warn event of a channel of the tray hub (Table 11.9): the channel belongs to no die. -/
opaque warnDie : Nat → BitVec 9

/-- The thermal-resistance sample when the panel power is zero (R380): the manual divides by it. In units of 1/1,000,000
K/W. -/
opaque rthAtZero : Nat → BitVec 32

/-- Cause field of a quench event that a drill starts (Table 11.9): neither of its two causes holds. -/
opaque quenchCause : BitVec 2

/-- Reason that LNK_STATE shows for a link that a drill made leave service (Tables 8.8 and 13.10): the manual names none. -/
opaque linkDrillReason : BitVec 4

/-- Unit field of the sweep-fail event of a failed return (Table 13.13): which unit failed is not the action's to choose. -/
opaque returnUnit : Nat → BitVec 4

/-- The thermal cap of the power manager when its estimate is zero (R380): the manual divides by it. -/
opaque capAtZero : Nat → BitVec 32

end Sys2Proof.Config
end

