-- ==== Sys2Proof/Machine/CairnTable.lean ====
section
/-!
DEFINITION. CairnTable.lean: the entries of the Cairn dictionary as the tables of the chapters give them (Tables 6.10, 7.11,
8.11, 9.15, 10.7, 11.12, 12.11, 13.15, 14.15, 15.5, 15.6, 15.7 and R26, R30): index range, sub-index range, type, access
code, default and plain range. Ranges that depend on other entries are checked in Machine/Cairn.lean.
-/
namespace Sys2Proof.Machine

/-- Types of R480; numbers with their bytes, OCT and REC with their length (0 where the length is the entry's own). -/
inductive CTy where
  | num (bytes : Nat)
  | bool
  | s16
  | f32
  | str
  | oct (len : Nat)
  | record (len : Nat)
  deriving DecidableEq, Repr

/-- Access codes of R12. -/
inductive CAcc where
  | ro | rw | wo | rwp | const
  deriving DecidableEq, Repr

/-- Plain ranges of a writable entry. -/
inductive CRange where
  | any
  | between (lo hi : Nat)
  | oneOf (vs : List Nat)
  | zero
  deriving DecidableEq, Repr

/-- One row of a table of entries: indices i0 to i0 + n - 1, sub-indices s0 to s1. -/
structure CRow where
  i0 : Nat
  n : Nat
  s0 : Nat
  s1 : Nat
  ty : CTy
  acc : CAcc
  dflt : Nat
  rng : CRange
  deriving DecidableEq, Repr

/-- Entries 0x1xxx, part 1. -/
def cairnRows1a : List CRow :=
  [⟨0x1000, 1, 1, 1, .oct 16, .const, 0, .any⟩,
   ⟨0x1000, 1, 2, 2, .oct 0, .const, 0, .any⟩,
   ⟨0x1000, 1, 3, 3, .oct 0, .const, 0, .any⟩,
   ⟨0x1000, 1, 4, 4, .str, .const, 0, .any⟩,
   ⟨0x1000, 1, 5, 5, .str, .const, 0, .any⟩,
   ⟨0x1000, 1, 6, 6, .oct 6, .const, 0, .any⟩,
   ⟨0x1000, 1, 7, 7, .num 2, .const, 0, .any⟩,
   ⟨0x1000, 1, 8, 8, .num 1, .const, 1, .any⟩,
   ⟨0x1000, 1, 9, 9, .num 1, .const, 2, .any⟩,
   ⟨0x1011, 4, 1, 1, .num 2, .ro, 0, .any⟩,
   ⟨0x1011, 4, 2, 2, .num 2, .ro, 0, .any⟩,
   ⟨0x1011, 4, 3, 3, .num 2, .ro, 0, .any⟩,
   ⟨0x1011, 4, 4, 4, .num 1, .ro, 0, .any⟩,
   ⟨0x1011, 4, 5, 5, .oct 48, .ro, 0, .any⟩,
   ⟨0x1021, 6, 1, 1, .num 2, .ro, 0, .any⟩,
   ⟨0x1021, 6, 2, 2, .bool, .ro, 0, .between 0 1⟩,
   ⟨0x1100, 1, 1, 1, .num 2, .ro, 0, .any⟩,
   ⟨0x1100, 1, 16, 16, .record 256, .wo, 0, .any⟩,
   ⟨0x1100, 1, 17, 17, .num 4, .ro, 0, .any⟩,
   ⟨0x1110, 16, 0, 0, .record 256, .ro, 0, .any⟩]

/-- Entries 0x2xxx, part 1. -/
def cairnRows2a : List CRow :=
  [⟨0x2000, 1, 1, 1, .num 4, .rwp, 15000, .between 3000 15000⟩,
   ⟨0x2000, 1, 2, 2, .num 4, .ro, 15000, .any⟩,
   ⟨0x2000, 1, 3, 3, .num 4, .ro, 0, .any⟩,
   ⟨0x2000, 1, 4, 4, .num 2, .const, 73, .any⟩,
   ⟨0x2000, 1, 6, 6, .num 1, .rwp, 12, .between 4 30⟩,
   ⟨0x2000, 1, 7, 7, .bool, .rwp, 1, .between 0 1⟩,
   ⟨0x2000, 1, 8, 8, .num 2, .rwp, 24, .between 1 720⟩,
   ⟨0x2100, 240, 1, 1, .num 8, .rwp, 0, .zero⟩,
   ⟨0x2100, 240, 2, 2, .num 8, .rwp, 0, .zero⟩,
   ⟨0x2100, 240, 3, 3, .num 8, .rwp, 0, .zero⟩,
   ⟨0x2400, 720, 1, 1, .num 1, .rw, 0, .between 0 1⟩,
   ⟨0x2400, 720, 2, 2, .record 20, .ro, 0, .any⟩,
   ⟨0x2400, 720, 3, 3, .num 1, .wo, 0, .oneOf [1]⟩]

/-- Entries 0x3xxx, part 1. -/
def cairnRows3a : List CRow :=
  [⟨0x3000, 1, 1, 1, .f32, .ro, 0, .any⟩,
   ⟨0x3000, 1, 2, 2, .f32, .ro, 0, .any⟩,
   ⟨0x3000, 1, 3, 3, .f32, .ro, 0, .any⟩,
   ⟨0x3000, 1, 4, 4, .f32, .ro, 0, .any⟩,
   ⟨0x3000, 1, 5, 5, .f32, .ro, 0, .any⟩,
   ⟨0x3000, 1, 6, 6, .num 4, .ro, 0, .any⟩,
   ⟨0x3000, 1, 7, 7, .num 1, .ro, 0, .any⟩,
   ⟨0x3010, 1, 1, 1, .f32, .rwp, 1103101952, .between 1094713344 1106247680⟩,
   ⟨0x3010, 1, 2, 2, .num 1, .const, 20, .any⟩,
   ⟨0x3010, 1, 3, 3, .num 1, .const, 30, .any⟩,
   ⟨0x3010, 1, 4, 4, .num 1, .const, 80, .any⟩,
   ⟨0x3010, 1, 5, 5, .num 1, .rwp, 65, .between 45 70⟩,
   ⟨0x3010, 1, 6, 6, .num 1, .rwp, 60, .between 40 65⟩,
   ⟨0x3010, 1, 7, 7, .num 1, .rwp, 95, .between 80 95⟩,
   ⟨0x3010, 1, 8, 8, .num 1, .const, 115, .any⟩,
   ⟨0x3100, 240, 1, 1, .s16, .ro, 0, .any⟩]

/-- Entries 0x4xxx, part 1. -/
def cairnRows4a : List CRow :=
  [⟨0x4000, 1, 1, 1, .num 1, .ro, 0, .any⟩,
   ⟨0x4000, 1, 3, 3, .num 1, .rwp, 15, .between 0 15⟩,
   ⟨0x4000, 1, 4, 4, .num 4, .rwp, 3125, .between 3125 625000⟩,
   ⟨0x4000, 1, 5, 5, .num 1, .ro, 0, .any⟩,
   ⟨0x4010, 1, 1, 1, .num 8, .ro, 0, .any⟩,
   ⟨0x4020, 16, 0, 0, .num 2, .const, 0, .any⟩,
   ⟨0x4100, 267, 1, 1, .num 8, .ro, 0, .any⟩,
   ⟨0x4100, 267, 2, 2, .num 8, .ro, 0, .any⟩]

/-- Entries 0x5xxx, part 1. -/
def cairnRows5a : List CRow :=
  [⟨0x5000, 1, 1, 1, .num 4, .rwp, 200, .between 50 10000⟩,
   ⟨0x5000, 1, 2, 2, .num 4, .const, 20, .any⟩,
   ⟨0x5000, 1, 3, 3, .num 4, .rwp, 1, .between 1 64⟩,
   ⟨0x5000, 1, 4, 4, .num 2, .const, 256, .any⟩,
   ⟨0x5000, 1, 5, 5, .num 2, .const, 512, .any⟩,
   ⟨0x5010, 1, 0, 0, .record 496, .ro, 0, .any⟩,
   ⟨0x5010, 1, 1, 1, .num 4, .ro, 0, .any⟩,
   ⟨0x5020, 1, 0, 0, .record 136, .ro, 0, .any⟩,
   ⟨0x5020, 1, 1, 1, .num 4, .ro, 0, .any⟩,
   ⟨0x5100, 16, 0, 0, .num 1, .const, 224, .any⟩,
   ⟨0x5100, 16, 1, 224, .num 1, .ro, 0, .any⟩,
   ⟨0x51F0, 1, 0, 0, .num 4, .ro, 0, .any⟩,
   ⟨0x5300, 240, 0, 0, .num 1, .const, 16, .any⟩,
   ⟨0x5300, 240, 1, 4, .num 8, .rwp, 0, .zero⟩,
   ⟨0x5300, 240, 5, 8, .num 8, .rwp, 0, .zero⟩,
   ⟨0x5300, 240, 9, 12, .num 8, .rwp, 0, .zero⟩,
   ⟨0x5300, 240, 13, 16, .num 8, .rwp, 0, .zero⟩,
   ⟨0x5400, 27, 1, 1, .num 8, .rwp, 0, .zero⟩,
   ⟨0x5400, 27, 2, 2, .num 8, .rwp, 0, .zero⟩,
   ⟨0x5800, 1, 1, 1, .num 1, .rwp, 0, .between 0 3⟩,
   ⟨0x5800, 1, 2, 2, .num 1, .rwp, 1, .between 1 16⟩,
   ⟨0x5800, 1, 3, 3, .num 1, .rwp, 1, .between 1 16⟩,
   ⟨0x5800, 1, 4, 4, .num 1, .rwp, 1, .between 1 16⟩,
   ⟨0x5800, 1, 5, 5, .num 4, .rwp, 0, .any⟩,
   ⟨0x5800, 1, 6, 6, .bool, .rwp, 0, .between 0 1⟩,
   ⟨0x5800, 1, 7, 7, .num 1, .rwp, 0, .between 0 1⟩,
   ⟨0x5800, 1, 8, 8, .num 1, .rwp, 8, .between 1 32⟩,
   ⟨0x5800, 1, 9, 9, .num 1, .rwp, 3, .between 0 10⟩,
   ⟨0x5800, 1, 10, 10, .num 1, .const, 1, .any⟩,
   ⟨0x5810, 1, 0, 0, .num 4, .ro, 0, .any⟩]

/-- Entries 0x5xxx, part 2. -/
def cairnRows5b : List CRow :=
  [⟨0x5810, 1, 1, 1, .num 4, .ro, 0, .any⟩,
   ⟨0x5900, 96, 1, 1, .num 8, .ro, 0, .any⟩,
   ⟨0x5900, 96, 2, 2, .num 8, .rwp, 0, .zero⟩,
   ⟨0x5900, 96, 3, 3, .record 64, .ro, 0, .any⟩,
   ⟨0x5900, 96, 4, 4, .num 1, .rwp, 0, .between 1 3⟩,
   ⟨0x5A00, 24, 1, 1, .num 8, .rwp, 0, .zero⟩]

/-- Entries 0x6xxx, part 1. -/
def cairnRows6a : List CRow :=
  [⟨0x6000, 1, 1, 1, .num 1, .ro, 0, .any⟩,
   ⟨0x6000, 1, 2, 2, .num 1, .ro, 0, .any⟩,
   ⟨0x6000, 1, 3, 3, .num 1, .rwp, 0, .oneOf [1]⟩,
   ⟨0x6000, 1, 4, 4, .num 4, .ro, 0, .any⟩,
   ⟨0x6010, 1, 0, 0, .record 32, .ro, 0, .any⟩,
   ⟨0x6010, 1, 1, 1, .num 4, .ro, 0, .any⟩,
   ⟨0x6100, 16, 0, 0, .num 1, .const, 17, .any⟩,
   ⟨0x6100, 16, 1, 1, .num 1, .ro, 0, .any⟩,
   ⟨0x6100, 16, 2, 2, .num 4, .rwp, 0, .any⟩,
   ⟨0x6100, 16, 3, 3, .num 2, .rwp, 0, .any⟩,
   ⟨0x6100, 16, 4, 4, .num 4, .rwp, 0, .any⟩,
   ⟨0x6100, 16, 5, 5, .bool, .rwp, 1, .between 0 1⟩,
   ⟨0x6100, 16, 6, 6, .num 1, .rwp, 0, .oneOf [1, 2, 4]⟩,
   ⟨0x6100, 16, 7, 7, .num 4, .wo, 0, .any⟩,
   ⟨0x6100, 16, 8, 8, .num 1, .rw, 24, .between 16 31⟩,
   ⟨0x6100, 16, 9, 9, .bool, .rwp, 0, .between 0 1⟩,
   ⟨0x6100, 16, 10, 10, .num 8, .rw, 0, .any⟩,
   ⟨0x6100, 16, 11, 11, .num 4, .rw, 0, .between 1 65536⟩,
   ⟨0x6100, 16, 12, 12, .num 1, .wo, 0, .oneOf [1]⟩,
   ⟨0x6100, 16, 13, 13, .num 4, .ro, 0, .any⟩,
   ⟨0x6100, 16, 14, 14, .num 1, .ro, 0, .any⟩,
   ⟨0x6100, 16, 15, 15, .bool, .rwp, 0, .between 0 1⟩,
   ⟨0x6100, 16, 16, 16, .num 4, .rw, 0, .any⟩,
   ⟨0x6100, 16, 17, 17, .num 4, .ro, 0, .any⟩,
   ⟨0x6800, 1, 1, 1, .num 2, .const, 1024, .any⟩,
   ⟨0x6800, 1, 2, 2, .num 1, .const, 64, .any⟩,
   ⟨0x6800, 1, 3, 3, .num 1, .const, 64, .any⟩,
   ⟨0x6800, 1, 4, 4, .num 2, .const, 256, .any⟩,
   ⟨0x6800, 1, 5, 5, .num 1, .rwp, 14, .between 8 20⟩,
   ⟨0x6800, 1, 6, 6, .num 1, .rwp, 7, .between 1 7⟩]

/-- Entries 0x6xxx, part 2. -/
def cairnRows6b : List CRow :=
  [⟨0x6800, 1, 7, 7, .num 4, .rwp, 50, .between 1 1000⟩,
   ⟨0x6810, 4, 1, 1, .num 2, .rwp, 400, .oneOf [200, 400]⟩,
   ⟨0x6810, 4, 2, 2, .num 1, .ro, 0, .any⟩,
   ⟨0x6810, 4, 3, 3, .oct 6, .const, 0, .any⟩,
   ⟨0x6810, 4, 4, 4, .num 4, .rwp, 0, .any⟩,
   ⟨0x6810, 4, 5, 5, .oct 16, .rwp, 0, .any⟩,
   ⟨0x6810, 4, 6, 6, .num 1, .rwp, 255, .oneOf [0, 1, 2, 3, 4, 5, 6, 7, 255]⟩,
   ⟨0x6810, 4, 7, 7, .num 1, .rwp, 26, .between 0 63⟩,
   ⟨0x6810, 4, 8, 8, .num 2, .rwp, 0, .between 0 4094⟩,
   ⟨0x6810, 4, 9, 9, .num 1, .wo, 0, .oneOf [1]⟩,
   ⟨0x6880, 128, 1, 1, .num 1, .rwp, 255, .oneOf [0, 1, 2, 3, 4, 5, 6, 7, 8, 9, 10, 11, 12, 13, 14, 15, 255]⟩,
   ⟨0x6880, 128, 2, 2, .num 4, .rw, 0, .any⟩,
   ⟨0x6880, 128, 3, 3, .num 1, .rw, 4, .between 4 12⟩,
   ⟨0x6880, 128, 4, 4, .num 1, .rw, 0, .between 0 127⟩,
   ⟨0x6880, 128, 5, 5, .bool, .rw, 0, .between 0 1⟩,
   ⟨0x6900, 128, 1, 1, .num 1, .rwp, 255, .oneOf [0, 1, 2, 3, 4, 5, 6, 7, 8, 9, 10, 11, 12, 13, 14, 15, 255]⟩,
   ⟨0x6900, 128, 2, 2, .num 4, .rw, 0, .any⟩,
   ⟨0x6900, 128, 3, 3, .num 8, .rw, 0, .any⟩,
   ⟨0x6900, 128, 4, 4, .num 4, .rw, 0, .any⟩,
   ⟨0x6900, 128, 5, 5, .num 1, .rw, 4, .between 4 16⟩,
   ⟨0x6900, 128, 6, 6, .num 1, .rw, 0, .between 0 2⟩,
   ⟨0x6900, 128, 7, 7, .bool, .rw, 0, .between 0 1⟩,
   ⟨0x6900, 128, 8, 8, .bool, .rw, 0, .between 0 1⟩,
   ⟨0x6900, 128, 9, 9, .bool, .rw, 0, .between 0 1⟩,
   ⟨0x6A00, 16, 1, 1, .num 4, .rwp, 0, .any⟩,
   ⟨0x6A00, 16, 2, 2, .num 1, .rwp, 32, .between 0 32⟩,
   ⟨0x6A00, 16, 3, 3, .oct 16, .rwp, 0, .any⟩,
   ⟨0x6A00, 16, 4, 4, .num 1, .rwp, 128, .between 0 128⟩,
   ⟨0x6A00, 16, 5, 5, .bool, .rwp, 0, .between 0 1⟩,
   ⟨0x6A00, 16, 6, 6, .num 2, .rwp, 0, .between 0 1024⟩]

/-- Entries 0x6xxx, part 3. -/
def cairnRows6c : List CRow :=
  [⟨0x6A00, 16, 7, 7, .num 4, .ro, 0, .any⟩]

/-- Entries 0x7xxx, part 1. -/
def cairnRows7a : List CRow :=
  [⟨0x7000, 1, 1, 1, .bool, .rwp, 1, .between 0 1⟩,
   ⟨0x7000, 1, 2, 2, .num 4, .rwp, 600, .between 60 86400⟩,
   ⟨0x7000, 1, 3, 3, .num 4, .rwp, 60, .between 10 3600⟩,
   ⟨0x7000, 1, 4, 4, .num 1, .rwp, 0, .between 0 12⟩,
   ⟨0x7000, 1, 5, 5, .bool, .rwp, 0, .between 0 1⟩,
   ⟨0x7000, 1, 6, 6, .num 4, .rwp, 100, .between 10 10000⟩,
   ⟨0x7010, 1, 1, 1, .num 8, .rwp, 0, .any⟩,
   ⟨0x7010, 1, 2, 2, .num 1, .ro, 0, .any⟩,
   ⟨0x7080, 8, 1, 1, .record 32, .rwp, 0, .any⟩,
   ⟨0x7080, 8, 2, 2, .num 1, .ro, 0, .any⟩,
   ⟨0x7100, 16, 1, 1, .num 1, .rw, 255, .oneOf (255 :: List.range 64)⟩,
   ⟨0x7200, 224, 0, 0, .num 1, .const, 4, .any⟩,
   ⟨0x7200, 224, 1, 4, .num 8, .ro, 0, .any⟩,
   ⟨0x72F0, 1, 0, 0, .num 4, .ro, 0, .any⟩,
   ⟨0x7400, 224, 0, 0, .num 1, .const, 36, .any⟩,
   ⟨0x7400, 224, 1, 36, .num 8, .ro, 0, .any⟩,
   ⟨0x7800, 267, 1, 1, .num 8, .rwp, 0, .any⟩,
   ⟨0x7800, 267, 2, 2, .num 8, .rwp, 0, .any⟩,
   ⟨0x7800, 267, 3, 3, .num 8, .rwp, 0, .any⟩,
   ⟨0x7A00, 1, 1, 1, .num 4, .rwp, 60, .between 1 3600⟩]

/-- Entries 0x8xxx, part 1. -/
def cairnRows8a : List CRow :=
  [⟨0x8000, 1, 1, 1, .num 1, .rwp, 255, .any⟩,
   ⟨0x8000, 1, 2, 2, .num 1, .rwp, 8, .between 2 255⟩,
   ⟨0x8000, 1, 3, 3, .num 1, .rwp, 32, .any⟩,
   ⟨0x8000, 1, 4, 4, .num 1, .rwp, 0, .any⟩,
   ⟨0x8000, 1, 5, 5, .num 2, .rwp, 60, .between 10 3600⟩,
   ⟨0x8000, 1, 6, 6, .num 1, .ro, 0, .any⟩,
   ⟨0x8000, 1, 7, 7, .num 4, .rwp, 0, .zero⟩,
   ⟨0x8000, 1, 8, 8, .num 4, .rwp, 0, .zero⟩,
   ⟨0x8000, 1, 9, 9, .num 1, .ro, 0, .any⟩,
   ⟨0x8000, 1, 10, 10, .num 1, .const, 1, .any⟩,
   ⟨0x8010, 1, 0, 0, .oct 48, .ro, 0, .any⟩,
   ⟨0x8030, 1, 1, 1, .num 4, .rwp, 2000, .between 100 50000⟩,
   ⟨0x8030, 1, 2, 2, .num 1, .rwp, 0, .any⟩,
   ⟨0x8030, 1, 3, 3, .num 4, .rwp, 0, .zero⟩,
   ⟨0x8030, 1, 4, 4, .num 8, .ro, 0, .any⟩,
   ⟨0x8030, 1, 5, 5, .num 8, .ro, 0, .any⟩,
   ⟨0x8030, 1, 6, 6, .num 8, .ro, 0, .any⟩,
   ⟨0x8030, 1, 7, 7, .num 8, .ro, 0, .any⟩,
   ⟨0x8100, 1, 1, 4, .num 8, .rw, 0, .any⟩,
   ⟨0x8100, 1, 5, 5, .num 1, .wo, 0, .oneOf [1]⟩,
   ⟨0x8100, 1, 6, 6, .record 672, .ro, 0, .any⟩,
   ⟨0x8100, 1, 7, 7, .num 1, .ro, 0, .any⟩,
   ⟨0x8200, 1, 1, 1, .num 1, .rwp, 0, .between 1 4⟩,
   ⟨0x8200, 1, 2, 2, .num 8, .rwp, 0, .any⟩,
   ⟨0x8200, 1, 3, 3, .num 1, .rwp, 0, .oneOf [1]⟩,
   ⟨0x8200, 1, 4, 4, .num 1, .ro, 0, .any⟩,
   ⟨0x8200, 1, 5, 5, .num 4, .ro, 0, .any⟩]

/-- Entries 0x9xxx, part 1. -/
def cairnRows9a : List CRow :=
  [⟨0x9000, 1, 1, 1, .num 8, .ro, 0, .any⟩,
   ⟨0x9000, 1, 2, 2, .num 2, .const, 4096, .any⟩,
   ⟨0x9000, 1, 3, 3, .num 8, .ro, 0, .any⟩,
   ⟨0x9000, 1, 4, 4, .num 4, .ro, 0, .any⟩,
   ⟨0x9000, 1, 5, 5, .num 2, .const, 256, .any⟩,
   ⟨0x9000, 1, 6, 6, .num 4, .rwp, 0, .zero⟩,
   ⟨0x9100, 256, 0, 0, .num 1, .const, 16, .any⟩,
   ⟨0x9100, 256, 1, 16, .record 32, .ro, 0, .any⟩,
   ⟨0x9200, 16, 0, 0, .num 1, .const, 16, .any⟩,
   ⟨0x9200, 16, 1, 16, .record 32, .ro, 0, .any⟩]

/-- Entries 0xAxxx, part 1. -/
def cairnRowsAa : List CRow :=
  [⟨0xA000, 1, 1, 1, .num 4, .rwp, 4, .between 1 100⟩,
   ⟨0xA000, 1, 2, 2, .num 4, .rwp, 10000, .between 100 1000000⟩,
   ⟨0xA000, 1, 3, 3, .num 4, .rwp, 24, .between 1 168⟩,
   ⟨0xA100, 16, 1, 1, .s16, .ro, 0, .any⟩,
   ⟨0xA100, 16, 2, 2, .num 8, .rwp, 0, .zero⟩,
   ⟨0xA100, 16, 3, 3, .num 1, .ro, 255, .any⟩,
   ⟨0xA100, 16, 4, 4, .num 8, .rwp, 0, .zero⟩]

/-- The rows of the range that an index lies in (Table 15.1). -/
def cairnRows (index : Nat) : List CRow :=
  match index / 4096 with
  | 1 => cairnRows1a
  | 2 => cairnRows2a
  | 3 => cairnRows3a
  | 4 => cairnRows4a
  | 5 => cairnRows5a ++ cairnRows5b
  | 6 => cairnRows6a ++ cairnRows6b ++ cairnRows6c
  | 7 => cairnRows7a
  | 8 => cairnRows8a
  | 9 => cairnRows9a
  | 10 => cairnRowsAa
  | _ => []

/-- A row holds an index and sub-index. -/
def CRow.has (r : CRow) (index sub : Nat) : Bool :=
  decide (r.i0 ≤ index) && decide (index < r.i0 + r.n) && decide (r.s0 ≤ sub) && decide (sub ≤ r.s1)

/-- The place of an index in an index range that only cell sites have (R478): memory sites lie at columns 2, 7, 12, 17 of
rows 1, 4, 7, 10 (R15). -/
def isMemSiteNo (site : Nat) : Bool :=
  let c := site % 20
  let r := site / 20
  (c == 2 || c == 7 || c == 12 || c == 17) && (r == 1 || r == 4 || r == 7 || r == 10)

/-- The sub-index does not exist at this index of its family (R478). -/
def cairnAbsent (index sub : Nat) : Bool :=
  (decide (0x2100 ≤ index) && decide (index < 0x2100 + 240) && decide (sub ≥ 2) && isMemSiteNo (index - 0x2100))
  || (decide (0x4100 + 240 ≤ index) && decide (index < 0x4100 + 267) && decide (sub = 2))
  || (decide (0x7800 ≤ index) && decide (index < 0x7800 + 267) && decide (sub = 2)
      && (decide (index ≥ 0x7800 + 240) || isMemSiteNo (index - 0x7800)))
  || (decide (0x7800 ≤ index) && decide (index < 0x7800 + 267) && decide (sub = 3)
      && !(decide (0x7800 + 240 ≤ index) && decide (index < 0x7800 + 264)))

/-- The row of an entry; none where the manual defines no such entry (R477, R478). -/
def cairnRow (index sub : Nat) : Option CRow :=
  if cairnAbsent index sub then none else (cairnRows index).find? fun r => r.has index sub

/-- Slot number of an entry (R303). -/
def cairnSlot (index sub : Nat) : Nat := index * 256 + sub

/-- Frequency of step k in MHz (Table 10.1). -/
def stepMHz (k : Nat) : Nat :=
  [600, 660, 720, 780, 840, 900, 960, 1020, 1080, 1140, 1200, 1280, 1360, 1440, 1540, 1640].getD k 600

/-- Default of an entry (R481); 0 where the table gives none. -/
def cairnDefault (index sub : Nat) : Nat :=
  match cairnRow index sub with
  | some r => r.dflt
  | none => 0

end Sys2Proof.Machine
end

