-- ==== Sys2Proof/Machine/Geometry.lean ====
section
/-!
DEFINITION. Geometry.lean: sites, dies, cores, endpoints and routers of the panel (R14 to R23, R182, R183, R189, R356).
-/
namespace Sys2Proof.Machine

/-- Column and row of a site number (R202). -/
def siteCol (s : Nat) : Nat := s % 20
def siteRow (s : Nat) : Nat := s / 20

/-- Site number of a place. -/
def siteAt (c r : Nat) : Nat := 20 * r + c

/-- A memory site's column or row (R15). -/
def isMemCol (c : Nat) : Bool := c == 2 || c == 7 || c == 12 || c == 17
def isMemRow (r : Nat) : Bool := r == 1 || r == 4 || r == 7 || r == 10

/-- The site holds a memory site (R15). -/
def isMemSite (s : Nat) : Bool := isMemCol (siteCol s) && isMemRow (siteRow s)

/-- Memory columns west of a column. -/
def memColsWest (c : Nat) : Nat :=
  (if c > 2 then 1 else 0) + (if c > 7 then 1 else 0) + (if c > 12 then 1 else 0) + (if c > 17 then 1 else 0)

/-- First cell die of a row (Table 1.1). -/
def rowStart (r : Nat) : Nat := [0, 20, 36, 56, 76, 92, 112, 132, 148, 168, 188, 204].getD r 0

/-- Cell die index of a cell site (R16). -/
def dieOfSite (s : Nat) : Nat :=
  rowStart (siteRow s) + siteCol s - (if isMemRow (siteRow s) then memColsWest (siteCol s) else 0)

/-- Column of the k-th cell die of a memory row. -/
def cellCol (k : Nat) : Nat :=
  if k < 2 then k else if k < 6 then k + 1 else if k < 10 then k + 2 else if k < 14 then k + 3 else k + 4

/-- Row that holds a cell die. -/
def rowOfDie (d : Nat) : Nat :=
  if d < 20 then 0 else if d < 36 then 1 else if d < 56 then 2 else if d < 76 then 3 else if d < 92 then 4
  else if d < 112 then 5 else if d < 132 then 6 else if d < 148 then 7 else if d < 168 then 8 else if d < 188 then 9
  else if d < 204 then 10 else 11

/-- Site of a cell die (R16). -/
def siteOfDie (d : Nat) : Nat :=
  let r := rowOfDie d
  siteAt (if isMemRow r then cellCol (d - rowStart r) else d - rowStart r) r

/-- Site of a memory site (R17). -/
def siteOfMem (m : Nat) : Nat := siteAt ([2, 7, 12, 17].getD (m % 4) 2) ([1, 4, 7, 10].getD (m / 4) 1)

/-- Memory site at a site (R17). -/
def memOfSite (s : Nat) : Nat := 4 * (siteRow s / 3) + siteCol s / 5

/-- Cell die of a logical core (R22). -/
def dieOfCore (c : Nat) : Nat := c / 32

/-- Router, and NI, that serve a logical core: q = 2 x region + cluster (R182). -/
def routerOfCore (c : Nat) : Nat := c / 8 % 4

/-- Endpoint identifiers (Table 6.3). -/
def epCore (c : Nat) : Nat := c
def epMem (m : Nat) : Nat := 0x2000 + m
def epHost (h : Nat) : Nat := 0x4000 + h
def epLink (d : Nat) : Nat := 0x6000 + d
def epBase : Nat := 0x8000

/-- An endpoint, read (Table 6.3). -/
inductive EpKind where
  | core (c : Nat)
  | mem (m : Nat)
  | host (h : Nat)
  | link (d : Nat)
  | base
  | none
  deriving DecidableEq, Repr

def epKind (e : Nat) : EpKind :=
  let n := e % 8192
  match e / 8192 with
  | 0 => if n < 7168 then .core n else .none
  | 1 => if n < 16 then .mem n else .none
  | 2 => if n < 2 then .host n else .none
  | 3 => if n < 24 then .link n else .none
  | 4 => if n = 0 then .base else .none
  | _ => .none

/-- Site that a rim die is attached to and the outward direction there (Table 1.2), by die number less 240. -/
def rimSite (r : Nat) : Nat × Dir :=
  let sn := [1, 3, 6, 8, 11, 13, 16, 18]
  let ew := [1, 4, 7, 10]
  if r < 8 then (siteAt (sn.getD r 0) 0, .south)
  else if r < 12 then (siteAt 19 (ew.getD (r - 8) 0), .east)
  else if r < 20 then (siteAt (sn.getD (r - 12) 0) 11, .north)
  else if r < 24 then (siteAt 0 (ew.getD (r - 20) 0), .west)
  else if r = 24 then (siteAt 0 3, .west)
  else if r = 25 then (siteAt 0 8, .west)
  else (siteAt 0 5, .west)

/-- The rim die on an outward edge of a site. -/
def rimAt (site : Nat) (d : Dir) : Option Nat :=
  (List.range 27).find? fun r => rimSite r == (site, d)

/-- Rim die of an endpoint, by die number less 240. -/
def rimOfEp (e : Nat) : Option Nat :=
  match epKind e with
  | .host h => some (24 + h)
  | .link d => some d
  | .base => some 26
  | _ => none

/-- Place of a rim die beyond the edge of its site, as column and row (whole numbers). -/
def stepDir (d : Dir) (p : Int × Int) : Int × Int :=
  match d with
  | .east => (p.1 + 1, p.2)
  | .west => (p.1 - 1, p.2)
  | .north => (p.1, p.2 + 1)
  | .south => (p.1, p.2 - 1)

def placeOfSite (s : Nat) : Int × Int := ((siteCol s : Int), (siteRow s : Int))

def placeOfRim (r : Nat) : Int × Int := stepDir (rimSite r).2 (placeOfSite (rimSite r).1)

/-- Place of an endpoint's die. -/
def placeOfEp (e : Nat) : Int × Int :=
  match epKind e with
  | .core c => placeOfSite (siteOfDie (dieOfCore c))
  | .mem m => placeOfSite (siteOfMem m)
  | _ =>
    match rimOfEp e with
    | some r => placeOfRim r
    | none => (0, 0)

/-- Site of a place, when it lies on the grid. -/
def siteOfPlace (p : Int × Int) : Option Nat :=
  if 0 ≤ p.1 ∧ p.1 < 20 ∧ 0 ≤ p.2 ∧ p.2 < 12 then some (siteAt p.1.toNat p.2.toNat) else none

/-- Die number of R356 of an endpoint. -/
def dieNoOfEp (e : Nat) : Nat :=
  match epKind e with
  | .core c => siteOfDie (dieOfCore c)
  | .mem m => siteOfMem m
  | _ =>
    match rimOfEp e with
    | some r => 240 + r
    | none => 0

/-- NI number of an endpoint: 4 x site + q, or 960 + rim die (R184). -/
def niOfEp (e : Nat) : Nat :=
  match epKind e with
  | .core c => 4 * siteOfDie (dieOfCore c) + routerOfCore c
  | .mem m => 4 * siteOfMem m
  | _ =>
    match rimOfEp e with
    | some r => 960 + r
    | none => 960

/-- The router of a site that serves an edge half; a memory site has router 0 alone (R182, R183). -/
def edgeRouter (site : Nat) (d : Dir) (half : Bool) : Nat :=
  if isMemSite site then 0
  else
    let h := if half then 1 else 0
    match d with
    | .west => h
    | .east => 2 + h
    | .south => 2 * h
    | .north => 2 * h + 1

/-- The opposite direction. -/
def dirBack : Dir → Dir
  | .east => .west | .west => .east | .north => .south | .south => .north

def dirOfCode (n : Nat) : Dir :=
  match n with
  | 0 => .east | 1 => .north | 2 => .west | _ => .south

/-- An illegal turn at a column (R192). -/
def illegalTurn (col : Nat) (din : Option Dir) (dout : Dir) : Bool :=
  match din with
  | none => false
  | some i =>
    i == dirBack dout
    || (col % 2 == 0 && i == .east && (dout == .north || dout == .south))
    || (col % 2 == 1 && (i == .north || i == .south) && dout == .west)

end Sys2Proof.Machine
end

