-- ==== Sys2Proof/Machine/Flags.lean ====
section
/-!
DEFINITION. Flags.lean: the bits of the arithmetic status word (R66, Table 2.10) and their collection.
-/
namespace Sys2Proof.Machine

/-- A set of bits of the arithmetic status word. -/
abbrev Astat := BitVec 16

/-- Bits of Table 2.10. -/
def fAccInexact : Astat := 0x001
def fAccSat : Astat := 0x002
def fAccNan : Astat := 0x004
def fAccInf : Astat := 0x008
def fCvtOvf : Astat := 0x010
def fCvtInvalid : Astat := 0x020
def fCvtTiny : Astat := 0x040
def fVecInvalid : Astat := 0x080
def fVecOvf : Astat := 0x100
def fVecFlush : Astat := 0x200

/-- The flag when the condition holds. -/
def flagIf (b : Bool) (f : Astat) : Astat := if b then f else 0

/-- The flags of all results together (R66). -/
def orFlags : List Astat → Astat
  | [] => 0
  | f :: fs => f ||| orFlags fs

/-- A W1C register: a written 1 clears the bit (R11, R66). -/
def w1c (old w : Astat) : Astat := old &&& ~~~w

end Sys2Proof.Machine
end

