-- ==== Sys2Proof/Machine/Formats.lean ====
section
/-!
DEFINITION. Formats.lean: the number formats of spec/02_numbers.md (Tables 2.1 to 2.4), the values of their codes,
and the packing of elements (R34).
-/
namespace Sys2Proof.Machine

/-- The formats of Table 2.1. -/
inductive Fmt where
  | fp32 | bf16 | fp16 | e4m3 | e5m2 | e3m2 | e2m3 | e2m1 | int8 | int4 | int16 | int32
  deriving DecidableEq, Repr

/-- The format of a 4-bit code; none for the reserved codes (R33). -/
def Fmt.ofCode (n : Nat) : Option Fmt :=
  match n with
  | 0 => some .fp32 | 1 => some .bf16 | 2 => some .fp16 | 3 => some .e4m3 | 4 => some .e5m2
  | 5 => some .e3m2 | 6 => some .e2m3 | 7 => some .e2m1 | 8 => some .int8 | 9 => some .int4
  | 10 => some .int16 | 11 => some .int32 | _ => none

/-- The 4-bit code of Table 2.1. -/
def Fmt.code : Fmt → Nat
  | .fp32 => 0 | .bf16 => 1 | .fp16 => 2 | .e4m3 => 3 | .e5m2 => 4 | .e3m2 => 5 | .e2m3 => 6
  | .e2m1 => 7 | .int8 => 8 | .int4 => 9 | .int16 => 10 | .int32 => 11

/-- Element width in bits (Table 2.1). -/
def Fmt.width : Fmt → Nat
  | .fp32 => 32 | .bf16 => 16 | .fp16 => 16 | .e4m3 => 8 | .e5m2 => 8 | .e3m2 => 6 | .e2m3 => 6
  | .e2m1 => 4 | .int8 => 8 | .int4 => 4 | .int16 => 16 | .int32 => 32

/-- Integer formats (R41). -/
def Fmt.isInt : Fmt → Bool
  | .int8 | .int4 | .int16 | .int32 => true
  | _ => false

/-- The MX form is allowed (Table 2.1). -/
def Fmt.mxAllowed : Fmt → Bool
  | .e4m3 | .e5m2 | .e3m2 | .e2m3 | .e2m1 | .int8 => true
  | _ => false

/-- The format is a matrix input (Table 2.1). -/
def Fmt.matrixIn : Fmt → Bool
  | .fp32 | .int16 | .int32 => false
  | _ => true

/-- The format is a matrix output (Table 2.1). -/
def Fmt.matrixOut : Fmt → Bool
  | .int4 => false
  | _ => true

/-- Exponent bits (Table 2.2). -/
def Fmt.expBits : Fmt → Nat
  | .fp32 => 8 | .bf16 => 8 | .fp16 => 5 | .e4m3 => 4 | .e5m2 => 5 | .e3m2 => 3 | .e2m3 => 2 | .e2m1 => 2
  | _ => 0

/-- Mantissa bits (Table 2.2). -/
def Fmt.mant : Fmt → Nat
  | .fp32 => 23 | .bf16 => 7 | .fp16 => 10 | .e4m3 => 3 | .e5m2 => 2 | .e3m2 => 2 | .e2m3 => 3 | .e2m1 => 1
  | _ => 0

/-- Exponent bias (Table 2.2). -/
def Fmt.bias : Fmt → Nat
  | .fp32 => 127 | .bf16 => 127 | .fp16 => 15 | .e4m3 => 7 | .e5m2 => 15 | .e3m2 => 3 | .e2m3 => 1 | .e2m1 => 1
  | _ => 0

/-- The format has infinities (Table 2.2). -/
def Fmt.hasInf : Fmt → Bool
  | .fp32 | .bf16 | .fp16 | .e5m2 => true
  | _ => false

/-- The format has NaNs (Table 2.2). -/
def Fmt.hasNan : Fmt → Bool
  | .fp32 | .bf16 | .fp16 | .e5m2 | .e4m3 => true
  | _ => false

/-- The canonical NaN (R38); 0 for a format without NaN. -/
def Fmt.nanCode : Fmt → Nat
  | .e4m3 => 0x7F | .e5m2 => 0x7E | .fp16 => 0x7E00 | .bf16 => 0x7FC0 | .fp32 => 0x7FC00000
  | _ => 0

/-- Magnitude code of the largest finite value (Table 2.2); the greatest code of an integer format. -/
def Fmt.maxCode (f : Fmt) : Nat :=
  if f.isInt then 2 ^ (f.width - 1) - 1
  else if f.hasInf then (2 ^ f.expBits - 1) * 2 ^ f.mant - 1
  else if f = .e4m3 then 0x7E
  else 2 ^ (f.width - 1) - 1

/-- emax of R64 for the MX forms. -/
def Fmt.mxEmax : Fmt → Nat
  | .e2m1 => 2 | .e3m2 => 4 | .e2m3 => 2 | .e4m3 => 8 | .e5m2 => 15
  | _ => 0

/-- Exponent of the least normal value (R36). -/
def Fmt.emin (f : Fmt) : Int := 1 - (f.bias : Int)

/-- An exact value: not a number, a signed infinity, or (-1)^neg x m x 2^e. -/
inductive Val where
  | nan
  | inf (neg : Bool)
  | fin (neg : Bool) (m : Nat) (e : Int)
  deriving DecidableEq, Repr

/-- The value of an integer, with a binary exponent. -/
def Val.ofInt (n : Int) (e : Int) : Val := .fin (decide (n < 0)) n.natAbs e

/-- Two's complement reading of the low w bits (R41). -/
def signedOf (w code : Nat) : Int :=
  let n := code % 2 ^ w
  if n < 2 ^ (w - 1) then n else (n : Int) - 2 ^ w

/-- The low w bits of an integer (R59). -/
def lowBits (w : Nat) (n : Int) : Nat := (n % (2 ^ w : Nat)).toNat

/-- Value of a floating-point code (R36, Table 2.2). -/
def decodeFloat (f : Fmt) (code : Nat) : Val :=
  let s := bit code (f.width - 1)
  let e := bits code (f.width - 2) f.mant
  let m := code % 2 ^ f.mant
  if f.hasInf && e == 2 ^ f.expBits - 1 then (if m == 0 then .inf s else .nan)
  else if f == .e4m3 && e == 15 && m == 7 then .nan
  else if e == 0 then .fin s m (f.emin - f.mant)
  else .fin s (2 ^ f.mant + m) ((e : Int) - f.bias - f.mant)

/-- Value of a code; mx gives MXINT8 its factor 2^-6 (R36, R41, R42). -/
def decodeVal (f : Fmt) (mx : Bool) (code : Nat) : Val :=
  if f.isInt then Val.ofInt (signedOf f.width code) (if mx then -6 else 0)
  else decodeFloat f code

/-- The little-endian number of a list of bytes (R3). -/
def leNat : List Byte → Nat
  | [] => 0
  | b :: bs => b.toNat + 256 * leNat bs

/-- The n low bytes of a number, least significant first (R3). -/
def leBytes : Nat → Nat → List Byte
  | 0, _ => []
  | n + 1, v => BitVec.ofNat 8 (v % 256) :: leBytes n (v / 256)

/-- Element i of elements packed densely from byte 0 (R34). Bit w x i of the little-endian stream starts element i,
which is what the three packing forms of R34 say for widths 4, 6 and whole bytes. -/
def elemAt (w : Nat) (bs : List Byte) (i : Nat) : Nat :=
  leNat ((bs.drop (w * i / 8)).take (w / 8 + 2)) / 2 ^ (w * i % 8) % 2 ^ w

/-- The first n elements. -/
def unpack (w n : Nat) (bs : List Byte) : List Nat := (List.range n).map (elemAt w bs)

/-- Elements packed into bytes: codes of w bits, eight at a time, so that each group fills w whole bytes. -/
def packGroup (w : Nat) : List Nat → Nat
  | [] => 0
  | c :: cs => c % 2 ^ w + 2 ^ w * packGroup w cs

/-- Pack 8 x groups codes into groups x w bytes (R34). -/
def packGroups (w : Nat) : Nat → List Nat → List Byte
  | 0, _ => []
  | g + 1, cs => leBytes w (packGroup w (cs.take 8)) ++ packGroups w g (cs.drop 8)

/-- Pack a list of codes whose number is a multiple of eight (R34). -/
def pack (w : Nat) (cs : List Nat) : List Byte := packGroups w (cs.length / 8) cs

end Sys2Proof.Machine
end

