-- ==== Sys2Proof/Machine/Rounding.lean ====
section
/-!
DEFINITION. Rounding.lean: exact magnitudes and their one rounding (R54, R56, R57), the rounding LFSRs (R57, R58) and
the conversion of an exact value to a format (R59 to R63, Tables 2.8 and 2.9).
-/
namespace Sys2Proof.Machine

/-- An exact magnitude: n / d x 2^e, or the square root of n x 2^e. -/
inductive Mag where
  | rat (n d : Nat) (e : Int)
  | root (n : Nat) (e : Int)
  deriving DecidableEq, Repr

/-- Floor of the square root, by bits from 2^k downward. -/
def isqrtFrom : Nat → Nat → Nat → Nat
  | 0, n, r => if (r + 1) * (r + 1) ≤ n then r + 1 else r
  | k + 1, n, r => if (r + 2 ^ (k + 1)) * (r + 2 ^ (k + 1)) ≤ n then isqrtFrom k n (r + 2 ^ (k + 1)) else isqrtFrom k n r

/-- Floor of the square root. -/
def isqrt (n : Nat) : Nat := isqrtFrom (Nat.log2 n / 2 + 1) n 0

/-- n x 2^s rounded down, and whether that is exact. -/
def scaleFloor (n : Nat) (s : Int) : Nat × Bool :=
  if 0 ≤ s then (n * 2 ^ s.toNat, true) else (n / 2 ^ (-s).toNat, n % 2 ^ (-s).toNat == 0)

/-- Floor of the magnitude divided by 2^q, and whether that is exact. -/
def Mag.fl (x : Mag) (q : Int) : Nat × Bool :=
  match x with
  | .rat n d e =>
    let s := e - q
    let a := if 0 ≤ s then n * 2 ^ s.toNat else n
    let b := if 0 ≤ s then d else d * 2 ^ (-s).toNat
    (a / b, a % b == 0)
  | .root n e =>
    let t := scaleFloor n (e - 2 * q)
    let r := isqrt t.1
    (r, t.2 && r * r == t.1)

/-- The magnitude is zero. -/
def Mag.isZero : Mag → Bool
  | .rat n _ _ => n == 0
  | .root n _ => n == 0

/-- Floor of log2 of a magnitude that is not zero. -/
def Mag.expo (x : Mag) : Int :=
  match x with
  | .rat n d e =>
    let k := (Nat.log2 n : Int) - Nat.log2 d + e
    if (x.fl k).1 ≥ 1 then k else k - 1
  | .root n e => ((Nat.log2 n : Int) + e) / 2

/-- A rounding mode, with the random number r of the value under stochastic rounding (R56, R57). -/
inductive Rnd where
  | near
  | zero
  | stoch (r : Nat)
  deriving DecidableEq, Repr

/-- The magnitude rounded to a multiple of 2^q (R56, R57). -/
def roundAt (m : Rnd) (x : Mag) (q : Int) : Nat :=
  match m with
  | .near =>
    let t := x.fl (q - 1)
    let n := t.1 / 2
    if t.1 % 2 == 0 then n else if t.2 then n + n % 2 else n + 1
  | .zero => (x.fl q).1
  | .stoch r =>
    let t := (x.fl (q - 16)).1
    if t % 65536 + r ≥ 65536 then t / 65536 + 1 else t / 65536

/-- One step of a rounding LFSR (R57). -/
def lfsrStep (s : BitVec 32) : BitVec 32 :=
  if s.getLsbD 31 then (s <<< 1) ^^^ 0x00400007 else s <<< 1

/-- k steps of a rounding LFSR. -/
def lfsrSteps : Nat → BitVec 32 → BitVec 32
  | 0, s => s
  | k + 1, s => lfsrSteps k (lfsrStep s)

/-- The state of lane l after seeding (R58). -/
def lfsrSeed (seed : BitVec 32) (l : Nat) : BitVec 32 :=
  let v := seed + BitVec.ofNat 32 l * 0x6A09E667
  if v = 0 then 1 else v

/-- The mode of one value of a lane: under rnd = 2 the lane's LFSR steps 16 times and gives r (R57). -/
def drawRnd (rnd : Nat) (s : BitVec 32) : Rnd × BitVec 32 :=
  match rnd with
  | 0 => (.near, s)
  | 2 => let t := lfsrSteps 16 s; (.stoch (t.toNat % 65536), t)
  | _ => (.zero, s)

/-- Grid exponent of a float format for a magnitude (R36). -/
def floatGrid (f : Fmt) (x : Mag) : Int := max (x.expo - f.mant) (f.emin - f.mant)

/-- n x 2^q is greater than m x 2^e. -/
def gtScaled (n : Nat) (q : Int) (m : Nat) (e : Int) : Bool :=
  if q ≥ e then decide (n * 2 ^ (q - e).toNat > m) else decide (n > m * 2 ^ (e - q).toNat)

/-- n x 2^q is greater than the largest finite value of a float format. -/
def beyondMax (f : Fmt) (n : Nat) (q : Int) : Bool :=
  match decodeFloat f f.maxCode with
  | .fin _ m e => gtScaled n q m e
  | _ => false

/-- The code of a sign and a magnitude code. -/
def withSign (f : Fmt) (neg : Bool) (mag : Nat) : Nat := if neg then mag + 2 ^ (f.width - 1) else mag

/-- The magnitude code of n x 2^q, n not 0 and on the format's grid (R36). -/
def encodeMag (f : Fmt) (n : Nat) (q : Int) : Nat :=
  let k : Int := (Nat.log2 n : Int) + q
  if k < f.emin then (scaleFloor n (q - (f.emin - f.mant))).1
  else (k + f.bias).toNat * 2 ^ f.mant + ((scaleFloor n (q - (k - f.mant))).1 - 2 ^ f.mant)

/-- The code of infinity of a sign. -/
def infCode (f : Fmt) (neg : Bool) : Nat := withSign f neg ((2 ^ f.expBits - 1) * 2 ^ f.mant)

/-- The largest finite code of a sign; for an integer the extreme of its range (R41, R59). -/
def extremeCode (f : Fmt) (neg : Bool) : Nat :=
  if f.isInt then (if neg then 2 ^ (f.width - 1) else 2 ^ (f.width - 1) - 1) else withSign f neg f.maxCode

/-- How a conversion that overflows is written (R59). -/
def overflowCode (f : Fmt) (ovf neg : Bool) : Nat :=
  if ovf then
    (if f.hasInf then infCode f neg else if f = .e4m3 then f.nanCode else extremeCode f neg)
  else extremeCode f neg

/-- A magnitude rounded to n x 2^q in a float format is written as zero: it is zero, or it is below 2^-126 in FP32
(R39, R61). -/
def roundsToZero (f : Fmt) (n : Nat) (q : Int) : Bool :=
  n == 0 || (f == .fp32 && decide ((Nat.log2 n : Int) + q < f.emin))

/-- Conversion of a non-zero finite value to a float format (R59, R61, R63). -/
def convFloat (f : Fmt) (m : Rnd) (ovf neg : Bool) (x : Mag) : Nat × Astat :=
  let q := floatGrid f x
  let n := roundAt m x q
  if roundsToZero f n q then (withSign f neg 0, fCvtTiny)
  else if beyondMax f n q then
    (if m = .zero then (extremeCode f neg, 0) else (overflowCode f ovf neg, fCvtOvf))
  else (withSign f neg (encodeMag f n q), 0)

/-- An exact integer written to an integer format, saturated or wrapped by ovf (R59); true when it did not fit. -/
def fitInt (w : Nat) (ovf : Bool) (v : Int) : Nat × Bool :=
  if -(2 ^ (w - 1) : Nat) ≤ v ∧ v < (2 ^ (w - 1) : Nat) then (lowBits w v, false)
  else if ovf then (lowBits w v, true)
  else ((if v < 0 then 2 ^ (w - 1) else 2 ^ (w - 1) - 1), true)

/-- Conversion of a non-zero finite value to an integer format (R56, R59, R61). -/
def convInt (f : Fmt) (m : Rnd) (ovf neg : Bool) (x : Mag) : Nat × Astat :=
  let n := roundAt m x 0
  if n = 0 then (0, fCvtTiny)
  else
    let r := fitInt f.width ovf (if neg then -(n : Int) else n)
    (r.1, flagIf r.2 fCvtOvf)

/-- Conversion of a non-zero finite value. -/
def convFinite (f : Fmt) (m : Rnd) (ovf neg : Bool) (x : Mag) : Nat × Astat :=
  if f.isInt then convInt f m ovf neg x else convFloat f m ovf neg x

/-- Conversion of an infinity (Tables 2.8 and 2.9). -/
def convInf (f : Fmt) (ovf neg : Bool) : Nat × Astat :=
  if f.isInt then (extremeCode f neg, fCvtInvalid)
  else if f.hasInf then (infCode f neg, 0)
  else if f = .e4m3 then (overflowCode f ovf neg, fCvtOvf)
  else (extremeCode f neg, fCvtOvf)

/-- Conversion of a NaN (Tables 2.8 and 2.9). -/
def convNan (f : Fmt) : Nat × Astat := if f.hasNan then (f.nanCode, 0) else (0, fCvtInvalid)

/-- Conversion between formats (R63, Table 2.9). -/
def convVal (f : Fmt) (m : Rnd) (ovf : Bool) (v : Val) : Nat × Astat :=
  match v with
  | .nan => convNan f
  | .inf neg => convInf f ovf neg
  | .fin neg n e =>
    if n = 0 then ((if f.isInt then 0 else withSign f neg 0), 0) else convFinite f m ovf neg (.rat n 1 e)

/-- One element of an MX block, v / 2^X rounded and always saturated (R64); MXINT8 saturates to +-127. -/
def convMx (f : Fmt) (m : Rnd) (v : Val) (x : Int) : Nat × Astat :=
  match v with
  | .fin neg n e =>
    if n = 0 then ((if f.isInt then 0 else withSign f neg 0), 0)
    else if f.isInt then
      let k := roundAt m (.rat n 1 (e - x)) (-6)
      if k = 0 then (0, fCvtTiny)
      else
        let k' := min k 127
        (lowBits 8 (if neg then -(k' : Int) else k'), flagIf (decide (k > 127)) fCvtOvf)
    else convFloat f m false neg (.rat n 1 (e - x))
  | _ => (0, 0)

end Sys2Proof.Machine
end

