-- ==== Sys2Proof/Machine/Accum.lean ====
section
/-!
DEFINITION. Accum.lean: the long accumulator and its exact form (R46 to R53), the contribution of one block (R49, R51),
the assay operand and row sum (R84 to R86), and the output conversion of an accumulator (R54, R55, R60 to R62).
-/
namespace Sys2Proof.Machine

/-- A long accumulator: the signed number of its 192 bits and the five sticky flags (R46, Table 2.6). The anchor stands
with the accumulator file. -/
structure Acc where
  val : Int
  inexact : Bool
  sat : Bool
  nan : Bool
  pinf : Bool
  ninf : Bool
  deriving DecidableEq, Repr

/-- The cleared accumulator (R46). -/
def Acc.zero : Acc := ⟨0, false, false, false, false, false⟩

/-- The most positive or most negative code (R49). -/
def accExtreme (neg : Bool) : Int := if neg then -(2 ^ 191 : Nat) else (2 ^ 191 : Nat) - 1

/-- v lies in the signed 192-bit range. -/
def inAccRange (v : Int) : Bool := decide (-(2 ^ 191 : Nat) ≤ v) && decide (v < (2 ^ 191 : Nat))

/-- Exact addition of v to an accumulator that has no sat; leaving the range saturates (R49). -/
def Acc.addExact (a : Acc) (v : Int) : Acc :=
  if a.sat then a
  else
    let t := a.val + v
    if inAccRange t then { a with val := t }
    else { a with val := accExtreme (decide (t < 0)), sat := true, inexact := true }

/-- Placing one contribution n x 2^e, negative when neg, into an accumulator with anchor A (R49). -/
def Acc.place (a : Acc) (anchor : Int) (neg : Bool) (n : Nat) (e : Int) : Acc :=
  let s := e - (anchor - 96)
  let t := scaleFloor n s
  let q := if t.2 then t.1 else (if t.1 % 2 == 0 then t.1 + 1 else t.1)
  let a := if t.2 then a else { a with inexact := true }
  if decide (q ≥ 2 ^ 191) then
    { a with sat := true, inexact := true, val := accExtreme neg }
  else a.addExact (if neg then -(q : Int) else q)

/-- The product of two element values, as it enters a block sum (R51). -/
inductive Term where
  | num (v : Int) (e : Int)
  | nan
  | inf (neg : Bool)
  deriving DecidableEq, Repr

/-- The term of one pair of elements (R49, R51). -/
def termOf (a b : Val) : Term :=
  match a, b with
  | .nan, _ => .nan
  | _, .nan => .nan
  | .inf s, .inf t => .inf (s ^^ t)
  | .inf s, .fin t n _ => if n = 0 then .nan else .inf (s ^^ t)
  | .fin s m _, .inf t => if m = 0 then .nan else .inf (s ^^ t)
  | .fin s m e, .fin t n f => .num (if (s ^^ t) then -((m * n : Nat) : Int) else ((m * n : Nat) : Int)) (e + f)

/-- An exact sum v x 2^e with the special flags met. -/
structure BlockSum where
  v : Int
  e : Int
  nan : Bool
  pinf : Bool
  ninf : Bool
  deriving DecidableEq, Repr

/-- Add one term exactly. -/
def BlockSum.add (s : BlockSum) (t : Term) : BlockSum :=
  match t with
  | .nan => { s with nan := true }
  | .inf neg => if neg then { s with ninf := true } else { s with pinf := true }
  | .num v e =>
    if v = 0 then s
    else if s.v = 0 then { s with v := v, e := e }
    else
      let g := min s.e e
      { s with v := s.v * (2 ^ (s.e - g).toNat : Nat) + v * (2 ^ (e - g).toNat : Nat), e := g }

/-- The sum of the products of two lists of elements (R49). -/
def blockSum (as bs : List Val) : BlockSum :=
  (List.zipWith termOf as bs).foldl BlockSum.add ⟨0, 0, false, false, false⟩

/-- One block of one lane enters its accumulator (R49, R51). Scales are the E8M0 codes, 127 for operands with mx = 0. -/
def Acc.block (a : Acc) (anchor : Int) (as bs : List Val) (sa sb : Nat) : Acc :=
  if sa = 255 ∨ sb = 255 then { a with nan := true }
  else
    let s := blockSum as bs
    let a := { a with nan := a.nan || s.nan, pinf := a.pinf || s.pinf, ninf := a.ninf || s.ninf }
    if s.v = 0 then a
    else a.place anchor (decide (s.v < 0)) s.v.natAbs (s.e + ((sa : Int) - 127) + ((sb : Int) - 127))

/-- Exact-form record of an accumulator (R52, Table 2.7): 32 bytes. -/
def Acc.toExact (a : Acc) (anchor : Int) : List Byte :=
  leBytes 24 (lowBits 192 a.val) ++ leBytes 1 (lowBits 8 anchor)
    ++ leBytes 7 ((if a.inexact then 1 else 0) + (if a.sat then 2 else 0) + (if a.nan then 4 else 0)
        + (if a.pinf then 8 else 0) + (if a.ninf then 16 else 0) + 0x100)

/-- The accumulator, the anchor and the version of an exact-form record (R52). -/
def exactOf (bs : List Byte) : Acc × Int × Nat :=
  let f := leNat ((bs.drop 25).take 2)
  (⟨signedOf 192 (leNat (bs.take 24)), bit f 0, bit f 1, bit f 2, bit f 3, bit f 4⟩,
    signedOf 8 (leNat ((bs.drop 24).take 1)), bits f 11 8)

/-- Combination of two exact-form values of equal anchor, a before b in combination order (R53). -/
def Acc.combine (a b : Acc) : Acc :=
  let r : Acc := { val := a.val, inexact := a.inexact || b.inexact, sat := a.sat, nan := a.nan || b.nan,
                   pinf := a.pinf || b.pinf, ninf := a.ninf || b.ninf }
  if a.sat then r
  else if b.sat then { r with val := b.val, sat := true }
  else r.addExact b.val

/-- The flags that a converted accumulator gives the status word (R66). -/
def Acc.astat (a : Acc) : Astat :=
  flagIf a.inexact fAccInexact ||| flagIf a.sat fAccSat ||| flagIf a.nan fAccNan ||| flagIf (a.pinf || a.ninf) fAccInf

/-- Conversion of an accumulator to an output format with the FP32 scale (R54, R55, R60, R62, Table 2.8). -/
def Acc.convert (a : Acc) (anchor : Int) (f : Fmt) (m : Rnd) (ovf : Bool) (scale : BitVec 32) : Nat × Astat :=
  match decodeFloat .fp32 scale.toNat with
  | .fin neg sm se =>
    let flush := decide (0 < sm ∧ sm < 2 ^ 23)
    let sm := if flush then 0 else sm
    let base := a.astat ||| flagIf flush fVecFlush
    let isInf := a.pinf || a.ninf
    if a.nan || (a.pinf && a.ninf) || (isInf && sm == 0) then
      ((convNan f).1, base ||| (convNan f).2 ||| flagIf (sm == 0) fCvtInvalid)
    else if isInf then
      let r := convInf f ovf (a.ninf ^^ neg)
      (r.1, base ||| r.2)
    else if sm = 0 ∨ a.val = 0 then (0, base)
    else
      let r := convFinite f m ovf (decide (a.val < 0) ^^ neg) (.rat (a.val.natAbs * sm) 1 (anchor - 96 + se))
      (r.1, base ||| r.2)
  | _ => (0, a.astat)

/-- The terms of one K index over the lanes: element value times 2^(sb - 127), or none when it is NaN, infinite or has
scale 0xFF (R84). -/
def assayTerm (v : Val) (sb : Nat) : Option (Int × Int) :=
  match v with
  | .fin s m e => if sb = 255 then none else some ((if s then -(m : Int) else m), e + ((sb : Int) - 127))
  | _ => none

/-- Exponent of the lowest non-zero bit of n x 2^e; none for zero. -/
def lowExp (fuel : Nat) (n : Nat) (e : Int) : Option Int :=
  match fuel with
  | 0 => none
  | k + 1 => if n = 0 then none else if n % 2 = 1 then some e else lowExp k (n / 2) (e + 1)

/-- The least of the exponents that are there. -/
def minExp : List (Option Int) → Option Int
  | [] => none
  | none :: xs => minExp xs
  | some e :: xs =>
    match minExp xs with
    | none => some e
    | some f => some (min e f)

/-- All present, or none. -/
def allSome {α : Type} : List (Option α) → Option (List α)
  | [] => some []
  | none :: _ => none
  | some x :: xs =>
    match allSome xs with
    | none => none
    | some ys => some (x :: ys)

/-- The assay operand of one block: the W_k of its 32 K indices and E_j; none when the block is out of window (R84).
rows gives, for each k of the block, the 64 elements of the lanes; scales gives the 64 lane scales of the block. DESIGN
CHOICE (log 65): the 48 bits of the test are those of the sum W_k. -/
def assayBlock (rows : List (List Val)) (scales : List Nat) : Option (List Int × Int) :=
  match allSome (rows.map fun r => allSome (List.zipWith assayTerm r scales)) with
  | none => none
  | some ts =>
    let e := (minExp (ts.flatten.map fun t => lowExp 64 t.1.natAbs t.2)).getD 0
    let scaled (t : Int × Int) : Int := t.1 * ((2 ^ (t.2 - e + 64).toNat : Nat) : Int) / ((2 ^ 64 : Nat) : Int)
    let ws : List Int := ts.map fun r => (r.map scaled).foldl (· + ·) 0
    if ws.all fun w => decide (-((2 ^ 47 : Nat) : Int) ≤ w) && decide (w < (2 ^ 47 : Nat)) then some (ws, e) else none

/-- One block of a streamed row enters an assay accumulator (R85). -/
def Acc.assay (a : Acc) (anchor : Int) (as : List Val) (sa : Nat) (ws : List Int) (e : Int) : Acc :=
  a.block anchor as (ws.map fun w => Val.ofInt w e) sa 127

/-- Reason code of an unchecked row (Table 3.3, codes 1 to 3) from the accumulators compared. -/
def rowReason (as : List Acc) : Nat :=
  if as.any (·.inexact) then 1
  else if as.any (·.sat) then 2
  else if as.any (fun a => a.nan || a.pinf || a.ninf) then 3
  else 0

/-- The exact sum of the lane accumulators of a row equals the assay accumulator (R86). -/
def rowEqual (lanes : List Acc) (assay : Acc) : Bool :=
  (lanes.map (·.val)).foldl (· + ·) 0 == assay.val

end Sys2Proof.Machine
end

