-- ==== Sys2Proof/Machine/State.lean ====
section
/-!
DEFINITION. State.lean: the state of the panel as plain data, its state right after the standby rail appears
(State.reset, log 13), and the reasons a step can stop. INVENTORY.md lists each field with the rule that names it.
Tables keyed by a number (Assoc) hold an entry only where it differs from the default that the accessor of
Machine/Ops.lean names.
-/
namespace Sys2Proof.Machine

open Sys2Proof

/-- Task states of a core (R102, Table 3.4). -/
inductive TaskSt where
  | idle | load | run | drain | report | reset | gated
  deriving DecidableEq, Repr

/-- What the sequencer is blocked by (R72, R100). -/
inductive Hold where
  | none
  /-- A panel load or store is outstanding: its register (none for stp) and its program counter (R72, R149). -/
  | access (rd : Option (BitVec 5)) (pc : Nat)
  /-- A barrier has been joined and not released (R100). -/
  | barrier (ctx : Nat)
  /-- A wait whose condition was false when it was last tried (R96). -/
  | wait
  deriving DecidableEq, Repr

/-- A reserved range of a ring, oldest first (R166). -/
structure Resv where
  id : Nat
  len : Nat
  /-- Scoreboard ranges of the operand that have not retired. -/
  left : Nat
  deriving DecidableEq, Repr

/-- A ring region (R164 to R168). Pointers are positions modulo twice the size: offset and lap bit together. -/
structure Ring where
  base : Nat
  size : Nat
  prod : Bool
  cons : Bool
  ovr : Bool
  head : Nat
  tail : Nat
  rhead : Nat
  rtail : Nat
  resH : List Resv
  resT : List Resv
  deriving DecidableEq, Repr

/-- A disabled ring (R179). -/
def Ring.off : Ring :=
  { base := 0, size := 0, prod := false, cons := false, ovr := false, head := 0, tail := 0, rhead := 0, rtail := 0,
    resH := [], resT := [] }

/-- A scoreboard range entry (R74, R75): a line range of one instruction, and the ring reservations it retires. -/
structure SbEntry where
  write : Bool
  lo : Nat
  hi : Nat
  serial : Nat
  /-- Every access to the range has been made. -/
  ready : Bool
  /-- Ring, side (true for the tail) and reservation. -/
  resv : List (Nat × Bool × Nat)
  deriving DecidableEq, Repr

/-- A local operand as byte positions: start + i, or base + (start + i) mod size inside a ring (R120, R122, R167). -/
structure Loc where
  start : Nat
  base : Nat
  size : Nat
  deriving DecidableEq, Repr

/-- A dispatched move (R140, R143): its word, the registers it named at dispatch (R73) and its local operands. -/
structure MoveOp where
  kind : Nat
  f : MovFields
  pc : Nat
  serial : Nat
  srcAddr : Word
  dstAddr : Word
  shape : Word
  src : Loc
  dst : Loc
  deriving DecidableEq, Repr

/-- One side of a piece of a move. -/
inductive Side where
  /-- Position in the local operand. -/
  | loc (i : Nat)
  /-- Panel address. -/
  | rem (a : Word)
  /-- Bytes held by the engine, repeated as often as the piece is long. -/
  | data (bs : List Byte)
  /-- Undefined bytes: draw n of Config.freeByte from place i (R143). -/
  | free (n i : Nat)
  /-- Read and not kept (R143). -/
  | drop
  deriving DecidableEq, Repr

/-- A contiguous part of a move that has not been sent. -/
structure Piece where
  src : Side
  dst : Side
  len : Nat
  deriving DecidableEq, Repr

/-- Phase of a move channel (R91, R93, R95, R254). -/
inductive Phase where
  | idle | busy | signal
  /-- After a credit-grant of none: the PRC from which it may ask again (R254). -/
  | retry (due : Nat)
  | stopped
  deriving DecidableEq, Repr

/-- A move channel. -/
structure Chan where
  phase : Phase
  mv : Option MoveOp
  todo : List Piece
  deriving DecidableEq, Repr

def Chan.idle : Chan := ⟨.idle, none, []⟩

/-- An entry of the matrix queue that has not started (R150, R386, R510). -/
inductive MatQ where
  | load (td : Word × Word) (loc : Loc) (serial : Nat) (g : Glitch)
  | mul (td : Word × Word) (f : MatFields) (loc : Loc) (serial : Nat) (g : Glitch)
  | read (td : Word × Word) (f : MatFields) (loc : Loc) (serial pc : Nat)
  | seed (v : BitVec 32)
  deriving DecidableEq, Repr

/-- An entry of the sync queue that has not started (R146, R510). -/
inductive SynQ where
  | set (ctr : Nat) (v : BitVec 32)
  | add (ctr : Nat) (v : BitVec 32)
  /-- A signal with its counter, the address taken at dispatch and its program counter. -/
  | sig (ctr : Nat) (a : Word) (pc : Nat)
  deriving DecidableEq, Repr

/-- What the lane store keeps of the stationary descriptor (R127). -/
structure LaneView where
  fmt : Fmt
  mx : Bool
  k : Nat
  anchor : Int
  deriving DecidableEq, Repr

/-- The lane store with its elements and scales (R80). -/
structure LaneStore where
  view : LaneView
  data : List Byte
  scales : List Byte
  deriving DecidableEq, Repr

/-- An activation table with its domain (R137). -/
structure ActTable where
  vals : List (BitVec 32)
  lo : BitVec 32
  inv : BitVec 32
  deriving DecidableEq, Repr

/-- Matrix engine (R80 to R88). -/
structure MatSt where
  lane : Option LaneStore
  anchor : Option Int
  /-- The lane store loaded in the task, and the anchor, as the instructions dispatched so far will leave them: what the
  checks at dispatch go by (R48, Table 4.9). -/
  dLane : Option LaneView
  dAnchor : Option Int
  /-- Accumulators, key row; missing rows are zero, or undefined where free is set. -/
  accs : Assoc (List Acc)
  assay : Assoc Acc
  free : Option Nat
  /-- Work of the tile used a lane store whose load marked a block out of window (R84, Table 3.3 code 4). -/
  oow : Bool
  lfsr : List (BitVec 32)
  queue : List MatQ
  deriving DecidableEq, Repr

/-- Vector unit (R89, R90, R137). Missing registers are zero, or undefined where free is set. -/
structure VecSt where
  v : Assoc (List (BitVec 32))
  p : Assoc (BitVec 64)
  tab : Assoc ActTable
  free : Option Nat
  lfsr : List (BitVec 32)
  deriving DecidableEq, Repr

/-- An entry of the line gatherer (R159). -/
structure GathEntry where
  line : Nat
  mask : BitVec 64
  deriving DecidableEq, Repr

/-- A cell core (spec/03_core.md, spec/05_scratchpad.md). -/
structure Core where
  st : TaskSt
  pc : Nat
  sregs : Assoc Word
  evc : Assoc (BitVec 32)
  /-- Lines of the instruction buffer, oldest first (R69). -/
  ibuf : List Nat
  hold : Hold
  /-- Row of Table 3.2 and ring of the present stall; row 0 while none. -/
  stallRow : Nat
  stallRing : Option Nat
  mat : MatSt
  vec : VecSt
  movq : List MoveOp
  chans : Assoc Chan
  /-- Entries of the sync queue behind an esig that has no tag (R146, R510). -/
  synq : List SynQ
  sb : Assoc SbEntry
  serial : Nat
  rings : Assoc Ring
  gath : List GathEntry
  merged : Nat
  /-- Status the completion token will carry; set by the first fault or stop (R106). -/
  status : Option Nat
  partStop : Bool
  launch : Option (RingNo × Nat)
  /-- CORE_CTRL (Table 3.15). -/
  bypass : Bool
  paired : Bool
  assayEn : Bool
  halt : Bool
  task : BitVec 32
  step : BitVec 32
  astat : Astat
  rseed : BitVec 32
  fault : Word
  faultPrc : Nat
  assayReg : BitVec 10
  checked : Nat
  unchecked : Nat
  tile : Nat
  cyc : Nat
  stall : Nat
  mblk : Nat
  wdogLimit : Nat
  wdogRun : Nat
  eccCorr : Nat
  eccLine : Nat
  eccUncorr : Nat
  deriving DecidableEq, Repr

/-- Matrix engine after a full reset: zero, no anchor (R46, R179). -/
def MatSt.reset : MatSt :=
  { lane := none, anchor := none, dLane := none, dAnchor := none, accs := [], assay := [], free := none,
    oow := false, lfsr := List.replicate 64 0, queue := [] }

/-- Vector unit after a full reset (R179). -/
def VecSt.reset : VecSt := ⟨[], [], [], none, List.replicate 64 0⟩

/-- A core after a full reset: the reset values of Tables 3.14 to 3.20 and 5.2 to 5.8. -/
def Core.reset : Core :=
  { st := .idle, pc := 0, sregs := [], evc := [], ibuf := [], hold := .none, stallRow := 0, stallRing := none,
    mat := MatSt.reset, vec := VecSt.reset, movq := [], chans := [], synq := [], sb := [], serial := 0, rings := [], gath := [],
    merged := 0, status := none, partStop := false, launch := none, bypass := false, paired := false, assayEn := true,
    halt := true, task := 0, step := 0, astat := 0, rseed := 0, fault := 0, faultPrc := 0, assayReg := 0,
    checked := 0, unchecked := 0, tile := 0, cyc := 0, stall := 0, mblk := 0, wdogLimit := 24, wdogRun := 0,
    eccCorr := 0, eccLine := 0, eccUncorr := 0 }

/-- Where a cell in flight waits. -/
inductive Stand where
  /-- At a router's input, with the direction it arrived in; none for a cell injected there (R192). -/
  | router (l : RouterLoc) (din : Option Dir)
  /-- At a network interface; NIs are numbered 4 x site + q, and 960 + rim die less 240 (R184). -/
  | ni (n : Nat)
  /-- At a link die, waiting for a link (R194, R283). -/
  | exit (d : Nat)
  /-- Received over a link by the entry link die (R195, R196). -/
  | entry (l : Nat)
  deriving DecidableEq, Repr

/-- A cell in flight. -/
structure Flight where
  at_ : Stand
  cell : Cell
  deriving DecidableEq, Repr

/-- A target slot (R210), a multicast slot (R207) or the record of one: source (endpoint and coordinate) and tag. -/
structure TSlot where
  ni : Nat
  src : BitVec 28
  tag : BitVec 10
  dst : BitVec 16
  cnt : Nat
  counted : List Nat
  bad : Bool
  /-- Bytes of a write to an engine's queue port, by cell index (R248). -/
  port : List (Nat × List Byte)
  start : Nat
  /-- Reassembly timeout in force when the slot was taken, in microseconds (R213, Table 15.4). -/
  limit : Nat
  deriving DecidableEq, Repr

/-- A tombstone (R213). -/
structure Tomb where
  ni : Nat
  src : BitVec 28
  tag : BitVec 10
  start : Nat
  limit : Nat
  deriving DecidableEq, Repr

/-- What a requester's open message is for. -/
inductive Purpose where
  | movRead (c : Nat) (ch : Nat) (dst : Side)
  | movWrite (c : Nat) (ch : Nat)
  | movSig (c : Nat) (ch : Nat)
  | movCredit (c : Nat) (ch : Nat) (want : Nat)
  | movContrib (c : Nat) (ch : Nat)
  | ldp (c : Nat) (rd : BitVec 5)
  | stp (c : Nat)
  | esig (c : Nat) (pc : Nat)
  | hostWrite (op : Nat)
  | hostRead (op : Nat) (pos : Nat)
  | redOut (m : Nat) (stream : Nat)
  | redCredit (m : Nat) (stream : Nat)
  | engSig (m : Nat) (eng : Nat) (tag : BitVec 32)
  /-- Data of a gather or re-layout descriptor to or from another panel; inc is what its end adds to the count. -/
  | engWrite (m : Nat) (eng : Nat) (inc : Nat)
  | engRead (m : Nat) (eng : Nat) (dst : Word) (inc : Nat)
  deriving DecidableEq, Repr

/-- A requester slot: an open message with its request cells (R208 to R214). -/
structure Msg where
  ep : BitVec 16
  tag : BitVec 10
  addr : Word
  cells : List Cell
  /-- Read-data cells expected; 1 for every other kind. -/
  want : Nat
  got : List (Nat × List Byte)
  busy : Nat
  /-- Cells that wait after a busy response, with the PRC at which each may be sent again (R211). -/
  waiting : List (Nat × Nat)
  start : Nat
  /-- Reassembly timeout in force when the message was sent, in microseconds (R214, Table 15.4). -/
  limit : Nat
  purpose : Purpose
  deriving DecidableEq, Repr

/-- A tag closed after a failure (R214). -/
structure ClosedTag where
  ep : BitVec 16
  tag : BitVec 10
  start : Nat
  limit : Nat
  deriving DecidableEq, Repr

/-- The fabric (spec/06_fabric.md). -/
structure Fab where
  net : List Flight
  slots : List TSlot
  mslots : List TSlot
  tombs : List Tomb
  msgs : List Msg
  closed : List ClosedTag
  /-- Congestion words assembled by the belay root, key site (R202). -/
  words : Assoc Nat
  /-- Sites whose word has come since the last complete map, and that map (R202). -/
  reported : List Nat
  whole : Option (Assoc Nat)
  /-- Newest map of each receiving die, with the PRC of its arrival (R202). -/
  maps : Assoc (Nat × Assoc Nat)
  /-- Sums and numbers of the 100 us copy, key 8 x site + output (R203). -/
  occSum : Assoc (Nat × Nat)
  /-- The 100 us copy: PRC, seq, words (Table 6.5). -/
  cmap : Nat × Nat × Assoc Nat
  /-- Fenced routers at the root, key site, four bits (R231, R233). -/
  holes : Assoc Nat
  holesPrc : Nat
  /-- Route-hole map that each die holds (R231). -/
  holeMaps : Assoc (Assoc Nat)
  /-- Published hop distances where they differ from the formula of R29, key 256 x site + die (R30, R31). -/
  hops : Assoc Nat
  hopsGen : Nat
  /-- Rank map in force per partition (R226). -/
  rmaps : Assoc (List Word)
  /-- Rank map load running: partitions (R228). -/
  loads : List Nat
  /-- Messages that lost a cell to a drill: source and tag (Table 13.10). -/
  drilled : List (BitVec 28 × BitVec 10)
  /-- Transit-route tables: the hole map they were computed for; none before bring-up (R285). -/
  transit : Option (Assoc Nat)
  deriving DecidableEq, Repr

/-- No traffic. -/
def Fab.reset : Fab :=
  { net := [], slots := [], mslots := [], tombs := [], msgs := [], closed := [], words := [], reported := [],
    whole := none, maps := [], occSum := [], cmap := (0, 0, []), holes := [], holesPrc := 0, holeMaps := [],
    hops := [], hopsGen := 0, rmaps := [], loads := [], drilled := [], transit := none }

/-- A codeword that a link has sent: its number, link-control field and cells (R267 to R269, Table 8.1). Its 640 bytes are the
rest of the idle cell that the last one cut, its cells, and idle cells, the last of them cut. -/
structure SentCw where
  num : Nat
  ctype : Nat
  seq : Nat
  cvc : Nat
  ccnt : Nat
  cells : List Cell
  /-- Bytes of the cut idle cell that it begins with. -/
  rest : Nat
  /-- Credits that its cell needed (R271, R289). -/
  need : Nat
  deriving DecidableEq, Repr

/-- A link of a link die (spec/08_links.md). -/
structure Link where
  /-- LNK_STATE.state, reason and rtt (Table 8.8). -/
  state : Nat
  reason : Nat
  rtt : Nat
  /-- The present training has reached codeword lock (Table 8.5, step 3). -/
  locked : Bool
  /-- PRC of the release to training, or of the last attempt. -/
  since : Nat
  /-- The link has left service and retrains by R280. -/
  lost : Bool
  attempts : Nat
  /-- Number of the next codeword in each direction (R269). -/
  txSeq : Nat
  rxSeq : Nat
  /-- The receiver waits for a replay from rxSeq, and answers that have not advanced it (R270). -/
  replay : Bool
  retries : Nat
  /-- Codewords not acknowledged, oldest first (R269). -/
  buf : List SentCw
  /-- Bytes of the idle cell that the last codeword cut, still to go (R267). -/
  txRest : Nat
  /-- Bytes of a cell that the last codeword received in order cut (R267). -/
  rxRest : List Byte
  /-- Codewords whose cells wait for a credit to go again after a retrain (R271, R280). -/
  resend : List SentCw
  /-- The last cell that it took from its link die was one of this panel's own (R277). -/
  lastOwn : Bool
  /-- Credits held for VC0, VC1, VC2 (R271). -/
  cr0 : Nat
  cr1 : Nat
  cr2 : Nat
  /-- Last capability record received (Table 8.6). -/
  caps : Option CapRec
  /-- A drill made it leave service (Table 13.10): its events carry the drill bit until it is up or fenced. -/
  drilled : Bool
  deriving DecidableEq, Repr

def Link.reset : Link := ⟨0, 0, 0, false, 0, false, 0, 0, 0, false, 0, [], 0, [], [], false, 1024, 1024, 256, none, false⟩

/-- Shape, sizes, coordinate, rappel and doubling in force since the last full panel reset (R276). -/
structure Topo where
  shape : Nat
  nx : Nat
  ny : Nat
  nz : Nat
  x : Nat
  y : Nat
  z : Nat
  rappel : Bool
  dbl : Nat
  deriving DecidableEq, Repr

structure LinksSt where
  links : Assoc Link
  topo : Topo
  /-- Exit map that each die holds (R282). -/
  exitMap : Nat
  deriving DecidableEq, Repr

def LinksSt.reset : LinksSt := ⟨[], ⟨0, 1, 1, 1, 0, 0, 0, false, 0⟩, 0⟩

/-- An event (R329): code, drill mark, partition, PRC and payload. -/
structure Ev where
  code : Nat
  drill : Bool
  part : Nat
  prc : Nat
  payload : BitVec 128
  deriving DecidableEq, Repr

/-- What the block puts on its ports, oldest first in State.out (log 11). -/
inductive Out where
  | rdmaWrite (host : Nat) (qpn : BitVec 24) (va : Word) (rkey : BitVec 32) (data : List Byte) (imm : Option (BitVec 32))
  | rdmaRead (host : Nat) (qpn : BitVec 24) (va : Word) (rkey : BitVec 32) (len : Nat)
  | ack (host : Nat) (qpn : BitVec 24)
  | nak (host : Nat) (qpn : BitVec 24) (reason : Nat)
  | readResponse (host : Nat) (qpn : BitVec 24) (data : List Byte)
  | atomicResponse (host : Nat) (qpn : BitVec 24) (old : Word)
  | cm (host : Nat) (qpn : BitVec 24) (kind : Nat) (data : List Byte)
  /-- A congestion notification (R297). -/
  | cnp (host : Nat) (qpn : BitVec 24)
  | codeword (link : Nat) (w : SentCw)
  /-- The panel's capability record in training control fields: copies of 26 fragments of 20 bits (R278). -/
  | capability (link : Nat) (copies : List (List (BitVec 20)))
  | frame (mac : BitVec 48) (bytes : List Byte)
  | line (bytes : List Byte)
  /-- A signal to the tray: 0 MEN_REQ, 1 TRIP_CLR pulse (Table 16.5). -/
  | pins (name : Nat) (v : Nat)
  /-- A PMBus command to a module, by segment and address (R493, Table 16.2); a setpoint is in units of 0.1 mV (log 83). -/
  | pmbus (segment address code value : Nat)
  deriving DecidableEq, Repr

/-- State of a QP (R294, R295). -/
inductive QpSt where
  | opening | ready | error
  deriving DecidableEq, Repr

/-- What an outbound RDMA operation is for. -/
inductive OutFor where
  /-- A record of an event ring, with its pidx. -/
  | event (ring : Nat) (pidx : Word) (e : Ev)
  /-- A WRITE of a copy or query command. -/
  | cmdWrite (ring : Nat) (idx : Nat)
  /-- A READ of a copy command, with the panel address its data goes to. -/
  | cmdRead (ring : Nat) (idx : Nat) (dst : Word)
  deriving DecidableEq, Repr

/-- An outbound RDMA operation that waits for the host, with its packet (R296). -/
structure OutOp where
  for_ : OutFor
  pkt : Out
  /-- PRC of its last sending. -/
  since : Nat
  deriving DecidableEq, Repr

/-- A queue pair (R294 to R297). -/
structure Qp where
  host : Nat
  qpn : BitVec 24
  port : Nat
  part : Nat
  st : QpSt
  /-- Send rate in units of 1/(20 x 2^20) of the port rate (R297). -/
  rate : Nat
  retries : Nat
  /-- ACK timeout exponent and retry count in force when it was connected (R296, Table 15.4). -/
  ackExp : Nat
  retryMax : Nat
  outs : List OutOp
  /-- PRC of the last CNP, or of the last rise of the rate after it. -/
  lastCnp : Nat
  /-- PRC of the last CNP sent (R297). -/
  cnpSent : Option Nat
  deriving DecidableEq, Repr

/-- An inbound RDMA operation (Table 9.1). -/
inductive Inbound where
  | write (rkey : BitVec 32) (va : Word) (data : List Byte)
  | read (rkey : BitVec 32) (va : Word) (len : Nat)
  | add (rkey : BitVec 32) (va : Word) (v : Word)
  | swap (rkey : BitVec 32) (va : Word) (cmp new : Word)
  deriving DecidableEq, Repr

/-- An inbound operation that waits for an earlier one of its QP, or for fabric acknowledgements (R299, R300). -/
structure InOp where
  op : Nat
  host : Nat
  qpn : BitVec 24
  req : Inbound
  started : Bool
  /-- Pieces not sent, messages open, and the data of a READ by position. -/
  todo : List Piece
  left : Nat
  data : Assoc (List Byte)
  /-- NAK that the operation will get: 2 remote access, 3 remote operational. -/
  bad : Option Nat
  deriving DecidableEq, Repr

/-- A message of the belay network to a core. -/
inductive Belay where
  | start (m : TaskStartMsg)
  | stop
  deriving DecidableEq, Repr

/-- State machine of a command (R322). -/
inductive CmdSt where
  | queued | started | committed | done
  deriving DecidableEq, Repr

/-- A command accepted on a ring (R310, R322). idx numbers the commands of all rings in the order of acceptance. -/
structure Cmd where
  ring : Nat
  idx : Nat
  rec_ : List Byte
  st : CmdSt
  /-- The aborts, by ring and number, whose records follow (R324). -/
  aborts : List (Nat × Nat)
  aborted : Bool
  /-- Cores of a launch whose token has not come, or work items that have not ended. -/
  left : List Nat
  /-- Work items not yet begun: list entries to submit (R315). -/
  todo : List Nat
  tstat : Nat
  astat : Astat
  checked : Nat
  unchecked : Nat
  /-- Status a failed part gives the completion (R315). -/
  fail : Option Nat
  /-- Cores that a launch started, and the members of its contexts 1 to 3 (R313, R316). -/
  cores : List Nat
  groups : List (List Nat)
  deriving DecidableEq, Repr

/-- A command ring (R305 to R308, Table 9.4). -/
structure CRing where
  tail : Word
  head : Word
  resv : Word
  state : Nat
  deriving DecidableEq, Repr

def CRing.reset : CRing := ⟨0, 0, 0, 0⟩

/-- An event ring (R325 to R328, Table 9.5). -/
structure ERing where
  cons : Word
  prod : Word
  lost : Nat
  state : Nat
  /-- Records waiting for space, oldest first, at most 256 (R321, R327). -/
  ovq : List Ev
  /-- Code of the first event dropped since the last event-loss record, and the number dropped. -/
  firstLost : Option (Nat × Nat)
  /-- Records, with their pidx, that a QP in error left without an acknowledgement (R328). -/
  again : List (Word × Ev)
  deriving DecidableEq, Repr

def ERing.reset : ERing := ⟨0, 0, 0, 0, [], none, []⟩

/-- What a port runs with since its last restart: speed, IPv4 and IPv6 address, priority flow control, DSCP and VLAN (R291, R292,
Table 15.4). -/
structure PortCfg where
  speed : Nat
  ipv4 : Nat
  ipv6 : Nat
  pfc : Nat
  dscp : Nat
  vlan : Nat
  deriving DecidableEq, Repr

/-- The defaults of Table 9.15. -/
def PortCfg.reset : PortCfg := ⟨400, 0, 0, 0xFF, 26, 0⟩

/-- The host dies (spec/09_host.md). -/
structure HostSt where
  qps : List Qp
  ins : List InOp
  nextOp : Nat
  crings : Assoc CRing
  erings : Assoc ERing
  cmds : List Cmd
  nextCmd : Nat
  /-- Members of context ctx of a ring, key 4 x ring + ctx: first rank, count, stride (R316). -/
  groups : Assoc (Nat × Nat × Nat)
  /-- Task starts and task stops on their way to a core (R99, R107). -/
  belay : List (Nat × Belay)
  /-- Packets of each port discarded for their ICRC (R293). -/
  icrc : Assoc Nat
  /-- Draw of Config.salt that a partition's salt is (R298); its own number where missing. -/
  salts : Assoc Nat
  /-- What each port runs with; the defaults where missing (R291, R292). -/
  ports : Assoc PortCfg
  /-- Ports whose restart runs: until the port next reports its state (R291, R485). -/
  restarting : List Nat
  deriving DecidableEq, Repr

def HostSt.reset : HostSt :=
  { qps := [], ins := [], nextOp := 0, crings := [], erings := [], cmds := [], nextCmd := 0, groups := [],
    belay := [], icrc := [], salts := [], ports := [], restarting := [] }

/-- An input of an open reduce stream (R250, R254). -/
structure RedIn where
  src : BitVec 28
  /-- Cells of credit granted since the stream was opened. -/
  granted : Nat
  /-- Bytes delivered, key position (R252). -/
  data : Assoc Byte
  deriving DecidableEq, Repr

/-- An open reduce stream (R250 to R257). -/
structure Stream where
  desc : List Byte
  submitter : BitVec 16
  ins : List RedIn
  /-- Bytes of output position written. -/
  written : Nat
  /-- Cells of credit held at the next stream (omode 0b10, R252, R254). -/
  outCr : Nat
  /-- After a credit-grant of none: the PRC from which it may ask again (R254). -/
  again : Option Nat
  /-- An anchor mismatch has been met (R256). -/
  badAnchor : Bool
  lastPrc : Nat
  /-- Stream timeout in force when it was opened, in microseconds (R257, Table 15.4). -/
  window : Nat
  /-- The host command that submitted it and its list entry (R315). -/
  owner : Option (Nat × Nat × Nat)
  deriving DecidableEq, Repr

/-- A gather, scatter or re-layout descriptor in its queue (R248). -/
structure QDesc where
  desc : List Byte
  submitter : BitVec 16
  started : Bool
  /-- Status and count found by the work done. -/
  status : Nat
  count : Nat
  /-- What is still to copy, with what each piece adds to the count. -/
  todo : List (Piece × Nat)
  /-- What its reads of this panel have still to report (R239). -/
  ecc : EccObs
  /-- A piece of it has failed: data still to come is dropped. -/
  failed : Bool
  /-- What failed it was a drill's finding (R329). -/
  drill : Bool
  /-- The host command that submitted it and its list entry (R315). -/
  owner : Option (Nat × Nat × Nat)
  deriving DecidableEq, Repr

/-- A memory site (spec/07_memory_sites.md). -/
structure MSite where
  streams : Assoc Stream
  gatq : List QDesc
  relq : List QDesc
  /-- Status logs, key byte offset from 0x1000 (R249). -/
  logs : Assoc Word
  temp : BitVec 16
  fastRef : Bool
  /-- hbm-hot has been raised and not re-armed (R240). -/
  hotRaised : Bool
  mcmask : Assoc Word
  redStat : Word
  /-- Requester classes of each channel locked out, key 8 x channel + requester (R246). -/
  locks : Assoc Bool
  /-- Refresh intervals waited per pseudo-channel (R247). -/
  refWait : Assoc Nat
  patrolPos : Nat
  /-- Completion signals that wait for a tag: engine and descriptor (R249, log 38). -/
  signals : List (Nat × List Byte)
  deriving DecidableEq, Repr

def MSite.reset : MSite :=
  { streams := [], gatq := [], relq := [], logs := [], temp := 0, fastRef := false, hotRaised := false, mcmask := [],
    redStat := 0, locks := [], refWait := [], patrolPos := 0, signals := [] }

/-- An armed frequency change (R347, R348, R352). -/
structure Change where
  /-- The die of a pin or unpin; none for every die. -/
  die : Option Nat
  step : Nat
  /-- Change count C. -/
  at_ : Nat
  acks : List Nat
  /-- The step clocks of its dies have stopped (R349). -/
  stopped : Bool
  /-- The change of one die pins it; else it unpins it (R346). -/
  pin : Bool
  deriving DecidableEq, Repr

/-- Clocking (spec/10_clocking.md). -/
structure ClkSt where
  /-- Panel step (R346). -/
  step : Nat
  /-- Dies that run pinned at step 0; the others run at the panel step (R346). -/
  pinned : List Nat
  /-- Dies pinned because their loop did not re-lock (R351). -/
  lockPin : List Nat
  /-- A die's PRC less the base-camp die's, in ticks, as the last comparison since its alignment found it (R340, R342). -/
  skew : Assoc Int
  change : Option Change
  quench : Option Change
  /-- A cancelled change, with the dies that have disarmed in place of its acknowledgements (R350). -/
  cancelled : Option Change
  lastResume : Option Nat
  /-- Dies that wait for their late re-lock, with C (R351). -/
  late : List (Nat × Nat)
  /-- The reference has been bad since a PRC, and is lost since a PRC (R336). -/
  refBadAt : Option Nat
  refLostAt : Option Nat
  /-- Last offset measured, in ppm, and BC_STATE.ref_ok (Table 14.17). -/
  refPpm : Int
  refOk : Bool
  /-- Matrix issue is paused by a quench (R385, R386). -/
  paused : Bool
  /-- The mesh is locked and every PRC aligned (Table 12.1, steps 3 and 7). -/
  mesh : Bool
  /-- CLK_STATE.lock_fail and changes, key die (Table 10.5). -/
  lockFail : Assoc Nat
  changes : Assoc Nat
  changesAll : Nat
  /-- CLK_EDGE.depth and failed, key site (Table 10.6). -/
  edgeDepth : Assoc Nat
  edgeFailed : Assoc Nat
  deriving DecidableEq, Repr

def ClkSt.reset : ClkSt :=
  { step := 0, pinned := [], lockPin := [], skew := [], change := none, quench := none, cancelled := none,
    lastResume := none, late := [], refBadAt := none, refLostAt := none, refPpm := 0, refOk := false,
    paused := false, mesh := false, lockFail := [], changes := [], changesAll := 0, edgeDepth := [],
    edgeFailed := [] }

/-- Power of a grid site: its module, rail and die sensors (Table 11.10, R366 to R371, R382). -/
structure Rail where
  /-- Phases out of service, a bit each, as STATUS_MFR_SPECIFIC shows them (Table 16.3). -/
  phaseMask : Nat
  /-- The module has not answered for 100 ms (R370). -/
  silent : Bool
  /-- A STATUS_WORD fault has been reported and still shows (Table 11.9). -/
  modFault : Bool
  modWarned : Bool
  thr : Nat
  /-- PRC of the last rise, and of the last fall, of thr (R367). -/
  thrAt : Nat
  /-- Bump groups that have raised bump-drop (R371). -/
  bumps : List Nat
  /-- Setpoints 0 to 3 of the module, in units of 0.1 mV, as base-camp firmware has written them, and the one that the die's
  select pins choose (R360, R494). -/
  points : List Nat
  vsel : Nat
  /-- A pitch hint has turned phase shedding off (R376, MFR_SHED_CTRL). -/
  noShed : Bool
  /-- Pinned for heat, and for phases (R370, R382). -/
  hotPin : Bool
  phasePin : Bool
  /-- Pinned and past 105 C: matrix issue is withheld with n = 7 (Table 11.6). -/
  hotThr : Bool
  throttleCnt : Nat
  deferCnt : Nat
  /-- Rail currents of the last 20 samples in mA, newest last (R366). -/
  win : List Nat
  /-- Mean rail power of the last heartbeat, in mW (R381). -/
  beat : Nat
  /-- Hottest sensor, 0.125 C. -/
  temp : Int
  warned : Bool
  /-- PRC since which the die has been above 100 C, or below 92 C while pinned. -/
  hotSince : Option Nat
  coolSince : Option Nat
  deriving DecidableEq, Repr

/-- Reset values of Table 11.10. -/
def Rail.reset : Rail :=
  { phaseMask := 0, silent := false, modFault := false, modWarned := false, thr := 0, thrAt := 0, bumps := [],
    points := [0, 0, 0, 0], vsel := 0, noShed := false, hotPin := false, phasePin := false, hotThr := false,
    throttleCnt := 0, deferCnt := 0, win := [], beat := 0, temp := 0, warned := false, hotSince := none,
    coolSince := none }

/-- A headroom request of a region (R372). -/
inductive Headroom where
  | none
  /-- Deferred since a PRC; over tells that 200 us have passed and the die's other region is throttled. -/
  | waiting (since : Nat) (excess : Bool)
  /-- Granted: the allowance is reserved; with the PRC at which the ramp ended. -/
  | granted (ended : Option Nat)
  deriving DecidableEq, Repr

/-- Power of a region (Table 11.11, R362 to R365, R369, R372, R373). -/
structure RegionPwr where
  /-- 0 on; 1 retention; 2 off; 3 dark. -/
  pstate : Nat
  /-- The region is to be woken (R363, R376, R399). -/
  wake : Bool
  /-- Isolated slices. -/
  failed : List Nat
  thr : Nat
  thrAt : Nat
  win : List Nat
  skipping : Bool
  droopCnt : Nat
  skipped : Nat
  /-- Tempering offset in units of 2.5 mV, and the falls that have not been applied (R373). -/
  offset : Int
  falls : Nat
  /-- Lowest slack of the period in units of 0.25 %, and whether it had a droop episode. -/
  slack : Option Nat
  droopMark : Bool
  head : Headroom
  deriving DecidableEq, Repr

/-- Reset values of Table 11.11. -/
def RegionPwr.reset : RegionPwr :=
  { pstate := 0, wake := false, failed := [], thr := 0, thrAt := 0, win := [], skipping := false, droopCnt := 0,
    skipped := 0, offset := 0, falls := 0, slack := none, droopMark := false, head := .none }

/-- A domain report (Table 11.4). -/
structure Report where
  val : Nat
  peak : Nat
  prc : Nat
  deriving DecidableEq, Repr

/-- A pitch hint held by the power manager (R376). -/
structure Hint where
  id : Nat
  ring : Nat
  regions : List Nat
  level : Nat
  start : Nat
  stop : Nat
  active : Bool
  /-- Step that the forecast holds the panel step down to (R377). -/
  ceil : Option Nat
  /-- Regions that the hint woke, with the power state they had (R376). -/
  woken : List (Nat × Nat)
  deriving DecidableEq, Repr

/-- Settings of the power manager in force: those of 0x2000.01, 0x3010.01, .05 to .07 at the last cap update, that of
0x4000.03 at the last step control (R487, Table 15.4). -/
structure Limits where
  power : Nat
  /-- Nominal flow, FP32. -/
  flow : BitVec 32
  outlet : Nat
  plate : Nat
  target : Nat
  step : Nat
  deriving DecidableEq, Repr

/-- The defaults of Table 11.12 and of 0x4000.03. -/
def Limits.reset : Limits := ⟨15000, 0x41C00000, 65, 60, 95, 15⟩

/-- Power and cooling (spec/11_power_thermal.md). -/
structure PwrSt where
  /-- Key site. -/
  rails : Assoc Rail
  /-- Key region. -/
  regions : Assoc RegionPwr
  /-- Key domain (R375). -/
  reports : Assoc Report
  hints : List Hint
  nextHint : Nat
  /-- Last block with a valid reading, field by field (R378, R501): 0.125 C and 0.01 L/min. -/
  inlet : Option Int
  outlet : Option Int
  plate : Option Int
  flow : Option Nat
  hubPrc : Nat
  /-- Flow samples of the last 100 ms with their PRCs (R384). -/
  flowHist : List (Nat × Nat)
  trayLost : Bool
  /-- Warnings raised on the hub's channels, by number of Table 11.5 (R378). -/
  warned : List Nat
  /-- Thermal-resistance estimate in K/W, as a fraction (R380). -/
  rth : Int × Nat
  /-- Outlet cap and plate cap, in 1/1,000 W. -/
  outletCap : Nat
  plateCap : Nat
  /-- Quench in force: PRC of its trigger (R385). -/
  quench : Option Nat
  /-- A drill started it (R329). -/
  quenchDrill : Bool
  /-- PRC since which the recovery conditions of R386 have held: lifting, and rise of the step. -/
  liftSince : Option Nat
  riseSince : Option Nat
  lastRise : Nat
  /-- A quench has run, and steps rise one a second until the step control is free again (R386). -/
  slowRise : Bool
  /-- Tripping die and its temperature, recorded until the next cold boot (R383). -/
  trip : Option (Nat × Int)
  /-- PRC at which the tempering period ends. -/
  temperEnd : Nat
  /-- Fast-cap share of every cell die in mA (R381). -/
  share : Nat
  limits : Limits
  /-- Cap that the last cap-change event, or the last bring-up, had (R380). -/
  capReported : Nat
  deriving DecidableEq, Repr

def PwrSt.reset : PwrSt :=
  { rails := [], regions := [], reports := [], hints := [], nextHint := 0, inlet := none, outlet := none, plate := none,
    flow := none, hubPrc := 0, flowHist := [], trayLost := false, warned := [], rth := (0, 1), outletCap := 15000000,
    plateCap := 15000000, quench := none, quenchDrill := false, liftSince := none, riseSince := none, lastRise := 0, slowRise := false,
    trip := none, temperEnd := 0, share := 120000, limits := Limits.reset, capReported := 15000 }

/-- A running reset (R402 to R406). -/
structure RunReset where
  level : Nat
  /-- Core, cluster, region or partition, by level. -/
  unit : Nat
  /-- Logical core that the request named. -/
  lcid : Nat
  start : Nat
  /-- PRC at which a partition's cores and regions had been reset (Table 12.7 step 5). -/
  swept : Option Nat
  deriving DecidableEq, Repr

/-- What the topology record keeps of its last change (R396, Table 12.4): its PRC, the check's result, the host ports up, link
dies answering, edge halves failed. -/
structure TopoSt where
  prc : Nat
  result : Nat
  ports : Nat
  linkDies : Nat
  edges : Nat
  deriving DecidableEq, Repr

/-- Partitions and resets (spec/12_bringup_reset.md). -/
structure PartSt where
  /-- State of each partition, Table 12.5; missing is undefined. -/
  st : Assoc Nat
  resets : List RunReset
  /-- Partition resets requested during starting or stopping, with the logical core that the request named (R406). -/
  waiting : Assoc Nat
  /-- Last owner, plus 1, of each cell die (0 to 223) and site (256 + m) (R399); missing is none. -/
  owners : Assoc Nat
  /-- Dies and sites being scrubbed or filled. -/
  scrub : List Nat
  /-- Topology record; none before the first check (R396). -/
  topo : Option TopoSt
  /-- Rappel mode as 0x5800.06 stood at the last full panel reset (R407). -/
  rappel : Bool
  /-- Topology record as at the last ready (Table 14.8). -/
  topoReady : Nat
  /-- Boot halt (R444). -/
  halt : Bool
  /-- A full panel reset that waits for its links to train: warm, and what it has found (Tables 12.1 and 12.2). -/
  booting : Option (Bool × BootObs)
  deriving DecidableEq, Repr

def PartSt.reset : PartSt :=
  { st := [], resets := [], waiting := [], owners := [], scrub := [], topo := none, rappel := false, topoReady := 0,
    halt := false, booting := none }

/-- A drill slot (R431, R432). -/
structure DrillSlot where
  rec_ : DrillRec
  /-- 1 armed; 2 window open; 3 ended (Table 13.15). -/
  st : Nat
  /-- Triggers left, and PRC of the next one. -/
  left : Nat
  next : Nat
  deriving DecidableEq, Repr

structure HealthSt where
  /-- The step's events are caused by a drill (R329). It is false between steps. -/
  causing : Bool
  /-- Cluster repair words where they differ from the word at manufacture, key cluster number (R25). -/
  repair : Assoc Nat
  repairGen : Nat
  /-- Position health records, Table 13.14, key physical core id. -/
  recs : Assoc Nat
  /-- PRC at which a position last became suspect (Table 13.8). -/
  suspectAt : Assoc Nat
  /-- Compared and unchecked tiles of a position in the present powered hour (R418). -/
  hourTiles : Assoc (Nat × Nat)
  /-- PRCs of the drops under reason ecc of a router (4 x site + q) in the last hour (Table 13.8). -/
  rtrEcc : Assoc (List Nat)
  /-- PRCs of the uncorrectable reads of a memory site in the last 24 hours (Table 13.8). -/
  hbmUnc : Assoc (List Nat)
  /-- Memory sites not trained at the last bring-up, retired, or lost (Table 12.3 item 4, R412, R428). -/
  lostSites : List Nat
  /-- Dies that do not answer, by R356: grid sites and link dies (Table 13.3, Table 12.3 item 1). -/
  lostDies : List Nat
  /-- Pending fleet action word (R428). -/
  action : Option Nat
  /-- Memory sites retired (Table 13.7, action 8). -/
  retired : List Nat
  /-- Key slot. -/
  drills : Assoc DrillSlot
  /-- PRC of the last drill on a region, key region (Table 12.9, pair 3 x 7). -/
  drillAt : Assoc Nat
  /-- Slot whose window is open, and PRC of its trigger. -/
  window : Option (Nat × Nat)
  /-- Slice that the open drill of kind 6 has isolated. -/
  slice : Option Nat
  /-- Positions that a drill of kind 3 has lost: each becomes its cluster's spare (Table 13.10). -/
  exchange : List Nat
  /-- PRC of the last write of a perturbation register, key 3 x die + register (R434). -/
  pertAt : Assoc Nat
  /-- Heartbeats missed in a row by a die, and heartbeats in a row that report a core as not answering (R426). -/
  missed : Assoc Nat
  silent : Assoc Nat
  /-- PRC of a die's last heartbeat (R425). -/
  beatAt : Assoc Nat
  /-- Progress counter of a core in a task as its last heartbeat carried it, with the PRC of its last change (R425). -/
  progress : Assoc (Nat × Nat)
  /-- Probes missed, key physical core id, and 16,384 + site for a transit domain (R426). -/
  probes : Assoc Nat
  /-- Liveness episodes open (R427): a core for kind 1, 8,192 + cell die for kind 2. -/
  episodes : List Nat
  deriving DecidableEq, Repr

def HealthSt.reset : HealthSt :=
  { causing := false, repair := [], repairGen := 0, recs := [], suspectAt := [], hourTiles := [], rtrEcc := [], hbmUnc := [], lostSites := [],
    lostDies := [], action := none, retired := [], drills := [], drillAt := [], window := none, slice := none,
    exchange := [], pertAt := [], missed := [], silent := [], beatAt := [], progress := [], probes := [], episodes := [] }

/-- A firmware bundle in a flash slot (Table 14.2). -/
structure Bundle where
  comp : Nat
  fwver : Nat
  svn : Nat
  ifmin : Nat
  ifmax : Nat
  adv : Bool
  /-- img_digest. -/
  digest : List Byte
  manifest : List Byte
  /-- The first of checks 1 to 5 of Table 14.3 that fails. -/
  bad : Option Nat
  deriving DecidableEq, Repr

/-- An open Cairn session (R461 to R468). -/
structure Session where
  sid : BitVec 16
  mac : BitVec 48
  level : Nat
  keyIn : List Byte
  keyOut : List Byte
  /-- Last seq accepted, with the tag and the response of that request; none before the first. -/
  last : Option (Nat × List Byte × List Byte)
  /-- PRC of the last request. -/
  at_ : Nat
  /-- PRCs of the bad tags of the last second. -/
  bad : List Nat
  cert : List Byte
  deriving DecidableEq, Repr

/-- A handshake that awaits finish (R461). -/
structure Handshake where
  sid : BitVec 16
  mac : BitVec 48
  level : Nat
  /-- The hello body followed by the hello-reply body up to the signature. -/
  script : List Byte
  keyIn : List Byte
  keyOut : List Byte
  cert : List Byte
  start : Nat
  deriving DecidableEq, Repr

/-- The service bus (R469 to R471). -/
structure BusSt where
  /-- The monitor holds the bus. -/
  taken : Bool
  /-- Requesters whose request waits for the monitor to release it (R471, BC_ARB.req). -/
  waiting : List Nat
  /-- PRC at which base-camp firmware was cut off (Table 14.12). -/
  fwCut : Nat
  /-- PRC at which the monitor took the bus (BC_ARB.held). -/
  since : Nat
  deriving DecidableEq, Repr

/-- The serial monitor (R473, R474). -/
structure MonSt where
  baud : Nat
  /-- PRC of the last command while unlocked. -/
  unlocked : Option Nat
  challenge : Option (List Byte)
  /-- PRCs of the refusals that count, and PRC until which unlock is locked. -/
  refused : List Nat
  lockedAt : Option Nat
  deriving DecidableEq, Repr

structure MgmtSt where
  log : List Ev
  logNext : Nat
  kept : List Ev
  keepNext : Nat
  /-- Records kept since the last cold boot (R490). -/
  keptBoot : Nat
  /-- Flash slots, key 2 x component index + slot; active marks, key component index. -/
  slots : Assoc Bundle
  active : Assoc Nat
  /-- Running bundles, key component index. -/
  running : Assoc Bundle
  floors : Assoc Nat
  /-- The ROM has started no base-camp firmware, with the cause (R442). -/
  romHalt : Option Nat
  /-- Licence records, key slot (R449). -/
  licences : Assoc (List Byte)
  /-- Variant licence and waivers in force (R450). -/
  variant : Option (List Byte)
  waivers : List (Nat × Nat × Nat)
  /-- Versions found of each revision and stack code, by pair code (R454). -/
  revisions : List (Nat × Nat)
  sessions : List Session
  shakes : List Handshake
  /-- Hellos of the last second, and failed handshakes of the last 60 s: MAC and PRC (Table 14.11). -/
  hellos : List (BitVec 48 × Nat)
  fails : List (BitVec 48 × Nat)
  blocked : List (BitVec 48 × Nat)
  /-- Staging: who opened it, component, bytes (R456, R457). -/
  stage : Option (Who × Nat × List Byte)
  /-- Hallmark report. -/
  report : List Byte
  /-- Step 4 of Table 12.1 has run: the identity is known (R446, R462). -/
  identified : Bool
  /-- HBM lane repairs found by the last PHY trainings (R458, Table 7.1). -/
  lanes : List Byte
  bus : BusSt
  mon : MonSt
  deriving DecidableEq, Repr

/-- An entry of a manifest that covers every version of a pair code (R453). -/
def pairEntry (code : Nat) : List Byte :=
  [BitVec.ofNat 8 code, 0, 0, 0, 0xFF, 0xFF, 0, 0, 0xFF, 0xFF, 0, 0, 0, 0, 0, 0]

/-- The bundle that a component leaves the factory with (log 17). -/
def Bundle.factory (k : Nat) : Bundle :=
  ⟨k + 1, 1, 0, 1, 1, false, List.replicate 48 0,
    if k = 0 then [1, 2, 3, 4, 5, 6, 7, 0x11, 0x12, 0x13, 0x14, 0x15, 0x16].flatMap pairEntry else [], none⟩

def MgmtSt.reset : MgmtSt :=
  { log := [], logNext := 0, kept := [], keepNext := 0, keptBoot := 0,
    slots := [(0, Bundle.factory 0), (2, Bundle.factory 1), (4, Bundle.factory 2), (6, Bundle.factory 3)], active := [],
    running := [], floors := [], romHalt := none, licences := [], variant := none, waivers := [], revisions := [],
    sessions := [], shakes := [], hellos := [], fails := [], blocked := [], stage := none, report := [], identified := false, lanes := [],
    bus := ⟨false, [], 0, 0⟩, mon := ⟨115200, none, none, [], none⟩ }

/-- Signals and bus of the tray (spec/16_tray.md). -/
structure TraySt where
  stbyOk : Bool
  menReq : Bool
  tripN : Bool
  /-- The trip latch; it powers up set (R498). -/
  latch : Bool
  /-- BC_STATE.trip_seen (Table 14.17). -/
  tripSeen : Bool
  /-- BC_I3C (Table 14.18). -/
  assigned : Bool
  seq : Nat
  errs : Nat
  valid : Bool
  /-- PRC at which seq last advanced, and since when each of outlet, flow and plate has been invalid (R502). -/
  seqAt : Nat
  outletBad : Option Nat
  flowBad : Option Nat
  plateBad : Option Nat
  deriving DecidableEq, Repr

def TraySt.reset : TraySt :=
  { stbyOk := true, menReq := false, tripN := true, latch := true, tripSeen := false, assigned := false, seq := 0,
    errs := 0, valid := false, seqAt := 0, outletBad := none, flowBad := none, plateBad := none }

/-- The panel. -/
structure State where
  pending : List Instr
  prc : Nat
  fresh : Nat
  out : List Out
  spm : Mem
  hbm : Mem
  sram : Mem
  dict : Assoc Nat
  cores : Assoc Core
  msites : Assoc MSite
  fab : Fab
  links : LinksSt
  host : HostSt
  clk : ClkSt
  pwr : PwrSt
  parts : PartSt
  health : HealthSt
  mgmt : MgmtSt
  tray : TraySt
  deriving DecidableEq, Repr

/-- The panel right after the standby rail appears (log 13). -/
def State.reset : State :=
  { pending := [], prc := 0, fresh := 0, out := [], spm := [], hbm := [], sram := [], dict := [], cores := [],
    msites := [], fab := Fab.reset, links := LinksSt.reset, host := HostSt.reset, clk := ClkSt.reset,
    pwr := PwrSt.reset, parts := PartSt.reset, health := HealthSt.reset, mgmt := MgmtSt.reset, tray := TraySt.reset }

/-- Why a step stops with a fault: it never does. Every command of the table has an effect that the spec gives. -/
inductive Fault where
  deriving DecidableEq, Repr

/-- Why a step is refused. -/
inductive Refusal where
  /-- A command that has no meaning yet; raised by its arm of Dispatch. Safe. -/
  | notModelled (mnemonic : String)
  deriving DecidableEq, Repr

end Sys2Proof.Machine
end

