-- ==== Sys2Proof/Machine/Table.lean ====
section
/-!
DEFINITION. Table.lean: sparse tables (Assoc) and byte memories (Mem) in one canonical form: keys strictly rising, and in
a memory no byte that equals what an unlisted address reads as, which is 0 (log 15).
-/
namespace Sys2Proof.Machine

/-- The entry of a key. -/
def aget {α : Type} (k : Nat) : Assoc α → Option α
  | [] => none
  | (i, x) :: t => if i = k then some x else aget k t

/-- The entry of a key, or a default. -/
def agetD {α : Type} (k : Nat) (d : α) (t : Assoc α) : α := (aget k t).getD d

/-- Put an entry, in rising order of keys. -/
def aput {α : Type} (k : Nat) (x : α) : Assoc α → Assoc α
  | [] => [(k, x)]
  | (i, y) :: t => if k < i then (k, x) :: (i, y) :: t else if k = i then (k, x) :: t else (i, y) :: aput k x t

/-- Remove the entry of a key. -/
def adel {α : Type} (k : Nat) : Assoc α → Assoc α
  | [] => []
  | (i, y) :: t => if i = k then t else (i, y) :: adel k t

/-- The entries of the keys of a range. -/
def adropRange {α : Type} (lo hi : Nat) (t : Assoc α) : Assoc α :=
  t.filter fun e => decide (e.1 < lo) || decide (hi ≤ e.1)

/-- What an unlisted byte of memory reads as (R179, R237, log 15). -/
def unlisted : Byte := 0

/-- The byte at an address. -/
def memGet (m : Mem) (a : Nat) : Byte := agetD a unlisted m

/-- A byte written to an address; writing what an unlisted address reads as removes the entry. -/
def memPut (m : Mem) (a : Nat) (b : Byte) : Mem := if b = unlisted then adel a m else aput a b m

/-- The bytes from an address. -/
def memRead (m : Mem) (a : Nat) : Nat → List Byte
  | 0 => []
  | n + 1 => memGet m a :: memRead m (a + 1) n

/-- Bytes written from an address upward. -/
def memWrite (m : Mem) (a : Nat) : List Byte → Mem
  | [] => m
  | b :: bs => memWrite (memPut m a b) (a + 1) bs

/-- Every byte of a range reads zero: a scrub or a fill (R179, R237). -/
def memZero (m : Mem) (a n : Nat) : Mem := adropRange a (a + n) m

/-- Keys strictly rising. -/
def keysRise {α : Type} : Assoc α → Bool
  | [] => true
  | [_] => true
  | (i, _) :: (j, y) :: t => decide (i < j) && keysRise ((j, y) :: t)

/-- The canonical form of a memory. -/
def Memory.wf (m : Mem) : Bool := keysRise m && m.all fun e => e.2 != unlisted

/-- Replace the first element that satisfies p. -/
def replaceFirst {α : Type} (p : α → Bool) (f : α → α) : List α → List α
  | [] => []
  | x :: xs => if p x then f x :: xs else x :: replaceFirst p f xs

/-- Remove the first element that satisfies p. -/
def dropFirst {α : Type} (p : α → Bool) : List α → List α
  | [] => []
  | x :: xs => if p x then xs else x :: dropFirst p xs

/-- The least natural number below n that is not in a list of numbers; n when all are. -/
def leastFree (used : List Nat) : Nat → Nat → Nat
  | 0, k => k
  | n + 1, k => if used.contains k then leastFree used n (k + 1) else k

end Sys2Proof.Machine
end

