-- ==== Sys2Proof/Machine/Ops.lean ====
section
/-!
DEFINITION. Ops.lean: the named operations over the state: the dictionary's stored values, events and event rings,
partitions and repair map, the cores' registers, their scratchpads and the stop of a task.
-/
namespace Sys2Proof.Machine

open Sys2Proof

/-! ## Stored values of the dictionary -/

/-- Stored value of an entry, or its default (R481). -/
def dget (s : State) (index sub : Nat) : Nat :=
  match aget (cairnSlot index sub) s.dict with
  | some v => v
  | none => cairnDefault index sub

/-- Store a value in an entry. -/
def dset (s : State) (index sub v : Nat) : State := { s with dict := aput (cairnSlot index sub) v s.dict }

/-- A field [hi:lo] replaced in a number. -/
def setBits (n hi lo v : Nat) : Nat :=
  n - bits n hi lo * 2 ^ lo + v % 2 ^ (hi + 1 - lo) * 2 ^ lo

/-- A counter field [hi:lo] of an entry counts one and saturates (R234). -/
def dbump (s : State) (index sub hi lo : Nat) : State :=
  let v := dget s index sub
  let f := bits v hi lo
  if f + 1 < 2 ^ (hi + 1 - lo) then dset s index sub (setBits v hi lo (f + 1)) else s

/-- PRC ticks of a number of microseconds: 6.4 ns each (R338). -/
def usTicks (us : Nat) : Nat := us * 625 / 4

/-- Microseconds of a number of ticks, rounded down. -/
def ticksUs (t : Nat) : Nat := t * 4 / 625

/-- The PRC as software reads it: 64 bits (R340). -/
def prcWord (s : State) : Word := BitVec.ofNat 64 s.prc

/-- PRC that a die counts: that of the base-camp die but for the skew last found since its alignment (R340, R342). -/
def diePrc (s : State) (d : Nat) : Word := BitVec.ofInt 64 (s.prc + agetD d 0 s.clk.skew)

/-- A requester of the service bus waits while the monitor holds it (R471, Table 14.12). -/
def waitBus (s : State) (n : Nat) : State :=
  { s with mgmt := { s.mgmt with bus := { s.mgmt.bus with waiting := n :: s.mgmt.bus.waiting.filter fun x => x != n } } }

/-- Base-camp firmware runs. -/
def firmwareUp (s : State) : Bool := (aget 0 s.mgmt.running).isSome

/-! ## Events -/

/-- A payload field: v at bits from lo, of w bits (Table 9.13). -/
def pf (lo w v : Nat) : BitVec 128 := BitVec.ofNat 128 (v % 2 ^ w * 2 ^ lo)

/-- Bytes of an event record (Table 9.11). -/
def evBytes (e : Ev) (pidx : Nat) : List Byte :=
  leBytes 2 e.code ++ leBytes 1 (1 + (if e.drill then 16 else 0)) ++ leBytes 1 e.part ++ leBytes 4 pidx
    ++ leBytes 8 e.prc ++ leBytes 16 e.payload.toNat

/-- Codes that enter the kept log (Table 15.8). -/
def keptCodes : List Nat :=
  [0x0403, 0x0502, 0x0603, 0x0606, 0x0703, 0x0704, 0x0706, 0x070D, 0x070F, 0x0807, 0x0901, 0x0902, 0x0905, 0x0907,
   0x0908, 0x0A01, 0x0A02, 0x0A03, 0x0A04, 0x0A05, 0x0A0E]

/-- The last n elements of a list. -/
def lastN {α : Type} (n : Nat) (l : List α) : List α := (l.reverse.take n).reverse

/-- Fewer than 16 records kept since the last cold boot lie in the second before a PRC (R490). -/
def keepRoom (s : State) (prc : Nat) : Bool :=
  decide (((lastN (min 16 s.mgmt.keptBoot) s.mgmt.kept).filter fun e => decide (prc < e.prc + 156250000)).length < 16)

/-- An event enters the event log, and the kept log when Table 15.8 lists it (R489, R490). -/
def logEv (s : State) (e : Ev) : State :=
  let s := { s with mgmt := { s.mgmt with log := lastN 4096 (s.mgmt.log ++ [e]), logNext := s.mgmt.logNext + 1 } }
  if keptCodes.contains e.code && !e.drill then
    if keepRoom s e.prc then
      { s with mgmt := { s.mgmt with kept := lastN 256 (s.mgmt.kept ++ [e]), keepNext := s.mgmt.keepNext + 1,
                                     keptBoot := s.mgmt.keptBoot + 1 } }
    else dbump s 0x9000 6 31 0
  else s

/-- Event ring r. -/
def ering (s : State) (r : Nat) : ERing := agetD r ERing.reset s.host.erings

def setEring (s : State) (r : Nat) (e : ERing) : State :=
  { s with host := { s.host with erings := aput r e s.host.erings } }

/-- Command ring r. -/
def cring (s : State) (r : Nat) : CRing := agetD r CRing.reset s.host.crings

def setCring (s : State) (r : Nat) (c : CRing) : State :=
  { s with host := { s.host with crings := aput r c s.host.crings } }

/-- Put something on a port. -/
def emit (s : State) (o : Out) : State := { s with out := s.out ++ [o] }

/-- Slots of an event ring (R325). -/
def eringSize (s : State) (r : Nat) : Nat := 2 ^ dget s (0x6900 + r) 5

/-- Records written and not consumed. -/
def eringUsed (s : State) (r : Nat) : Nat := ((ering s r).prod - (ering s r).cons).toNat

/-- Add an outbound operation to a QP's list. -/
def qpPush (s : State) (h : Nat) (qpn : BitVec 24) (o : OutOp) : State :=
  { s with host := { s.host with
      qps := replaceFirst (fun q => q.host == h && q.qpn == qpn) (fun q => { q with outs := q.outs ++ [o] }) s.host.qps } }

/-- Send record i of an event ring: RDMA WRITE at va + 32 x (i mod size) (R325, R326). -/
def eringSend (s : State) (r : Nat) (i : Word) (e : Ev) : State :=
  let base := 0x6900 + r
  let qpn := BitVec.ofNat 24 (dget s base 2)
  let va := BitVec.ofNat 64 (dget s base 3 + 32 * (i.toNat % eringSize s r))
  let imm := dget s base 6
  let withImm := imm == 1 || (imm == 2 && e.code == 1)
  let pkt : Out := .rdmaWrite (r / 64) qpn va (BitVec.ofNat 32 (dget s base 4)) (evBytes e (i.toNat % 2 ^ 32))
    (if withImm then some (BitVec.ofNat 32 (i.toNat % 2 ^ 32)) else none)
  qpPush (emit s pkt) (r / 64) qpn ⟨.event r i e, pkt, s.prc⟩

/-- Write one record to an event ring that has space: prod one higher (R325). -/
def eringWrite (s : State) (r : Nat) (e : Ev) : State :=
  setEring (eringSend s r (ering s r).prod e) r { ering s r with prod := (ering s r).prod + 1 }

/-- The ring runs and holds free space (R325). -/
def eringOpen (s : State) (r : Nat) : Bool :=
  (ering s r).state == 1 && decide (eringUsed s r < eringSize s r)

/-- Places for records: free space of the ring while it runs, and of its overflow queue of 256 (R321). -/
def eringPlaces (s : State) (r : Nat) : Nat :=
  (if (ering s r).state = 1 then eringSize s r - eringUsed s r else 0) + (256 - (ering s r).ovq.length)

/-- Places reserved for the completions of commands that have started (R321). -/
def eringReserved (s : State) (r : Nat) : Nat :=
  (s.host.cmds.filter fun c => (c.st == .started || c.st == .committed) && dget s (0x6880 + c.ring) 4 == r).length

/-- Put a record: into the ring when it has space and nothing waits before it, else into the overflow queue. -/
def eringPut (s : State) (r : Nat) (e : Ev) : State :=
  if eringOpen s r && (ering s r).ovq.isEmpty then eringWrite s r e
  else setEring s r { ering s r with ovq := (ering s r).ovq ++ [e] }

/-- The record that tells of dropped events (R327, Table 9.13). -/
def lossEv (s : State) (part first n : Nat) : Ev :=
  ⟨0x0011, false, part, s.prc, pf 0 32 n ||| pf 32 16 first⟩

/-- Write queued records while there is space, then the event-loss record, which the event log takes too (R327, R328). -/
def eringFlush : Nat → State → Nat → State
  | 0, s, _ => s
  | n + 1, s, r =>
    if eringOpen s r then
      match (ering s r).ovq with
      | e :: es => eringFlush n (eringWrite (setEring s r { ering s r with ovq := es }) r e) r
      | [] =>
        match (ering s r).firstLost with
        | some (first, k) =>
          let e := lossEv s (dget s (0x6900 + r) 1) first k
          eringWrite (setEring (logEv s e) r { ering s r with firstLost := none }) r e
        | none => s
    else s

/-- An asynchronous event reaches an event ring, or is dropped and counted (R321, R327). -/
def eringAsync (s : State) (r : Nat) (e : Ev) : State :=
  if eringReserved s r < eringPlaces s r then eringPut s r e
  else
    let er := ering s r
    setEring s r { er with lost := min (er.lost + 1) (2 ^ 32 - 1),
                           firstLost := some (match er.firstLost with
                             | some (f, k) => (f, k + 1)
                             | none => (e.code, 1)) }

/-- The event ring receives an event of a partition: the partition's asynchronous ring, or for panel-wide events every
ring whose panel bit is set (R327). -/
def eringTakes (s : State) (r part : Nat) : Bool :=
  decide ((ering s r).state ≠ 0) &&
    (if part = 0xFF then dget s (0x6900 + r) 8 == 1
     else dget s (0x6900 + r) 7 == 1 && dget s (0x6900 + r) 1 == part)

/-- Raise an event: into the log, and to the event rings that receive it (R327, R489). -/
def raiseEv (s : State) (e : Ev) : State :=
  (s.host.erings.map (·.1)).foldl (fun t r => if eringTakes t r e.part then eringAsync t r e else t) (logEv s e)

/-- Raise an event that a drill may have caused (R329, R433). -/
def raiseD (s : State) (drill : Bool) (code part : Nat) (payload : BitVec 128) : State :=
  raiseEv s ⟨code, drill || s.health.causing, part, s.prc, payload⟩

/-- Raise an event of a code now. -/
def raise (s : State) (code part : Nat) (payload : BitVec 128) : State := raiseD s false code part payload

/-- What a drill causes: every event of it has its drill bit set (R329). -/
def blamed (drill : Bool) (s : State) (act : State → State) : State :=
  if drill then
    let t := act { s with health := { s.health with causing := true } }
    { t with health := { t.health with causing := false } }
  else act s

/-- Space of a panel address (R7). -/
def spaceOf (a : Word) : Nat := bits a.toNat 63 60

/-- A reserved address space (R7). -/
def reservedSpace (sp : Nat) : Bool := !([0x0, 0x1, 0x2, 0x3, 0x4, 0x6, 0x8, 0xC] : List Nat).contains sp

/-- The address-error event of a requester's access (R7, R149, Table 9.13). -/
def addressErrorEv (s : State) (ep part : Nat) (a : Word) : State := raise s 0x0014 part (pf 0 16 ep ||| pf 64 64 a.toNat)

/-- An access to a reserved space raises the address-error event (R7). -/
def reservedAccess (s : State) (ep part : Nat) (a : Word) : State :=
  if reservedSpace (spaceOf a) then addressErrorEv s ep part a else s

/-! ## Drills -/

/-- The drill whose window is open. -/
def openDrill (s : State) : Option (Nat × DrillSlot) :=
  match s.health.window with
  | some (k, _) => (aget k s.health.drills).map fun d => (k, d)
  | none => none

/-- The open window is that of a drill of a kind on a target (Table 13.10). -/
def drillWith (s : State) (kind target : Nat) : Bool :=
  match openDrill s with
  | some (_, d) => d.rec_.kind.toNat == kind && d.rec_.target.toNat == target
  | none => false

/-- Partition field of a drill's own events. -/
def drillPart (d : DrillSlot) : Nat := if d.rec_.part = 0xF then 0xFF else d.rec_.part.toNat

/-- Region that a drill acts on, where its kind names one (Table 13.10). -/
def drillRegion (r : DrillRec) : Option Nat :=
  let t := r.target.toNat
  match r.kind.toNat with
  | 1 => some (t / 32)
  | 2 => some (t / 32)
  | 3 => some (t / 32)
  | 4 => some (t % 2 ^ 13 / 16)
  | 6 => some (2 * dieOfSite (t % 512) + t / 512 % 2)
  | _ => none

/-- Slack samples of the drilled region are not counted for a second from now (Table 12.9, pair 3 x 7). -/
def markDrill (s : State) (r : DrillRec) : State :=
  match drillRegion r with
  | some n => { s with health := { s.health with drillAt := aput n s.prc s.health.drillAt } }
  | none => s

/-- A trigger of a slot has ended: the window closes, the slot waits for its next trigger or ends, and drill-end carries the
result: 0 done, 1 skipped with its cause (R432, Table 13.13). -/
def endDrill (s : State) (slot result cause : Nat) : State :=
  match aget slot s.health.drills with
  | some d =>
    let d' : DrillSlot := { d with st := if d.left = 0 then 3 else 1 }
    let w := match s.health.window with
      | some (k, t) => if k = slot then none else some (k, t)
      | none => none
    let s := markDrill s d.rec_
    raiseD { s with health := { s.health with drills := aput slot d' s.health.drills, window := w } } true 0x090A
      (drillPart d) (pf 0 3 slot ||| pf 8 4 result ||| pf 12 4 cause)
  | none => s

/-- The drilled condition has occurred. -/
def drillOver (s : State) : State :=
  match s.health.window with
  | some (k, _) => endDrill s k 0 0
  | none => s

/-! ## Partitions and the repair map -/

/-- State of a partition (Table 12.5). -/
def partSt (s : State) (p : Nat) : Nat := agetD p 0 s.parts.st

/-- The rectangle of a partition has been written (R397). -/
def hasRect (s : State) (p : Nat) : Bool := (aget (cairnSlot (0x6100 + p) 2) s.dict).isSome

/-- A place lies in the rectangle of a partition (R397). -/
def inRect (s : State) (p : Nat) (col row : Nat) : Bool :=
  let r := dget s (0x6100 + p) 2
  hasRect s p && decide (bits r 7 0 ≤ col) && decide (col ≤ bits r 23 16) && decide (bits r 15 8 ≤ row) && decide (row ≤ bits r 31 24)

/-- Partition that a cell die belongs to, 0xFF for none. -/
def partOfDie (s : State) (d : Nat) : Nat :=
  let site := siteOfDie d
  match s.parts.st.find? fun e => e.2 != 0 && inRect s e.1 (siteCol site) (siteRow site) with
  | some e => e.1
  | none => 0xFF

/-- Partition of a logical core. -/
def partOfCore (s : State) (c : Nat) : Nat := partOfDie s (dieOfCore c)

/-- Owner of a memory site (R236). -/
def ownerOfSite (s : State) (m : Nat) : Nat := dget s (0xA100 + m) 3

/-- Sites of a partition in rising order (R242). -/
def sitesOf (s : State) (p : Nat) : List Nat := (List.range 16).filter fun m => ownerOfSite s m == p

/-- Partition of an endpoint (R216): 0xFF for none. -/
def partOfEp (s : State) (e : Nat) : Nat :=
  match epKind e with
  | .core c => partOfCore s c
  | .mem m => ownerOfSite s m
  | _ => 0xFF

/-- Cluster repair word at manufacture (R25). -/
def factoryRepair : Nat := 0x876543210 + 2 ^ 36

/-- Cluster repair word of cluster k (R25). -/
def repairWord (s : State) (k : Nat) : Nat := agetD k factoryRepair s.health.repair

/-- Position that serves a logical core; 15 for a hole (R23, R25). -/
def posOfCore (s : State) (c : Nat) : Nat := repairWord s (c / 8) / 16 ^ (c % 8) % 16

/-- The logical core is a hole, or lies on a die that does not answer (Table 12.3 item 1). -/
def isHole (s : State) (c : Nat) : Bool := posOfCore s c == 15 || s.health.lostDies.contains (siteOfDie (dieOfCore c))

/-- Physical core id: die, region, cluster, position (R20). -/
def pcidOf (s : State) (c : Nat) : Nat := c / 8 * 16 + posOfCore s c

/-- Logical core that a physical position serves, or none. -/
def coreOfPcid (s : State) (p : Nat) : Option Nat :=
  ((List.range 8).find? fun k => repairWord s (p / 16) / 16 ^ k % 16 == p % 16).map fun k => p / 16 * 8 + k

/-- Host ports up, a bit each (Table 12.4). -/
def portBits (s : State) : Nat := (List.range 4).foldl (fun n p => n + dget s (0x6810 + p) 2 % 2 * 2 ^ p) 0

/-- The topology record is updated with a link state, a fence or a hole: its PRC, the ports that are up by then, and its
generation count (R27, R396). -/
def touchTopo (s : State) : State :=
  match s.parts.topo with
  | some t =>
    { dset s 0x6010 1 ((dget s 0x6010 1 + 2) % 2 ^ 32) with
      parts := { s.parts with topo := some { t with prc := s.prc, ports := portBits s } } }
  | none => s

/-! ## Cores -/

/-- A core. -/
def core (s : State) (c : Nat) : Core := agetD c Core.reset s.cores

def setCore (s : State) (c : Nat) (k : Core) : State := { s with cores := aput c k s.cores }

/-- Change a core. -/
def modCore (s : State) (c : Nat) (f : Core → Core) : State := setCore s c (f (core s c))

/-- Scalar register n; s0 reads as zero (R67). -/
def Core.sreg (k : Core) (n : Nat) : Word := if n = 0 then 0 else agetD n 0 k.sregs

/-- Write scalar register n; a write to s0 is discarded (R67). -/
def Core.setSreg (k : Core) (n : Nat) (v : Word) : Core :=
  if n = 0 then k else { k with sregs := aput n v k.sregs }

/-- Event counter n (R96). -/
def Core.ev (k : Core) (n : Nat) : BitVec 32 := agetD n 0 k.evc

def Core.setEv (k : Core) (n : Nat) (v : BitVec 32) : Core := { k with evc := aput n v k.evc }

/-- A counter gains one (R93, R97). -/
def Core.bumpEv (k : Core) (n : Nat) : Core := k.setEv n (k.ev n + 1)

/-- The payload fields of every core event: lcid and pos (Table 9.13). -/
def coreField (s : State) (c : Nat) : BitVec 128 := pf 0 13 c ||| pf 13 4 (posOfCore s c)

/-- Raise a core event. -/
def raiseCore (s : State) (c code : Nat) (payload : BitVec 128) : State :=
  raise s code (partOfCore s c) (coreField s c ||| payload)

/-- Raise a core event that a drill may have caused. -/
def raiseCoreD (s : State) (drill : Bool) (c code : Nat) (payload : BitVec 128) : State :=
  raiseD s drill code (partOfCore s c) (coreField s c ||| payload)

/-- Units of CORE_FAULT (Table 3.17). -/
def uSeq : Nat := 0
def uMat : Nat := 1
def uVec : Nat := 2
def uMov : Nat := 3
def uSyn : Nat := 4

/-- CORE_FAULT (Table 3.17). -/
def faultWord (status unit chan pc : Nat) : Word :=
  BitVec.ofNat 64 (status % 16 + unit % 16 * 16 + chan % 8 * 256 + pc % 2 ^ 20 * 2048)

/-- What of a hold outlasts a stop: a panel load or store that has been sent finishes while the core drains (R106, R107). -/
def Hold.afterStop : Hold → Hold
  | .access rd pc => .access rd pc
  | _ => .none

/-- A fault of a task: the first one decides the status, CORE_FAULT and CORE_FAULT_PRC, and the core drains (R106),
its gatherer with it (R160). -/
def faultStop (s : State) (c status unit chan pc : Nat) : State :=
  let k := core s c
  if k.st = .run ∨ k.st = .drain then
    let k := if k.fault = 0 then { k with fault := faultWord status unit chan pc, faultPrc := (diePrc s (siteOfDie (dieOfCore c))).toNat } else k
    setCore s c { k with st := .drain, status := some (k.status.getD status), hold := k.hold.afterStop, gath := [] }
  else s

/-- A stop that is no fault: task stop, partition stop (R101, R107). -/
def plainStop (k : Core) (status : Nat) : Core :=
  { k with st := .drain, status := some (k.status.getD status), hold := k.hold.afterStop, gath := [] }

/-! ## Scratchpad -/

/-- Scratchpad bytes (R154). -/
def spmSize : Nat := 0xC0000

/-- Place of a scratchpad byte in State.spm. -/
def spmKey (c off : Nat) : Nat := c * 2 ^ 20 + off

/-- Read n bytes of a scratchpad; readers see the gatherer's bytes, which are held in the bank's place (R161, log 7). -/
def spmRead (s : State) (c off n : Nat) : List Byte := memRead s.spm (spmKey c off) n

/-- Mask of bytes lo to lo + n - 1 of a line. -/
def lineMask (lo n : Nat) : BitVec 64 := BitVec.ofNat 64 ((2 ^ n - 1) * 2 ^ lo)

/-- A narrow write enters the gatherer (R158, R159): it merges into the entry of its line, or takes one, the earliest
draining first when all eight are in use; a complete entry drains (R160). -/
def Core.gather (k : Core) (line : Nat) (mask : BitVec 64) : Core :=
  if k.gath.any fun e => e.line == line then
    let g := k.gath.map fun e => if e.line == line then { e with mask := e.mask ||| mask } else e
    { k with gath := g.filter fun e => e.mask != BitVec.allOnes 64, merged := k.merged + 1 }
  else
    let g := if k.gath.length ≥ 8 then k.gath.drop 1 else k.gath
    { k with gath := g ++ [⟨line, mask⟩] }

/-- A write that does not enter the gatherer drains the entries of its lines first (R160). -/
def Core.drainLines (k : Core) (off n : Nat) : Core :=
  { k with gath := k.gath.filter fun e => decide (e.line < off / 64) || decide ((off + n - 1) / 64 < e.line) }

/-- Bytes written to a scratchpad by a client; narrow writes of 1 to 16 bytes in one line enter the gatherer when the
client is the sequencer, the vector unit's narrow stores or the network (R158). -/
def spmWrite (s : State) (c off : Nat) (bs : List Byte) (narrow : Bool) : State :=
  if bs.isEmpty then s
  else
    let s := { s with spm := memWrite s.spm (spmKey c off) bs }
    if narrow && decide (bs.length ≤ 16) && off / 64 == (off + bs.length - 1) / 64 then
      modCore s c fun k => k.gather (off / 64) (lineMask (off % 64) bs.length)
    else modCore s c fun k => k.drainLines off bs.length

/-- Addresses of byte positions of a local operand (R167). -/
def Loc.addr (l : Loc) (i : Nat) : Nat := if l.size = 0 then l.start + i else l.base + (l.start + i) % l.size

/-- The pieces of n positions from i that are contiguous in scratchpad: at most two for a ring (R167). -/
def Loc.runs (l : Loc) (i n : Nat) : List (Nat × Nat) :=
  if n = 0 then []
  else if l.size = 0 then [(l.start + i, n)]
  else
    let p := (l.start + i) % l.size
    if p + n ≤ l.size then [(l.base + p, n)] else [(l.base + p, l.size - p), (l.base, n - (l.size - p))]

/-- Read positions of a local operand. -/
def locRead (s : State) (c : Nat) (l : Loc) (i n : Nat) : List Byte :=
  (l.runs i n).flatMap fun r => spmRead s c r.1 r.2

/-- Write runs of scratchpad in turn. -/
def writeRuns (narrow : Bool) : State → Nat → List (Nat × Nat) → List Byte → State
  | s, _, [], _ => s
  | s, c, (a, n) :: rs, bs => writeRuns narrow (spmWrite s c a (bs.take n) narrow) c rs (bs.drop n)

/-- Write positions of a local operand. -/
def locWrite (s : State) (c : Nat) (l : Loc) (i : Nat) (bs : List Byte) (narrow : Bool) : State :=
  writeRuns narrow s c (l.runs i bs.length) bs

/-- Rings. -/
def Core.ring (k : Core) (n : Nat) : Ring := agetD n Ring.off k.rings

def Core.setRing (k : Core) (n : Nat) (r : Ring) : Core := { k with rings := aput n r k.rings }

/-- Bytes from position a to position b, each an offset with its lap bit (R165): equal offsets are empty or full by the lap
bits, others lie as far apart as the offsets do around the ring. -/
def Ring.dist (r : Ring) (a b : Nat) : Nat :=
  if a % r.size = b % r.size then (if a = b then 0 else r.size) else (b + 2 * r.size - a) % r.size

/-- Occupancy by the published pointers (R165). -/
def Ring.used (r : Ring) : Nat := r.dist r.head r.tail

def Ring.free (r : Ring) : Nat := r.size - r.used

/-- A position moved on (R168). -/
def Ring.adv (r : Ring) (p n : Nat) : Nat := (p + n) % (2 * r.size)

/-- Raise a ring event (Table 9.13, 0x0200 range). -/
def raiseRing (s : State) (c n code : Nat) (payload : BitVec 128) : State :=
  raise s code (partOfCore s c) (pf 0 13 c ||| pf 13 4 n ||| payload)

/-- A core that is lost, dark or fenced has no architectural state (Table 3.4). -/
def coreGated (s : State) (c : Nat) : Bool := (core s c).st == .gated || isHole s c

end Sys2Proof.Machine
end

