-- ==== Sys2Proof/Machine/Manifest.lean ====
section
/-!
DEFINITION. Manifest.lean: the compatibility manifest (R453, Table 14.7) and the versions of the running firmware.
-/
namespace Sys2Proof.Machine

open Sys2Proof

/-- Bundle that runs for a component index. -/
def runningOf (s : State) (k : Nat) : Option Bundle := aget k s.mgmt.running

/-- Version of the running firmware of a component index; 0 while none runs. -/
def fwVer (s : State) (k : Nat) : Nat := match runningOf s k with
  | some b => b.fwver
  | none => 0

/-- A 16-byte manifest entry covers two versions of a pair code (R453). -/
def coversPair (e : List Byte) (code v1 v2 : Nat) : Bool :=
  let f (lo : Nat) : Nat := leNat ((e.drop lo).take 2)
  leNat (e.take 1) == code && decide (f 2 ≤ v1) && decide (v1 ≤ f 4) && decide (f 6 ≤ v2) && decide (v2 ≤ f 8)

/-- Entries of a manifest. -/
def manifestEntries (m : List Byte) : List (List Byte) :=
  (List.range (m.length / 16)).map fun i => (m.drop (16 * i)).take 16

/-- A pair is listed: one entry of a running manifest covers both versions, or a waiver in force names them (R450, R453). -/
def pairListed (s : State) (code v1 v2 : Nat) : Bool :=
  (s.mgmt.running.any fun b => (manifestEntries b.2.manifest).any fun e => coversPair e code v1 v2)
    || s.mgmt.waivers.contains (code, v1, v2)

/-! ## The variant in force (R448, R451, Tables 14.5 and 14.6) -/

/-- Field [hi:lo] of a licence's body. -/
def licBody (l : List Byte) (hi lo : Nat) : Nat := bits (leNat l) (160 + hi) (160 + lo)

/-- A field of the variant licence in force, or its value for variant 0. -/
def varField (s : State) (hi lo dflt : Nat) : Nat := match s.mgmt.variant with
  | some l => licBody l hi lo
  | none => dflt

def variantNo (s : State) : Nat := varField s 15 0 0
def coreFloor (s : State) : Nat := varField s 28 16 0
def siteFloor (s : State) : Nat := varField s 33 29 0
def shapeMax (s : State) : Nat := varField s 35 34 0
def panelsMax (s : State) : Nat := varField s 48 36 1
def stepMax (s : State) : Nat := varField s 52 49 15
def rappelOk (s : State) : Bool := varField s 53 53 0 == 1
def partsMax (s : State) : Nat := varField s 58 54 16

end Sys2Proof.Machine
end

