-- ==== Sys2Proof/Machine/Bundles.lean ====
section
/-!
DEFINITION. Bundles.lean: firmware bundles (R439, R440, Tables 14.2 and 14.3), their flash slots and active marks (R441), the
rollback floors (R445) and the licences in force (R450).
-/
namespace Sys2Proof.Machine

open Sys2Proof

/-- Bytes of a bundle's header (R439). -/
def headerLen : Nat := 512

/-- A bundle as its bytes give it, with the first of checks 1 to 5 of Table 14.3 that fails (R440). A base-camp bundle whose
licence key the ROM does not know fails check 2 (R448). comp is the component expected. -/
def parseBundle (bs : List Byte) (comp : Nat) : Bundle :=
  let h := bs.take headerLen
  let f (lo n : Nat) : Nat := leNat ((h.drop lo).take n)
  let img := (bs.drop headerLen).take (f 8 4)
  let man := (bs.drop (headerLen + f 8 4)).take (f 12 4)
  let key := (h.drop 112).take 97
  let dig := (h.drop 16).take 48
  let bad : Option Nat :=
    if f 0 1 % 16 ≠ 1 ∨ f 0 1 / 16 ≠ comp then some 1
    else if Config.sha384 key ≠ Config.rootKey 0 then some 2
    else if comp = 1 ∧ Config.sha384 (Config.fwLicenceKey dig) ≠ Config.rootKey 1 then some 2
    else if Config.ecdsaVerify key (h.take 209) ((h.drop 209).take 96) = false then some 3
    else if Config.sha384 img ≠ dig ∨ img.length ≠ f 8 4 then some 4
    else if Config.sha384 man ≠ (h.drop 64).take 48 ∨ man.length ≠ f 12 4 ∨ f 12 4 % 16 ≠ 0 then some 5
    else none
  { comp := f 0 1 / 16, fwver := f 2 2, svn := f 4 2, ifmin := f 6 1 % 16, ifmax := f 6 1 / 16, adv := f 7 1 % 2 == 1,
    digest := dig, manifest := man, bad := bad }

/-- Floor of a component index (R445). -/
def floorOf (s : State) (k : Nat) : Nat := agetD k 0 s.mgmt.floors

/-- Interface ranges of a bundle and of the running base-camp firmware overlap. -/
def ifOverlap (s : State) (b : Bundle) : Bool := match runningOf s 0 with
  | some c => decide (b.ifmin ≤ c.ifmax) && decide (c.ifmin ≤ b.ifmax)
  | none => false

/-- The first failing check of Table 14.3; under R442 check 7 is skipped. -/
def checkBundle (s : State) (k : Nat) (b : Bundle) : Option Nat :=
  match b.bad with
  | some n => some n
  | none =>
    if b.svn < floorOf s k then some 6
    else if k ≠ 0 ∧ s.mgmt.romHalt = none ∧ ifOverlap s b = false then some 7
    else none

/-- Active slot of a component index: 0 A, 1 B. -/
def activeSlot (s : State) (k : Nat) : Nat := agetD k 0 s.mgmt.active

/-- First failing check of the bundle in a slot; an empty slot fails the first. -/
def slotFault (s : State) (k slot : Nat) : Option Nat := match aget (2 * k + slot) s.mgmt.slots with
  | some b => checkBundle s k b
  | none => some 1

/-- Run the bundle of a slot. -/
def runSlot (s : State) (k slot : Nat) : State := match aget (2 * k + slot) s.mgmt.slots with
  | some b => { s with mgmt := { s.mgmt with running := aput k b s.mgmt.running, active := aput k slot s.mgmt.active } }
  | none => s

/-- The fw-fallback event (Table 14.14). -/
def fallbackEv (s : State) (k slot : Nat) : State := raise s 0x0A02 0xFF (pf 0 4 (k + 1) ||| pf 4 1 slot)

/-- The fw-verify-fail event. -/
def verifyEv (s : State) (k slot check : Nat) : State :=
  raise s 0x0A01 0xFF (pf 0 4 (k + 1) ||| pf 4 1 slot ||| pf 8 4 check)

/-- Boot halt (R444): the panel state stays 0. -/
def bootHalt (s : State) : State := { dset s 0x6000 1 0 with parts := { s.parts with halt := true, booting := none } }

/-- Base-camp firmware loads a component of the dies, falling back to the other slot; boot halt when both fail (R443). -/
def loadComp (s : State) (k : Nat) : State :=
  let a := activeSlot s k
  let b := 1 - a
  match slotFault s k a with
  | none => runSlot s k a
  | some n =>
    let s := verifyEv s k a n
    match slotFault s k b with
    | none => fallbackEv (runSlot s k b) k b
    | some m => bootHalt (verifyEv s k b m)

/-! ## Floors -/

/-- At ready, floors rise to the svn of running components with adv set (R445). -/
def raiseFloors (s : State) : State :=
  (List.range 4).foldl (fun t k => match runningOf t k with
    | some b =>
      if b.adv && decide (floorOf t k < b.svn) then
        raise { t with mgmt := { t.mgmt with floors := aput k b.svn t.mgmt.floors } } 0x0A03 0xFF
          (pf 0 4 (k + 1) ||| pf 16 16 b.svn)
      else t
    | none => t) s

/-! ## Licences -/

/-- Kind and sequence of a licence (Table 14.5). -/
def licKind (l : List Byte) : Nat := bits (leNat l) 7 4
def licSeq (l : List Byte) : Nat := bits (leNat l) 31 16

/-- Pair code and versions of a waiver (Table 14.6). -/
def waiverOf (l : List Byte) : Nat × Nat × Nat := (licBody l 7 0, licBody l 31 16, licBody l 47 32)

/-- The installed licence of a kind with the highest sequence. -/
def newestLic (s : State) (kind : Nat) : Option (List Byte) :=
  s.mgmt.licences.foldl (fun best e =>
    if licKind e.2 = kind then
      match best with
      | some b => if licSeq b < licSeq e.2 then some e.2 else some b
      | none => some e.2
    else best) none

/-- Variant and waiver licences take effect at a full panel reset (R450). -/
def takeLicences (s : State) : State :=
  { s with mgmt := { s.mgmt with
      variant := newestLic s 1,
      waivers := (s.mgmt.licences.filter fun e => licKind e.2 == 2).map fun e => waiverOf e.2 } }

end Sys2Proof.Machine
end

