-- ==== Sys2Proof/Machine/Complete.lean ====
section
/-!
DEFINITION. Complete.lean: completion of commands (R322 to R324, R330, R331) and the host die's account of the tokens of
a launch (R108).
-/
namespace Sys2Proof.Machine

open Sys2Proof

/-- Field [hi:lo] of a 64-byte record. -/
def recField (r : List Byte) (hi lo : Nat) : Nat := bits (leNat r) hi lo

/-- The op and the cmd_id of a command record (Table 9.6). -/
def cmdOp (r : List Byte) : Nat := recField r 7 0
def cmdId (r : List Byte) : Nat := recField r 63 32

/-- A command of a ring by its record index. -/
def findCmd (s : State) (ring idx : Nat) : Option Cmd := s.host.cmds.find? fun c => c.ring == ring && c.idx == idx

/-- Change a command. -/
def modCmd (s : State) (ring idx : Nat) (f : Cmd → Cmd) : State :=
  { s with host := { s.host with cmds := replaceFirst (fun c => c.ring == ring && c.idx == idx) f s.host.cmds } }

/-- Completion record (Table 9.12). -/
def completionEv (s : State) (ring id cstat tstat : Nat) (astat : Astat) (checked unchecked : Nat) : Ev :=
  ⟨0x0001, false, dget s (0x6880 + ring) 1, s.prc,
    pf 0 32 id ||| pf 32 4 cstat ||| pf 36 4 tstat ||| pf 40 7 ring ||| pf 48 16 astat.toNat
      ||| pf 64 32 checked ||| pf 96 32 unchecked⟩

/-- Event ring that takes the completions of a command ring (R327). -/
def complRing (s : State) (ring : Nat) : Nat := dget s (0x6880 + ring) 4

/-- Write the completion of a command that carries no tokens. -/
def putCompletion (s : State) (ring id cstat : Nat) : State :=
  eringPut s (complRing s ring) (completionEv s ring id cstat 0 0 0 0)

/-- Write the completions of the aborts that follow their target's (R320, R324). -/
def putAborts : State → List (Nat × Nat) → State
  | s, [] => s
  | s, (ring, idx) :: xs =>
    match findCmd s ring idx with
    | some c => putAborts (putCompletion (modCmd s ring idx fun c => { c with st := .done }) ring (cmdId c.rec_) 0) xs
    | none => putAborts s xs

/-- Commit a command and write its completion; an abort that committed first decides the outcome (R322, R331). -/
def finishCmd (s : State) (ring idx cstat : Nat) : State :=
  match findCmd s ring idx with
  | none => s
  | some c =>
    if c.st = .done then s
    else
      let cs := if c.aborted then 2 else cstat
      let e := completionEv s ring (cmdId c.rec_) cs c.tstat c.astat c.checked c.unchecked
      let s := modCmd s ring idx fun c => { c with st := .done, left := [] }
      putAborts (eringPut s (complRing s ring) e) c.aborts

/-- Completion status of a launch whose tokens are all in (R331). -/
def launchStat (c : Cmd) : Nat := if c.fail.isSome || c.tstat != 0 then 3 else 0

/-- Finish a launch when no token is missing. -/
def launchCheck (s : State) (ring idx : Nat) : State :=
  match findCmd s ring idx with
  | some c => if c.st == .started && c.left.isEmpty then finishCmd s ring idx (launchStat c) else s
  | none => s

/-- The host die receives a completion token: words are ORed, counts summed, the first non-zero status kept (R108). -/
def takeToken (s : State) (ring idx core : Nat) (t : Token) : State :=
  match findCmd s ring idx with
  | some c =>
    if c.st == .started && c.left.contains core then
      launchCheck (modCmd s ring idx fun c =>
        { c with left := c.left.erase core, astat := c.astat ||| t.astat,
                 tstat := if c.tstat = 0 then t.status.toNat else c.tstat,
                 checked := (c.checked + t.checked.toNat) % 2 ^ 32,
                 unchecked := (c.unchecked + t.unchecked.toNat) % 2 ^ 32 }) ring idx
    else s
  | none => s

/-- A lost core counts as reported, and its launch completes with task-fault (R414). -/
def reportLost (s : State) (ring idx core : Nat) : State :=
  match findCmd s ring idx with
  | some c =>
    if c.st == .started && c.left.contains core then
      launchCheck (modCmd s ring idx fun c => { c with left := c.left.erase core, fail := some 3 }) ring idx
    else s
  | none => s

/-- An entry of a collective or reshard has ended: a status other than ok makes the command complete with engine-fault
(R315). -/
def itemDone (s : State) (ring idx entry status : Nat) : State :=
  match findCmd s ring idx with
  | some c =>
    if c.st == .started && c.left.contains entry then
      let c' : Cmd := { c with left := c.left.erase entry, fail := if status = 0 then c.fail else some 0xB }
      let s := modCmd s ring idx fun _ => c'
      if c'.left.isEmpty then finishCmd s ring idx (c'.fail.getD 0) else s
    else s
  | none => s

end Sys2Proof.Machine
end

