-- ==== Sys2Proof/Machine/Loss.lean ====
section
/-!
DEFINITION. Loss.lean: conditions of physical positions (R410, R411), the repair map's generation count (R26, R27),
partition stop (R101) and the loss of a core (R413 to R415).
-/
namespace Sys2Proof.Machine

open Sys2Proof

/-- Position health record; a position at manufacture is healthy, the ninth of each cluster a spare (R25, R410). -/
def healthRec (s : State) (pcid : Nat) : Nat := agetD pcid (if pcid % 16 = 8 then 3 else 0) s.health.recs

/-- Condition of a position (Table 13.1). -/
def condOf (s : State) (pcid : Nat) : Nat := bits (healthRec s pcid) 2 0

def setHealthRec (s : State) (pcid v : Nat) : State :=
  { s with health := { s.health with recs := aput pcid v s.health.recs } }

/-- A saturating count in a health record. -/
def healthBump (s : State) (pcid hi lo : Nat) : State :=
  let v := healthRec s pcid
  let f := bits v hi lo
  if f + 1 < 2 ^ (hi + 1 - lo) then setHealthRec s pcid (setBits v hi lo (f + 1)) else s

/-- A change of the repair map or of a condition: the generation count becomes odd, then even again, one higher (R27). -/
def bumpRepairGen (s : State) : State :=
  { s with health := { s.health with repairGen := (s.health.repairGen + 2) % 2 ^ 32 } }

/-- Store a cluster repair word (R25, R27). -/
def setRepair (s : State) (k w : Nat) : State :=
  touchTopo (bumpRepairGen { s with health := { s.health with repair := aput k w s.health.repair } })

/-- Logical core field of a health-change event: the core that the position serves. -/
def lcidField (s : State) (pcid : Nat) : Nat := (coreOfPcid s pcid).getD 0

/-- Partition of a physical position's die. -/
def partOfPcid (s : State) (pcid : Nat) : Nat := partOfDie s (pcid / 64)

/-- A recommendation (R430): subject kind, subject, code. -/
def recommend (s : State) (part kind subject code : Nat) : State :=
  raise s 0x0906 part (pf 0 4 kind ||| pf 16 16 subject ||| pf 32 8 code)

/-- A change of condition with its event and generation count (R411). drill sets the event's drill bit. -/
def setCondD (s : State) (drill : Bool) (pcid new cause : Nat) : State :=
  let old := condOf s pcid
  if old = new then s
  else
    let s' := setHealthRec s pcid (setBits (setBits (healthRec s pcid) 2 0 new) 7 4 cause)
    raiseD (bumpRepairGen s') drill 0x0902 (partOfPcid s pcid)
      (pf 0 14 pcid ||| pf 16 3 old ||| pf 20 3 new ||| pf 24 4 cause ||| pf 32 13 (lcidField s pcid))

/-- A change of condition that no drill causes. -/
def setCond (s : State) (pcid new cause : Nat) : State := setCondD s false pcid new cause

/-- Seven days in PRC ticks. -/
def weekTicks : Nat := 604800 * 156250000

/-- A failed tile, paired mismatch or sweep makes a healthy position suspect, with its recommendations: 1 when it becomes
suspect, and 2 when it does so again within 7 days (R411, R418, R419, Table 13.8). -/
def makeSuspect (s : State) (pcid cause : Nat) : State :=
  let again : Bool := match aget pcid s.health.suspectAt with
    | some t => decide (s.prc < t + weekTicks)
    | none => false
  let s' := if condOf s pcid = 0 then setCond s pcid 1 cause else s
  let s' := { s' with health := { s'.health with suspectAt := aput pcid s.prc s'.health.suspectAt } }
  if condOf s pcid = 0 then
    let t := recommend s' (partOfPcid s pcid) 1 pcid 1
    if again then recommend t (partOfPcid s pcid) 1 pcid 2 else t
  else if (condOf s pcid = 1 ∨ condOf s pcid = 2) ∧ again = true then recommend s' (partOfPcid s pcid) 1 pcid 2
  else s'

/-- A partition stop reaches a core: it stops at once where a barrier or a wait blocks it, else at its next sync point
(R101). -/
def stopAtSync (k : Core) : Core :=
  if k.st = .run then
    match k.hold with
    | .barrier _ => plainStop k 2
    | .wait => plainStop k 2
    | _ => { k with partStop := true }
  else k

/-- Partition stop reaches every core of a partition (R101, R404, R414). -/
def partitionStopAll (s : State) (p : Nat) : State :=
  { s with cores := s.cores.map fun e => if partOfCore s e.1 == p then (e.1, stopAtSync e.2) else e }

/-- The core's position gets fenced in the repair map: its fenced bit is set; the logical core keeps its field until the
cluster reset of R414 (R413). -/
def fencePcid (s : State) (pcid cause : Nat) : State :=
  let w := repairWord s (pcid / 16)
  let b := 40 + pcid % 16
  let w := if bit w b then w else w + 2 ^ b
  let w := if bits w 35 32 == pcid % 16 then setBits w 35 32 15 else w
  setCond (setRepair s (pcid / 16) w) pcid 4 cause

/-- A core is in a task. -/
def inTask (k : Core) : Bool := k.st == .run || k.st == .drain || k.st == .report || k.st == .load

/-- An idle core that is lost with cause 1 or 2 follows steps 3 and 5 of Table 13.5 only; R180 names the event of cause 4
(R415). -/
def quietLoss (k : Core) (cause : Nat) : Bool := !inTask k && (cause == 1 || cause == 2)

/-- A core is lost with a cause of Table 13.4: the event; the partition stop and the launch's account when it was in a
task; its position fenced but for cause 5; no architectural state (R413 to R415). A drill's position is not fenced: it
becomes the cluster's spare (Table 13.10). -/
def coreLostD (s : State) (drill : Bool) (c cause : Nat) : State :=
  let k := core s c
  let p := partOfCore s c
  let s := if quietLoss k cause then s else raiseCoreD s drill c 0x0901 (pf 20 4 cause)
  let s := if inTask k && p != 0xFF then partitionStopAll s p else s
  let pcid := pcidOf s c
  let s := if cause = 5 ∨ isHole s c then s
    else if drill then { s with health := { s.health with exchange := s.health.exchange ++ [pcid] } }
    else fencePcid s pcid 5
  let s := setCore s c { Core.reset with st := .gated }
  match k.launch with
  | some (r, i) => if inTask k then reportLost s r.val i c else s
  | none => s

/-- A core is lost. -/
def coreLost (s : State) (c cause : Nat) : State := coreLostD s false c cause

/-- PRC ticks of a second. -/
def secTicks : Nat := 156250000

/-- Times of the last n seconds. -/
def recent (s : State) (sec : Nat) (ts : List Nat) : List Nat := ts.filter fun t => decide (s.prc < t + sec * secTicks)

end Sys2Proof.Machine
end

