-- ==== Sys2Proof/Machine/Net.lean ====
section
/-!
DEFINITION. Net.lean: what a source NI does: panel addresses (R28, R190, R216, R226, R242, R244), routes (R191, R192,
R198 to R200, R281 to R283), cells (R187 to R190), messages with their requester slots (R208 to R214, R221), and the
responses that a target NI sends (R212, R222).
-/
namespace Sys2Proof.Machine

open Sys2Proof

/-! ## The torus -/

/-- Link dies of a link group (Table 8.2). -/
def groupDies (g : Nat) : List Nat :=
  [[8, 9, 10, 11], [20, 21, 22, 23], [12, 14, 16, 18], [0, 2, 4, 6], [13, 15, 17, 19], [1, 3, 5, 7]].getD g []

/-- Groups of a direction, 0 to 5 for +x, -x, +y, -y, +z, -z (Table 8.3). -/
def dirGroups (t : Topo) (d : Nat) : List Nat :=
  match t.shape with
  | 1 => [[0, 2, 4], [1, 3, 5]].getD d []
  | 2 => if t.dbl = 0 then [[0, 4], [1, 5], [2], [3]].getD d [] else [[0], [1], [2, 4], [3, 5]].getD d []
  | 3 => [[0], [1], [2], [3], [4], [5]].getD d []
  | _ => []

/-- Link dies of a direction in order (R274). -/
def dirDies (t : Topo) (d : Nat) : List Nat := (dirGroups t d).flatMap groupDies

/-- Minimal distance in a dimension of size n (R281). -/
def torusDist (n src dst : Nat) : Int :=
  let d := (dst + n - src) % n
  if 2 * d ≤ n then (d : Int) else (d : Int) - n

/-- A remaining hop count of 5 bits, read signed. -/
def hopCount (v : BitVec 5) : Int := v.toInt

/-- Direction of the next torus hop: the first count that is not zero and its sign (R281). -/
def torusDir (x : Cell) : Option Nat :=
  if x.dx ≠ 0 then some (if hopCount x.dx > 0 then 0 else 1)
  else if x.dy ≠ 0 then some (if hopCount x.dy > 0 then 2 else 3)
  else if x.dz ≠ 0 then some (if hopCount x.dz > 0 then 4 else 5)
  else none

/-- The cell leaves, or has still to leave, a panel. -/
def leaves (x : Cell) : Bool := (torusDir x).isSome

/-! ## Sources -/

/-- Source of a cell: endpoint above the panel coordinate (R208). -/
def srcKey (ep x y z : Nat) : BitVec 28 := BitVec.ofNat 28 (ep * 4096 + z % 16 * 256 + y % 16 * 16 + x % 16)

def Cell.src (x : Cell) : BitVec 28 := srcKey x.srcEp.toNat x.sx.toNat x.sy.toNat x.sz.toNat

def srcEpOf (k : BitVec 28) : Nat := k.toNat / 4096
def srcX (k : BitVec 28) : Nat := k.toNat % 16
def srcY (k : BitVec 28) : Nat := k.toNat / 16 % 16
def srcZ (k : BitVec 28) : Nat := k.toNat / 256 % 16

/-- Source key of an endpoint of this panel. -/
def ownKey (s : State) (ep : Nat) : BitVec 28 := srcKey ep s.links.topo.x s.links.topo.y s.links.topo.z

/-- The source names this panel. -/
def isHere (s : State) (k : BitVec 28) : Bool :=
  srcX k == s.links.topo.x % 16 && srcY k == s.links.topo.y % 16 && srcZ k == s.links.topo.z % 16

/-! ## Routes -/

/-- A route: segments in order. -/
abbrev Path := List (Dir × Nat)

/-- Put a segment in front, leaving empty ones out and joining equal directions. -/
def Path.push (g : Dir × Nat) (p : Path) : Path :=
  if g.2 = 0 then p
  else match p with
    | (d, n) :: t => if d = g.1 then (d, n + g.2) :: t else g :: p
    | [] => [g]

/-- Minimal paths of at most three segments between two sites. -/
def sitePaths (a b : Nat) : List Path :=
  let h : Dir × Nat := if siteCol a ≤ siteCol b then (.east, siteCol b - siteCol a) else (.west, siteCol a - siteCol b)
  let v : Dir × Nat := if siteRow a ≤ siteRow b then (.north, siteRow b - siteRow a) else (.south, siteRow a - siteRow b)
  if h.2 = 0 ∨ v.2 = 0 then [Path.push h (Path.push v [])]
  else
    [[h, v], [v, h]]
      ++ ((List.range h.2).filter fun i => i != 0).map (fun i => [(h.1, i), v, (h.1, h.2 - i)])
      ++ ((List.range v.2).filter fun i => i != 0).map (fun i => [(v.1, i), h, (v.1, v.2 - i)])

/-- Grid site of an endpoint, for a rim die that of its attachment. -/
def siteOfEp (e : Nat) : Nat :=
  match epKind e with
  | .core c => siteOfDie (dieOfCore c)
  | .mem m => siteOfMem m
  | _ =>
    match rimOfEp e with
    | some r => (rimSite r).1
    | none => 0

/-- Router that serves an endpoint of the grid. -/
def routerOfEp (e : Nat) : Nat :=
  match epKind e with
  | .core c => routerOfCore c
  | _ => 0

/-- Candidate paths between two endpoints: rim crossings count as hops (R200). -/
def epPaths (a b : Nat) : List Path :=
  let inHop : Path := match rimOfEp a with
    | some r => [(dirBack (rimSite r).2, 1)]
    | none => []
  let outHop : Path := match rimOfEp b with
    | some r => [((rimSite r).2, 1)]
    | none => []
  ((sitePaths (siteOfEp a) (siteOfEp b)).map fun p =>
    (inHop ++ p ++ outHop).foldr Path.push []).filter fun p => decide (p.length ≤ 3)

/-- A router is in a route-hole map. -/
def holed (hm : Assoc Nat) (site q : Nat) : Bool := bit (agetD site 0 hm) q

/-- Congestion level of an output and half in a map (R201, R202). -/
def levelOf (words : Assoc Nat) (site : Nat) (d : Dir) (half : Bool) : Nat :=
  agetD site 0 words / 4 ^ (2 * d.code + if half then 1 else 0) % 4

/-- Cost of a walk from a router, or none when it turns illegally, leaves the grid, or meets a hole (R192, R200). -/
def walk (hm words : Assoc Nat) (half : Bool) (goal : Option Nat) : Nat → Option Dir → List Dir → Option Nat
  | site, _, [] =>
    match goal with
    | some q => if holed hm site q then none else some 0
    | none => some 0
  | site, din, d :: ds =>
    if illegalTurn (siteCol site) din d || holed hm site (edgeRouter site d half) then none
    else
      match siteOfPlace (stepDir d (placeOfSite site)) with
      | some t =>
        if holed hm t (edgeRouter t (dirBack d) half) then none
        else (walk hm words half goal t (some d) ds).map (· + levelOf words site d half)
      | none =>
        if ds.isEmpty && (rimAt site d).isSome then some (levelOf words site d half) else none

/-- Directions of a path, hop by hop. -/
def Path.dirs (p : Path) : List Dir := p.flatMap fun g => List.replicate g.2 g.1

/-- Cost of a path between two endpoints on a half. -/
def pathCost (hm words : Assoc Nat) (half : Bool) (a b : Nat) (p : Path) : Option Nat :=
  let goal : Option Nat := if (rimOfEp b).isSome then none else some (routerOfEp b)
  match rimOfEp a with
  | some r =>
    match Path.dirs p with
    | d :: ds =>
      if holed hm (rimSite r).1 (edgeRouter (rimSite r).1 (dirBack d) half) then none
      else walk hm words half goal (rimSite r).1 (some d) ds
    | [] => none
  | none => if holed hm (siteOfEp a) (routerOfEp a) then none else walk hm words half goal (siteOfEp a) none (Path.dirs p)

/-- A chosen route. -/
structure Route where
  path : Path
  half : Bool
  deriving DecidableEq, Repr

/-- Rank of a candidate: cost, segments, half against the tag, first direction, first length (R200). -/
def routeKey (cost : Nat) (tag0 : Bool) (p : Path) (half : Bool) : Nat :=
  let f : Dir × Nat := p.headD (.east, 0)
  (((cost * 4 + p.length) * 2 + (if half == tag0 then 0 else 1)) * 4 + f.1.code) * 32 + f.2

/-- Candidate routes with their ranks. -/
def candidates (hm words : Assoc Nat) (a b : Nat) (tag0 : Bool) : List (Nat × Route) :=
  (epPaths a b).flatMap fun p =>
    [false, true].filterMap fun h => (pathCost hm words h a b p).map fun c => (routeKey c tag0 p h, ⟨p, h⟩)

/-- The candidate of least rank. -/
def leastRank {α : Type} : List (Nat × α) → Option (Nat × α)
  | [] => none
  | c :: cs =>
    match leastRank cs with
    | some d => if c.1 ≤ d.1 then some c else some d
    | none => some c

/-- Hops of a path. -/
def Path.hops (p : Path) : Nat := (p.map Prod.snd).sum

/-- Hole map and congestion map that a die holds (R202, R231). -/
def holesAt (s : State) (die : Nat) : Assoc Nat := agetD die [] s.fab.holeMaps
def wordsAt (s : State) (die : Nat) : Assoc Nat := (agetD die (0, []) s.fab.maps).2

/-- Exit link dies of a torus direction that the exit map shows (R282, R283). -/
def exitsOf (s : State) (d : Nat) : List Nat := (dirDies s.links.topo d).filter fun k => bit s.links.exitMap k

/-- Best route from an endpoint to an exit of a direction: fewest hops, then R200 over all of them (R283). -/
def exitRoute (s : State) (ep dir : Nat) (tag0 : Bool) : Option Route :=
  let die := dieNoOfEp ep
  (leastRank ((exitsOf s dir).flatMap fun k =>
    (candidates (holesAt s die) (wordsAt s die) ep (epLink k) tag0).map fun c =>
      (c.2.path.hops * 2 ^ 24 + c.1, c.2))).map Prod.snd

/-- A segment's code (Table 6.4). -/
def segCode (g : Dir × Nat) : BitVec 7 := BitVec.ofNat 7 (g.1.code * 32 + g.2)

/-- Segment i of a path. -/
def Path.seg (p : Path) (i : Nat) : BitVec 7 := match p[i]? with
  | some g => segCode g
  | none => 0

/-- Write leg 1 of a cell. -/
def setLeg1 (x : Cell) (r : Route) : Cell :=
  { x with l1s0 := r.path.seg 0, l1s1 := r.path.seg 1, l1s2 := r.path.seg 2, half := r.half, pos := 0 }

/-- Write leg 3 of a cell. -/
def setLeg3 (x : Cell) (r : Route) : Cell :=
  { x with l3s0 := r.path.seg 0, l3s1 := r.path.seg 1, l3s2 := r.path.seg 2, half := r.half, pos := 4 }

/-- Route a cell from its source endpoint of this panel to a panel (R200, R281, R283, R288). None: no candidate. -/
def routeCell (s : State) (x : Cell) (px py pz : Nat) : Option Cell :=
  let t := s.links.topo
  let ddx := if t.nx ≤ 1 then 0 else torusDist t.nx t.x px
  let ddy := if t.ny ≤ 1 then 0 else torusDist t.ny t.y py
  let ddz := if t.nz ≤ 1 then 0 else torusDist t.nz t.z pz
  let x := { x with dx := BitVec.ofInt 5 ddx, dy := BitVec.ofInt 5 ddy, dz := BitVec.ofInt 5 ddz }
  let tag0 := x.tag.getLsbD 0
  let die := dieNoOfEp x.srcEp.toNat
  match torusDir x with
  | none =>
    if px % 16 = t.x % 16 ∧ py % 16 = t.y % 16 ∧ pz % 16 = t.z % 16 then
      (leastRank (candidates (holesAt s die) (wordsAt s die) x.srcEp.toNat x.dstEp.toNat tag0)).map
        fun c => setLeg1 x c.2
    else none
  | some d =>
    (exitRoute s x.srcEp.toNat d tag0).map fun r =>
      { setLeg1 x r with l3s0 := 0x7F, vc := if t.rappel then 2 else 0 }

/-! ## Cells -/

/-- A cell that names nothing (Table 6.1). -/
def Cell.blank : Cell :=
  { ver := 1, cls := 0, vc := 0, ocls := 0, kind := 0, half := false, mc := false, pos := 0, lb := 1, l1s0 := 0, l1s1 := 0,
    l1s2 := 0, l3s0 := 0, l3s1 := 0, l3s2 := 0, dx := 0, dy := 0, dz := 0, sx := 0, sy := 0, sz := 0, colmask := 0,
    rowmask := 0, coremask := 0, srcEp := 0, dstEp := 0, tag := 0, idx := 0, cnt := 0, offset := 0, payload := [] }

/-- Data bytes that a cell carries (R187). -/
def Cell.data (x : Cell) : List Byte := (x.payload ++ List.replicate 48 0).take x.lb.toNat

/-- Payload byte i. -/
def Cell.byte (x : Cell) (i : Nat) : Nat := (x.payload.getD i 0).toNat

/-- Payload bytes i to i + n - 1 as a number, lowest first. -/
def Cell.num (x : Cell) (i n : Nat) : Nat := leNat ((x.payload.drop i).take n)

/-- A cell of an endpoint of this panel before it is routed. -/
def srcCell (s : State) (ep : Nat) (cls kind : Nat) (dst : Nat) (tag idx cnt off : Nat) (data : List Byte) : Cell :=
  { Cell.blank with
    cls := BitVec.ofNat 2 cls, ocls := BitVec.ofNat 2 cls, kind := BitVec.ofNat 5 kind,
    lb := BitVec.ofNat 6 (if data.isEmpty then 1 else data.length), sx := BitVec.ofNat 4 s.links.topo.x,
    sy := BitVec.ofNat 4 s.links.topo.y, sz := BitVec.ofNat 4 s.links.topo.z, srcEp := BitVec.ofNat 16 ep,
    dstEp := BitVec.ofNat 16 dst, tag := BitVec.ofNat 10 tag, idx := BitVec.ofNat 9 idx, cnt := BitVec.ofNat 9 cnt,
    offset := BitVec.ofNat 36 off, payload := data }

/-- The router that a source injects at (R184). -/
def injectLoc (ep : Nat) : RouterLoc :=
  match rimOfEp ep with
  | some r => .rim ⟨r % 27, Nat.mod_lt _ (by decide)⟩
  | none => .grid ⟨siteOfEp ep % 240, Nat.mod_lt _ (by decide)⟩ ⟨routerOfEp ep % 4, Nat.mod_lt _ (by decide)⟩

/-- Put a cell of a source into the fabric. -/
def inject (s : State) (x : Cell) : State :=
  { s with fab := { s.fab with net := s.fab.net ++ [⟨.router (injectLoc x.srcEp.toNat) none, x⟩] } }

/-- A target sends a response cell to a source (R212, R222). A response without a route is not sent. -/
def respond (s : State) (ep : Nat) (dest : BitVec 28) (tag : BitVec 10) (kind idx cnt off : Nat) (data : List Byte) : State :=
  match routeCell s (srcCell s ep 1 kind (srcEpOf dest) tag.toNat idx cnt off data) (srcX dest) (srcY dest) (srcZ dest) with
  | some x => inject s x
  | none => s

/-- Chunks of 48 bytes. -/
def chunks48 : Nat → List Byte → List (List Byte)
  | 0, _ => []
  | n + 1, bs => if bs.isEmpty then [] else bs.take 48 :: chunks48 n (bs.drop 48)

/-- Cells of data: index and bytes. -/
def cellsOf (bs : List Byte) : List (Nat × List Byte) :=
  let cs := chunks48 (bs.length / 48 + 1) bs
  List.zip (List.range cs.length) cs

/-! ## Addresses -/

/-- Where a panel address leads: endpoint, panel, and the offset that cells carry. -/
structure Dest where
  space : Nat
  ep : Nat
  px : Nat
  py : Nat
  pz : Nat
  off : Nat
  deriving DecidableEq, Repr

/-- A destination on this panel. -/
def hereDest (s : State) (space ep off : Nat) : Dest := ⟨space, ep, s.links.topo.x, s.links.topo.y, s.links.topo.z, off⟩

/-- Bytes of a stack: 48 GiB (R238). -/
def hbmSize : Nat := 48 * 2 ^ 30

/-- A partition's dies and sites are in use: it is starting, on, resetting or stopping (Table 12.5). -/
def partUp (s : State) (p : Nat) : Bool := decide (2 ≤ partSt s p)

/-- Owner of a partition as the list of last owners holds it. -/
def ownerKey (s : State) (p : Nat) : Nat := dget s (0x6100 + p) 4 + 1

/-- A partition holds a memory site: it is up, or it is off and was the last to be handed the site (R399, log 23). -/
def siteHeld (s : State) (p m : Nat) : Bool :=
  ownerOfSite s m == p && p != 0xFF && (partUp s p || (partSt s p == 1 && aget (256 + m) s.parts.owners == some (ownerKey s p)))

/-- The requester of partition part, none for base-camp firmware, may reach a site (R216, R236). -/
def mayReachSite (s : State) (part : Option Nat) (m : Nat) : Bool :=
  match part with
  | none => true
  | some p => siteHeld s p m

/-- The requester of partition part, none for base-camp firmware, may reach what is of partition p (R111, R216, R399). -/
def mayReach (s : State) (part : Option Nat) (p : Nat) : Bool :=
  match part with
  | none => true
  | some q => p == q && p != 0xFF && partUp s p

/-- Cells carry a space 0x4 offset of a write, read or contribution under [35:32] = 0xF, which no stack reaches (log 18). -/
def portMark : Nat := 15 * 2 ^ 32

/-- A rank of a partition's map (R226). -/
def rankEntry (s : State) (p rank : Nat) : Option Nat := ((agetD p [] s.fab.rmaps)[rank]?).map BitVec.toNat

/-- The source NI's reading of a panel address: none where it answers address-error itself (R28, R216, R226, R242,
R244). -/
def resolve (s : State) (part : Option Nat) (a : Word) : Option Dest :=
  let n := a.toNat
  match bits n 63 60 with
  | 0 =>
    match part with
    | some p =>
      let o := bits n 39 0
      let l := sitesOf s p
      let m := l.getD (o / 4096 % l.length) 0
      if bits n 59 40 = 0 ∧ o < l.length * hbmSize ∧ siteHeld s p m = true then
        some (hereDest s 0 (epMem m) (o / 4096 / l.length * 4096 + o % 4096))
      else none
    | none => none
  | 1 =>
    let m := bits n 39 36
    if bits n 59 40 = 0 ∧ bits n 35 0 < hbmSize ∧ mayReachSite s part m = true then
      some (hereDest s 1 (epMem m) (bits n 35 0))
    else none
  | 2 =>
    let c := bits n 44 32
    if bits n 59 45 = 0 ∧ bits n 31 20 = 0 ∧ c < 7168 ∧ mayReach s part (partOfCore s c) = true then
      some (hereDest s 2 (epCore c) (bits n 19 0))
    else none
  | 3 =>
    let c := bits n 44 32
    if bits n 59 45 = 0 ∧ bits n 31 16 = 0 ∧ c < 7168 ∧ mayReach s part (partOfCore s c) = true then
      some (hereDest s 3 (epCore c) (bits n 15 0))
    else none
  | 4 =>
    let m := bits n 35 32
    if bits n 59 36 = 0 ∧ mayReachSite s part m = true then some (hereDest s 4 (epMem m) (bits n 31 0)) else none
  | 6 =>
    match part with
    | some p =>
      if bits n 59 57 = 0 ∧ bits n 31 20 = 0 then
        match rankEntry s p (bits n 56 32) with
        | some e =>
          if bit e 40 then
            some ⟨2, epCore (bits e 12 0), bits e 23 16, bits e 31 24, bits e 39 32, bits n 19 0⟩
          else none
        | none => none
      else none
    | none => none
  | _ => none

/-- A destination on this panel. -/
def Dest.here (s : State) (d : Dest) : Bool :=
  d.px == s.links.topo.x && d.py == s.links.topo.y && d.pz == s.links.topo.z

/-! ## Messages -/

/-- Twice the reassembly timeout, in ticks (R214). -/
def twiceTimeout (s : State) : Nat := usTicks (2 * dget s 0x5000 1)

/-- Tags that an endpoint may not take: open, or closed after a failure (R208, R214). -/
def usedTags (s : State) (ep : Nat) : List Nat :=
  (s.fab.msgs.filterMap fun m => if m.ep.toNat = ep then some m.tag.toNat else none)
    ++ s.fab.closed.filterMap fun t => if t.ep.toNat = ep then some t.tag.toNat else none

/-- The lowest free tag of an endpoint, or 1,024. -/
def freeTag (s : State) (ep : Nat) : Nat := leastFree (usedTags s ep) 1024 0

/-- A request before it is sent: cell class and kind, destination offset and payload of each cell, cells expected back. -/
structure Req where
  cls : Nat
  kind : Nat
  cells : List (Nat × List Byte)
  want : Nat
  deriving DecidableEq, Repr

/-- A write of bytes at a destination offset. -/
def writeReq (kind off : Nat) (bs : List Byte) : Req :=
  ⟨0, kind, (cellsOf bs).map fun c => (off + 48 * c.1, c.2), 1⟩

/-- A read of n bytes (Table 6.2). -/
def readReq (off n : Nat) : Req := ⟨0, 2, [(off, leBytes 3 n ++ leBytes 5 0)], (n + 47) / 48⟩

/-- What became of a request at its source NI. -/
inductive Sent where
  | sent (s : State)
  /-- Answered by the source NI: 1 address-error, 3 core-absent (R200, R216, R226, R232). -/
  | refused (cause : Nat)
  /-- No tag is free. -/
  | noTag
  deriving DecidableEq, Repr

/-- Inject routed cells. -/
def injectAll (s : State) (xs : List Cell) : State := xs.foldl inject s

/-- Open a message of an endpoint and inject its cells (R208, R210, R221). -/
def sendReq (s : State) (ep : Nat) (p : Purpose) (a : Word) (d : Dest) (q : Req) : Sent :=
  let tag := freeTag s ep
  if tag = 1024 then .noTag
  else
    let xs := (List.zip (List.range q.cells.length) q.cells).filterMap fun c =>
      let x := srcCell s ep q.cls q.kind d.ep tag c.1 (q.cells.length - 1) c.2.1 c.2.2
      routeCell s x d.px d.py d.pz
    if xs.length < q.cells.length ∨ xs.isEmpty then .refused 3
    else
      .sent (injectAll { s with fab := { s.fab with
        msgs := s.fab.msgs ++ [⟨BitVec.ofNat 16 ep, BitVec.ofNat 10 tag, a, xs, q.want, [], 0, [], s.prc, dget s 0x5000 1, p⟩] } } xs)

/-- Resolve and send. -/
def sendTo (s : State) (ep : Nat) (part : Option Nat) (p : Purpose) (a : Word) (q : Dest → Option Req) : Sent :=
  match resolve s part a with
  | none => .refused 1
  | some d =>
    match q d with
    | some r => sendReq s ep p a d r
    | none => .refused 1

/-- Cell offset of a destination: HBM, scratchpad, or space 0x4 under its mark. -/
def Dest.cellOff (d : Dest) : Nat := if d.space = 4 then portMark + d.off else d.off

/-- A message of an endpoint. -/
def findMsg (s : State) (ep tag : Nat) : Option Msg := s.fab.msgs.find? fun m => m.ep.toNat == ep && m.tag.toNat == tag

/-- Close a message: its requester slot is free; after a failure the tag stays closed (R213, R214). -/
def closeMsg (s : State) (ep tag : Nat) (failed : Bool) : State :=
  { s with fab := { s.fab with
      msgs := s.fab.msgs.filter fun m => !(m.ep.toNat == ep && m.tag.toNat == tag),
      closed := match failed, findMsg s ep tag with
        | true, some m => s.fab.closed ++ [⟨m.ep, m.tag, s.prc, m.limit⟩]
        | _, _ => s.fab.closed } }

/-- The open messages of an endpoint are abandoned by a reset; their tags stay closed, so that a response that comes later
finds no message (R109, R110, R214, log 72). -/
def abandon (s : State) (ep : Nat) : State :=
  { s with fab := { s.fab with
      msgs := s.fab.msgs.filter fun m => m.ep.toNat != ep,
      closed := s.fab.closed ++ (s.fab.msgs.filter fun m => m.ep.toNat == ep).map fun m => ⟨m.ep, m.tag, s.prc, m.limit⟩ } }

/-- Change a message. -/
def modMsg (s : State) (ep tag : Nat) (f : Msg → Msg) : State :=
  { s with fab := { s.fab with msgs := replaceFirst (fun m => m.ep.toNat == ep && m.tag.toNat == tag) f s.fab.msgs } }

/-- The signal of a counter of the core that a panel address names: a request of one cell (Table 6.2). -/
def signalReq (ctr : Nat) : Req := ⟨0, 5, [(0, [BitVec.ofNat 8 ctr])], 1⟩

/-- Partition of a core as a requester. -/
def corePart (s : State) (c : Nat) : Option Nat := some (partOfCore s c)

/-! ## Endpoints that absorb or are absent -/

/-- A reset that runs covers a core (R403, R404): levels 1 to 4. -/
def resetCovers (s : State) (r : RunReset) (c : Nat) : Bool :=
  match r.level with
  | 1 => r.unit == c
  | 2 => r.unit == c / 8
  | 3 => r.unit == c / 16
  | 4 => r.unit == partOfCore s c
  | _ => false

/-- A core absorbs the cells addressed to it (R109, R180, R230, R404). -/
def absorbsCore (s : State) (c : Nat) : Bool :=
  (core s c).st == .reset || s.parts.resets.any (fun r => resetCovers s r c) || s.parts.scrub.contains (dieOfCore c)
    || partSt s (partOfCore s c) == 4 || partSt s (partOfCore s c) == 5

/-- A memory site absorbs: its owner resets or stops, or the site is being filled (R237, R264). -/
def absorbsSite (s : State) (m : Nat) : Bool :=
  s.parts.scrub.contains (256 + m) || partSt s (ownerOfSite s m) == 4 || partSt s (ownerOfSite s m) == 5

/-- The endpoint absorbs. -/
def absorbs (s : State) (ep : Nat) : Bool :=
  match epKind ep with
  | .core c => absorbsCore s c
  | .mem m => absorbsSite s m
  | _ => false

/-- A router is fenced. -/
def fenced (s : State) (site q : Nat) : Bool := holed s.fab.holes site q

/-- The endpoint is a hole, GATED, lost, or behind a fenced router (Table 6.9). -/
def absent (s : State) (ep : Nat) : Bool :=
  match epKind ep with
  | .core c => coreGated s c || fenced s (siteOfDie (dieOfCore c)) (routerOfCore c)
  | .mem m => fenced s (siteOfMem m) 0 || s.health.lostSites.contains m
  | .none => true
  | _ => false

/-! ## NI counters -/

/-- Entry 0x5300 + site of a NI's registers: sub-index base + q (Table 6.10). -/
def bumpNi (s : State) (ni sub hi lo : Nat) : State :=
  if ni < 960 then dbump s (0x5300 + ni / 4) (sub + ni % 4) hi lo else s

end Sys2Proof.Machine
end

