-- ==== Sys2Proof/Machine/CellWords.lean ====
section
/-!
DEFINITION. CellWords.lean: a cell as its 72 bytes (R187, Table 6.1): 24 bytes of header, 48 of payload, byte 0 first.
-/
namespace Sys2Proof.Machine

open Sys2Proof

/-- A header field whose lowest bit is lo. -/
def hf {w : Nat} (lo : Nat) (v : BitVec w) : Nat := v.toNat * 2 ^ lo

/-- Header bits [94:26] of a unicast cell: the segments, the torus hops and the source panel. -/
def Cell.routeBits (x : Cell) : Nat :=
  hf 26 x.l1s0 + hf 33 x.l1s1 + hf 40 x.l1s2 + hf 47 x.l3s0 + hf 54 x.l3s1 + hf 61 x.l3s2 + hf 68 x.dx + hf 73 x.dy
    + hf 78 x.dz + hf 83 x.sx + hf 87 x.sy + hf 91 x.sz

/-- Header bits [94:26] of a multicast cell: the masks. -/
def Cell.maskBits (x : Cell) : Nat := hf 26 x.colmask + hf 46 x.rowmask + hf 58 x.coremask

/-- The header as a number of 192 bits (Table 6.1). -/
def Cell.header (x : Cell) : Nat :=
  hf 0 x.ver + hf 4 x.cls + hf 6 x.vc + hf 8 x.ocls + hf 10 x.kind + hf 15 (BitVec.ofBool x.half)
    + hf 16 (BitVec.ofBool x.mc) + hf 17 x.pos + hf 20 x.lb + (if x.mc then Cell.maskBits x else Cell.routeBits x)
    + hf 95 x.srcEp + hf 111 x.dstEp + hf 127 x.tag + hf 137 x.idx + hf 146 x.cnt + hf 155 x.offset

/-- The 72 bytes of a cell (R187). -/
def Cell.image (x : Cell) : List Byte := leBytes 24 (Cell.header x) ++ (x.payload ++ List.replicate 48 0).take 48

/-- A cell read from its 72 bytes; the payload is its first lb bytes. -/
def cellOfImage (bs : List Byte) : Cell :=
  let n := leNat (bs.take 24)
  let f (w lo : Nat) : BitVec w := BitVec.ofNat w (n / 2 ^ lo)
  let mc := bit n 16
  let u (w lo : Nat) : BitVec w := if mc then 0 else f w lo
  let m (w lo : Nat) : BitVec w := if mc then f w lo else 0
  { ver := f 4 0, cls := f 2 4, vc := f 2 6, ocls := f 2 8, kind := f 5 10, half := bit n 15, mc := mc, pos := f 3 17,
    lb := f 6 20, l1s0 := u 7 26, l1s1 := u 7 33, l1s2 := u 7 40, l3s0 := u 7 47, l3s1 := u 7 54, l3s2 := u 7 61,
    dx := u 5 68, dy := u 5 73, dz := u 5 78, sx := u 4 83, sy := u 4 87, sz := u 4 91, colmask := m 20 26,
    rowmask := m 12 46, coremask := m 32 58, srcEp := f 16 95, dstEp := f 16 111, tag := f 10 127, idx := f 9 137,
    cnt := f 9 146, offset := f 36 155, payload := ((bs.drop 24).take 48).take (f 6 20).toNat }

end Sys2Proof.Machine
end

