-- ==== Sys2Proof/Machine/Operands.lean ====
section
/-!
DEFINITION. Operands.lean: scratchpad operands (R120 to R123, R166, R167, R169), tensor descriptors (R124, R125), the
scoreboard and the dispatch conditions (R74 to R79, Table 3.2), the checks at dispatch (R119, Table 4.3) and the
retirement of ranges (R75, R166).
-/
namespace Sys2Proof.Machine

open Sys2Proof

/-- What the checks of Table 4.3 find. -/
inductive Check where
  | pass
  | illegal
  | version (ver : Nat)
  | format
  deriving DecidableEq, Repr

/-- The first failing check decides (R119). -/
def Check.and (a b : Check) : Check := if a = .pass then b else a

/-- A check passes when its condition holds. -/
def Check.need (ok : Bool) (bad : Check) : Check := if ok then .pass else bad

/-- The checks in order. -/
def Check.all : List Check → Check
  | [] => .pass
  | c :: cs => if c = .pass then Check.all cs else c

/-- A scratchpad operand read from its 24 bits (R120, Table 4.4). -/
inductive Opnd where
  | flat (off : Nat)
  | ring (n : Nat) (adv : Bool)
  | bad
  deriving DecidableEq, Repr

/-- Resolve a scratchpad operand with the registers at dispatch (R121). -/
def operand (k : Core) (spo : BitVec 24) : Opnd :=
  let n := spo.toNat
  match bits n 23 22 with
  | 0 => .flat (bits n 19 0)
  | 1 => .flat (((k.sreg (bits n 20 16)).toNat + bits n 15 0) % 2 ^ 64)
  | 2 => .ring (bits n 3 0) (bit n 4)
  | _ => .bad

/-- Position, modulo twice the size, that a local operand of a ring starts at: the reserved pointer of a local side, the
published pointer of a remote side (R166, R170). -/
def Ring.start (r : Ring) (write : Bool) : Nat :=
  if write then (if r.prod then r.tail else r.rtail) else (if r.cons then r.head else r.rhead)

/-- Byte positions of an operand: for a ring, its start at dispatch (R166, R167). -/
def opndLoc (k : Core) (write : Bool) (o : Opnd) : Loc :=
  match o with
  | .flat off => ⟨off, 0, 0⟩
  | .ring n _ => let r := k.ring n; ⟨r.start write % r.size, r.base, r.size⟩
  | .bad => ⟨0, 0, 0⟩

/-- Check 5: a defined mode, the range below SPM_SIZE, the alignment; in a ring, a ring that is enabled and holds the
length (R121, R139, R167). -/
def opndOk (k : Core) (write : Bool) (o : Opnd) (len align : Nat) : Bool :=
  match o with
  | .flat off => (decide (off + len ≤ spmSize) || decide (len = 0)) && off % align == 0
  | .ring n _ =>
    let r := k.ring n
    r.size != 0 && decide (len ≤ r.size) && (r.base + r.start write % r.size) % align == 0
  | .bad => false

/-- A range that an instruction declares (R74): contiguous runs, and the ring it advances. -/
structure Range where
  write : Bool
  runs : List (Nat × Nat)
  ring : Option (Nat × Bool)
  len : Nat
  deriving DecidableEq, Repr

/-- The range of an operand. -/
def opndRange (k : Core) (write : Bool) (o : Opnd) (len : Nat) : Range :=
  { write := write, runs := (opndLoc k write o).runs 0 len,
    ring := match o with
      | .ring n adv => some (n, adv)
      | _ => none,
    len := len }

/-- A range as scoreboard lines (R74). -/
structure Lines where
  write : Bool
  lo : Nat
  hi : Nat
  /-- Index of the range in the instruction, for its ring reservation. -/
  src : List Nat
  deriving DecidableEq, Repr

/-- Lines of the runs of a range. -/
def rangeLines (i : Nat) (r : Range) : List Lines :=
  r.runs.map fun a => ⟨r.write, a.1 / 64, (a.1 + a.2 - 1) / 64, [i]⟩

/-- Two lines ranges of one kind meet or overlap (R123). -/
def Lines.meets (a b : Lines) : Bool := a.write == b.write && decide (a.lo ≤ b.hi + 1) && decide (b.lo ≤ a.hi + 1)

/-- Merge a range into a list of ranges that do not meet one another (R123). -/
def mergeLine (a : Lines) : List Lines → List Lines
  | [] => [a]
  | b :: bs =>
    if a.meets b then mergeLine ⟨a.write, min a.lo b.lo, max a.hi b.hi, a.src ++ b.src⟩ bs else b :: mergeLine a bs

/-- The ranges of an instruction as it declares them (R74, R123). -/
def declared (rs : List Range) : List Lines :=
  ((List.zip (List.range rs.length) rs).flatMap fun p => rangeLines p.1 p.2).foldl (fun acc a => mergeLine a acc) []

/-- An unretired entry conflicts with a new range: the row of Table 3.2 (rows 1 to 3), 0 for none. -/
def conflictRow (a : Lines) (e : SbEntry) : Nat :=
  if decide (a.hi < e.lo) || decide (e.hi < a.lo) then 0
  else if !a.write && e.write then 1
  else if a.write && !e.write then 2
  else if a.write && e.write then 3
  else 0

/-- The least non-zero number of a list; 0 for none. -/
def leastRow : List Nat → Nat
  | [] => 0
  | r :: rs => let t := leastRow rs; if r = 0 then t else if t = 0 then r else min r t

/-- Rows 1 to 3 of Table 3.2 for a list of ranges. -/
def conflicts (k : Core) (ls : List Lines) : Nat :=
  leastRow (ls.flatMap fun a => k.sb.map fun e => conflictRow a e.2)

/-- The wait of a ring operand: bytes to read from the reserved head, or room from the reserved tail, cover its length
(R169); the row it holds and the ring. -/
def ringWait (k : Core) (r : Range) : Option (Nat × Nat) :=
  match r.ring with
  | none => none
  | some (n, _) =>
    let g := k.ring n
    if r.write then
      (if r.len ≤ g.size - g.dist g.head (g.start true) then none else some (2, n))
    else (if r.len ≤ g.dist (g.start false) g.tail then none else some (1, n))

/-- First ring wait of the ranges. -/
def ringWaits (k : Core) : List Range → Option (Nat × Nat)
  | [] => none
  | r :: rs =>
    match ringWait k r with
    | some w => some w
    | none => ringWaits k rs

/-- The row of Table 3.2 that holds an instruction with these ranges, and the ring; row 0 when none (R76, R78, R169).
queueFull tells that the unit's queue has no room. -/
def holdRow (k : Core) (rs : List Range) (queueFull : Bool) : Nat × Option Nat :=
  let ls := declared rs
  let c := if k.bypass then 0 else conflicts k ls
  let w := if k.bypass then none else ringWaits k rs
  if c = 1 then (1, none)
  else match w with
    | some (1, n) => (1, some n)
    | _ =>
      if c = 2 then (2, none)
      else match w with
        | some (r, n) => (r, some n)
        | none =>
          if c = 3 then (3, none)
          else if 32 - k.sb.length < ls.length then (4, none)
          else if queueFull then (5, none)
          else (0, none)

/-- A matrix instruction waits behind the pause of a quench: the cycle is no stall cycle for the watchdog (R386). -/
def stallExcluded (s : State) (k : Core) : Bool := s.clk.paused && !k.mat.queue.isEmpty

/-- A stall cycle (R79, Table 3.20); the run of the watchdog grows except where R386 excludes the cycle (R174). -/
def stallCore (s : State) (c : Nat) (row : Nat) (ring : Option Nat) : State :=
  let k := core s c
  setCore s c { k with
    cyc := k.cyc + 1, stall := k.stall + 1,
    wdogRun := if stallExcluded s k then k.wdogRun else min (k.wdogRun + 1) (2 ^ 32 - 1),
    stallRow := row, stallRing := ring, hold := if row = 6 ∧ k.hold = .none then .wait else k.hold }

/-- The line of the program counter enters the instruction buffer of 256 lines, the oldest leaving (R69). -/
def Core.fetch (k : Core) : Core :=
  if k.ibuf.contains (k.pc / 64) then k else { k with ibuf := lastN 256 (k.ibuf ++ [k.pc / 64]) }

/-- A dispatch cycle: the run of stall cycles restarts and the program counter moves on (R71, R174). -/
def Core.advance (k : Core) (pc : Nat) : Core :=
  { k with cyc := k.cyc + 1, wdogRun := 0, stallRow := 0, stallRing := none,
           hold := if k.hold = .wait then .none else k.hold, pc := pc }

/-- Take the reservation of an operand with adv = 1 on a local side (R166). -/
def Core.reserve (k : Core) (n : Nat) (write : Bool) (len id parts : Nat) : Core :=
  let r := k.ring n
  if write then
    (if r.prod then k
     else k.setRing n { r with rtail := r.adv r.rtail len, resT := r.resT ++ [⟨id, len, parts⟩] })
  else
    (if r.cons then k
     else k.setRing n { r with rhead := r.adv r.rhead len, resH := r.resH ++ [⟨id, len, parts⟩] })

/-- Reservations of one instruction's ranges. -/
def reserveAll (serial : Nat) (ls : List Lines) : Core → List (Nat × Range) → Core
  | k, [] => k
  | k, (i, r) :: rs =>
    match r.ring with
    | some (n, true) =>
      reserveAll serial ls (k.reserve n r.write r.len serial (ls.filter fun l => l.src.contains i).length) rs
    | _ => reserveAll serial ls k rs

/-- Ring references of the ranges that a scoreboard entry carries. -/
def lineRefs (serial : Nat) (rs : List Range) (l : Lines) : List (Nat × Bool × Nat) :=
  l.src.filterMap fun i =>
    match rs[i]? with
    | some r =>
      match r.ring with
      | some (n, true) => some (n, r.write, serial)
      | _ => none
    | none => none

/-- Put the declared ranges into the scoreboard, each in the lowest free entry (R74, R75). -/
def addEntries (serial : Nat) (ready : Bool) (rs : List Range) : Core → List Lines → Core
  | k, [] => k
  | k, l :: ls =>
    addEntries serial ready rs
      { k with sb := aput (leastFree (k.sb.map (·.1)) 32 0) ⟨l.write, l.lo, l.hi, serial, ready, lineRefs serial rs l⟩ k.sb }
      ls

/-- An instruction takes its ranges and ring reservations (R75, R166). -/
def Core.declare (k : Core) (ready : Bool) (rs : List Range) : Core :=
  let ls := declared rs
  let k := reserveAll k.serial ls k (List.zip (List.range rs.length) rs)
  let k := addEntries k.serial ready rs k ls
  { k with serial := k.serial + 1 }

/-- Publication of retired reservations on one side: the number of bytes and the reservations left (R166). -/
def publish : List Resv → Nat × List Resv
  | [] => (0, [])
  | r :: rs => if r.left = 0 then let t := publish rs; (r.len + t.1, t.2) else (0, r :: rs)

/-- One part of a ring operand has retired (R166). -/
def retirePart (id : Nat) (rs : List Resv) : List Resv :=
  replaceFirst (fun r => r.id == id) (fun r => { r with left := r.left - 1 }) rs

/-- Move a published pointer over retired reservations; passing the other pointer sets ovr, and ring-overrun is raised
once (R166, R176). -/
def publishRing (s : State) (c n : Nat) (tail : Bool) : State :=
  let k := core s c
  let r := k.ring n
  let t := publish (if tail then r.resT else r.resH)
  let past := decide (t.1 > (if tail then r.free else r.used))
  let r' := if tail then { r with tail := r.adv r.tail t.1, resT := t.2 } else { r with head := r.adv r.head t.1, resH := t.2 }
  let s := setCore s c (k.setRing n { r' with ovr := r.ovr || past })
  if past && !r.ovr then raiseRing s c n 0x0202 (pf 17 1 1 ||| pf 32 32 t.1) else s

/-- Retire the ring references of an entry. -/
def retireRefs : State → Nat → List (Nat × Bool × Nat) → State
  | s, _, [] => s
  | s, c, (n, tail, id) :: rs =>
    let k := core s c
    let r := k.ring n
    let r' := if tail then { r with resT := retirePart id r.resT } else { r with resH := retirePart id r.resH }
    retireRefs (publishRing (setCore s c (k.setRing n r')) c n tail) c rs

/-- Retire a scoreboard entry (R75, R166). -/
def retireEntry (s : State) (c slot : Nat) : State :=
  let k := core s c
  match aget slot k.sb with
  | some e => if e.ready then retireRefs (setCore s c { k with sb := adel slot k.sb }) c e.resv else s
  | none => s

/-- Mark the entries of an instruction as finished (R75): those of one kind, or all. -/
def Core.markReady (k : Core) (serial : Nat) (write : Option Bool) : Core :=
  { k with sb := k.sb.map fun e =>
      if e.2.serial == serial && (write == none || write == some e.2.write) then (e.1, { e.2 with ready := true }) else e }

/-- A discarded instruction frees its entries at once; its ring reservations stay (R166, R510). -/
def Core.discard (k : Core) (serial : Nat) : Core :=
  { k with sb := k.sb.filter fun e => e.2.serial != serial }

/-- What a failing check of Table 4.3 does: the event, and the stop with its status; the word has no effect. -/
def failCheck (s : State) (c unit : Nat) (r : Check) : State :=
  let pc := (core s c).pc
  match r with
  | .pass => s
  | .illegal => faultStop (raiseCore s c 0x0102 (pf 32 20 pc)) c 7 unit 0 pc
  | .version v =>
    faultStop (raise s 0x0015 (partOfCore s c) (pf 0 16 c ||| pf 16 8 4 ||| pf 24 4 v)) c 7 unit 0 pc
  | .format => faultStop (raiseCore s c 0x0101 (pf 32 20 pc)) c 5 unit 0 pc

/-- A change holds the step clock of a die (R349). -/
def holdsClock (g : Option Change) (d : Nat) : Bool :=
  match g with
  | some g => g.stopped && (g.die == none || g.die == some d)
  | none => false

/-- The module enables are up: MEN_REQ asserted, the trip latch clear, STBY_OK asserted (R497). -/
def powered (s : State) : Bool := s.tray.menReq && !s.tray.latch && s.tray.stbyOk

/-- The step clock of a die runs: it is powered, and no change of step and no late re-lock holds it (R348, R349, R351). -/
def dieClocked (s : State) (d : Nat) : Bool :=
  powered s && !(holdsClock s.clk.change d || holdsClock s.clk.quench d || s.clk.late.any fun x => x.1 == d)

/-- Power state of a region: 0 on (Table 11.3). -/
def regionState (s : State) (r : Nat) : Nat := (agetD r RegionPwr.reset s.pwr.regions).pstate

/-- The core is clocked: its die's step clock runs and its region is on (R354). -/
def clocked (s : State) (c : Nat) : Bool := dieClocked s (siteOfDie (dieOfCore c)) && regionState s (c / 16) == 0

/-- The sequencer has an instruction to look at: the core runs a task. -/
def coreRuns (s : State) (c : Nat) : Bool := (core s c).st == .run && clocked s c

/-- Dispatch of one instruction (R76, R101, R119): what holds it, its checks, the conditions of Table 3.2 and, when all
hold, act. sync marks a sync point (R101). wait is a row of Table 3.2 that the instruction itself waits under. DESIGN CHOICE
(log 66): a word behind an outstanding access or at a barrier is held before its checks are made. -/
def dispatch (s : State) (c unit : Nat) (sync : Bool) (check : Core → Check) (ranges : Core → List Range)
    (wait : Core → Nat) (queueFull : Core → Bool) (act : State → State) : State :=
  if coreRuns s c then
    let k := (core s c).fetch
    match k.hold with
    | .access _ _ => stallCore s c 7 none
    | .barrier _ => stallCore s c 6 none
    | _ =>
      if k.pc ≥ spmSize then failCheck s c uSeq .illegal
      else
        let s := setCore s c k
        if sync && k.partStop then setCore s c (plainStop k 2)
        else if check k ≠ .pass then failCheck s c unit (check k)
        else
          let h := holdRow k (ranges k) (queueFull k)
          if h.1 ≠ 0 then stallCore s c h.1 h.2
          else if wait k ≠ 0 then stallCore s c (wait k) none
          else act s
  else s

end Sys2Proof.Machine
end

