-- ==== Sys2Proof/Machine/Matrix.lean ====
section
/-!
DEFINITION. Matrix.lean: the matrix engine and its instructions (R80 to R88, R124 to R129, Tables 4.5 to 4.9).
-/
namespace Sys2Proof.Machine

open Sys2Proof

/-- A tensor descriptor read from its register pair (Table 4.5). -/
structure Desc where
  base : Nat
  sbase : Nat
  code : Nat
  mx : Bool
  ring : Bool
  adv : Bool
  k : Nat
  scale : BitVec 32
  anchor : Nat
  ver : Nat
  deriving DecidableEq, Repr

def descOf (lo hi : Word) : Desc :=
  let l := lo.toNat
  let h := hi.toNat
  { base := bits l 19 0, sbase := bits l 39 20, code := bits l 43 40, mx := bit l 44, ring := bit l 45, adv := bit l 46,
    k := bits l 57 47, scale := BitVec.ofNat 32 (bits h 31 0), anchor := bits h 39 32, ver := bits h 43 40 }

/-- The descriptor that a word names (R124). -/
def descPair (k : Core) (td : BitVec 5) : Word × Word := (k.sreg td.toNat, k.sreg (td.toNat + 1))

/-- Signed anchor field (R47). -/
def anchorOf (n : Nat) : Int := signedOf 8 n

/-- K rounded up to whole blocks, and the number of blocks (R125). -/
def kPad (k : Nat) : Nat := (k + 31) / 32 * 32
def kBlocks (k : Nat) : Nat := (k + 31) / 32

/-- Lane-store K limit of a format (Table 2.5). -/
def kLimit (f : Fmt) : Nat := if f.width = 4 then 1024 else if f.width ≤ 8 then 512 else 128

/-- Cycles per block of a format's rate class (Table 2.5). -/
def blockCycles (f : Fmt) : Nat := if f.width = 4 then 1 else if f.width ≤ 8 then 2 else 8

/-- An integer operand with mx = 0, for which the anchor is 0 (R47). -/
def plainInt (f : Fmt) (mx : Bool) : Bool := (f == .int8 || f == .int4) && !mx

/-- Ring operand of a descriptor in ring mode. -/
def Desc.opnd (d : Desc) : Opnd := .ring (d.base % 16) d.adv

/-- Data and scale ranges of an operand of rows rows (Table 4.6). -/
def descRanges (k : Core) (write : Bool) (d : Desc) (data scales : Nat) : List Range :=
  if d.ring then [opndRange k write d.opnd (data + scales)]
  else
    ⟨write, (Loc.mk d.base 0 0).runs 0 data, none, data⟩
      :: (if scales = 0 then [] else [⟨write, (Loc.mk d.sbase 0 0).runs 0 scales, none, scales⟩])

/-- Check 5 on the ranges of a descriptor (R125, R167). DESIGN CHOICE (log 67): an empty data range beyond SPM_SIZE fails too. -/
def descFits (k : Core) (write : Bool) (d : Desc) (data scales : Nat) : Bool :=
  if d.ring then opndOk k write d.opnd (data + scales) 1
  else decide (d.base + data ≤ spmSize) && (scales == 0 || decide (d.sbase + scales ≤ spmSize))

/-- Bytes of the data and the scales of an input operand of n rows or columns (Table 4.6). -/
def inputBytes (d : Desc) (f : Fmt) (n : Nat) : Nat × Nat :=
  (n * kPad d.k * f.width / 8, if d.mx then n * kBlocks d.k else 0)

/-- Bytes of an output of m rows (Table 4.6). -/
def outBytes (exact : Bool) (f : Fmt) (m : Nat) : Nat := if exact then m * 2048 else m * 64 * f.width / 8

/-- Check 4 of a matrix word: an even register that is not 0 (R124). -/
def tdOk (td : BitVec 5) : Bool := td.toNat % 2 == 0 && td.toNat != 0

/-- Format checks common to input operands (R33, R80, R128). -/
def inputFmtOk (d : Desc) (f : Fmt) : Bool :=
  f.matrixIn && (!d.mx || f.mxAllowed) && d.k != 0 && decide (d.k ≤ kLimit f)

/-- Check 5, 6 and 7 of a word whose operand is an input of n rows. -/
def inputCheck (k : Core) (d : Desc) (n : Nat) (more : Fmt → Bool) : Check :=
  match Fmt.ofCode d.code with
  | none => Check.need (d.ver == 1) (.version d.ver) |>.and .format
  | some f =>
    let b := inputBytes d f n
    Check.all [Check.need (descFits k false d b.1 b.2) .illegal, Check.need (d.ver == 1) (.version d.ver),
      Check.need (inputFmtOk d f && more f) .format]

/-- Checks of mload (Table 4.9). -/
def mloadCheck (f : MatFields) (k : Core) : Check :=
  if tdOk f.td then
    let p := descPair k f.td
    let d := descOf p.1 p.2
    inputCheck k d 64 fun g => d.anchor != 0x80 || plainInt g d.mx
  else .illegal

/-- Effective anchor of mmul; none where it is 0x80 and no operand gives one (R47, R129). -/
def effAnchor (l : LaneView) (d : Desc) (g : Fmt) (field : BitVec 8) : Int :=
  if plainInt g d.mx && plainInt l.fmt l.mx then 0
  else if field = 0x80 then l.anchor else field.toInt

/-- The anchor of the instruction is allowed: 0x80 from a descriptor of INT4 or INT8 with mx = 0 serves only a pair of
such operands (R47). -/
def anchorUsable (l : LaneView) (d : Desc) (g : Fmt) (field : BitVec 8) : Bool :=
  (plainInt g d.mx && plainInt l.fmt l.mx) || field != 0x80 || l.anchor != -128

/-- Checks of mmul (Table 4.9, R44, R48). -/
def mmulCheck (f : MatFields) (k : Core) : Check :=
  if tdOk f.td then
    let p := descPair k f.td
    let d := descOf p.1 p.2
    inputCheck k d (f.m1.toNat + 1) fun g =>
      match k.mat.dLane with
      | none => false
      | some l =>
        decide (d.k ≤ l.k) && g.isInt == l.fmt.isInt && anchorUsable l d g f.anchor
          && (f.clr || k.mat.dAnchor == some (effAnchor l d g f.anchor))
  else .illegal

/-- An FP32 code is infinite or NaN. -/
def fpSpecial (s : BitVec 32) : Bool := s.toNat / 2 ^ 23 % 256 == 255

/-- Checks of mread (Table 4.9, R48, R55, R56). -/
def mreadCheck (f : MatFields) (k : Core) : Check :=
  if tdOk f.td then
    let p := descPair k f.td
    let d := descOf p.1 p.2
    let m := f.m1.toNat + 1
    if f.exact then
      Check.all [Check.need (descFits k true d (outBytes true .fp32 m) 0) .illegal,
        Check.need (d.ver == 1) (.version d.ver), Check.need k.mat.dAnchor.isSome .format]
    else
      match Fmt.ofCode d.code with
      | none => Check.need (d.ver == 1) (.version d.ver) |>.and .format
      | some g =>
        Check.all [Check.need (descFits k true d (outBytes false g m) 0) .illegal,
          Check.need (d.ver == 1) (.version d.ver),
          Check.need (g.matrixOut && !d.mx && !fpSpecial d.scale && f.rnd != 3 && k.mat.dAnchor.isSome) .format]
  else .illegal

/-- Ranges of the three words (Table 4.6). -/
def mloadRanges (f : MatFields) (k : Core) : List Range :=
  let p := descPair k f.td
  let d := descOf p.1 p.2
  let b := inputBytes d ((Fmt.ofCode d.code).getD .fp32) 64
  descRanges k false d b.1 b.2

def mmulRanges (f : MatFields) (k : Core) : List Range :=
  let p := descPair k f.td
  let d := descOf p.1 p.2
  let b := inputBytes d ((Fmt.ofCode d.code).getD .fp32) (f.m1.toNat + 1)
  descRanges k false d b.1 b.2

def mreadRanges (f : MatFields) (k : Core) : List Range :=
  let p := descPair k f.td
  let d := descOf p.1 p.2
  descRanges k true d (outBytes f.exact ((Fmt.ofCode d.code).getD .fp32) (f.m1.toNat + 1)) 0

/-- Byte positions of a descriptor's data, and of its scales (R125): in ring mode the scales follow the data. -/
def descLoc (k : Core) (write : Bool) (d : Desc) : Loc :=
  if d.ring then opndLoc k write d.opnd else ⟨d.base, 0, 0⟩

/-- Accumulators of a row; undefined ones are free values (R46, Table 3.10). -/
def MatSt.row (m : MatSt) (r : Nat) : List Acc :=
  match aget r m.accs with
  | some x => x
  | none =>
    match m.free with
    | none => List.replicate 64 Acc.zero
    | some n =>
      (List.range 64).map fun l =>
        let v := (Config.freeAcc n r l).toNat
        ⟨signedOf 192 v, bit v 192, bit v 193, bit v 194, bit v 195, bit v 196⟩

/-- Assay accumulator of a row. -/
def MatSt.assayRow (m : MatSt) (r : Nat) : Acc :=
  match aget r m.assay with
  | some x => x
  | none =>
    match m.free with
    | none => Acc.zero
    | some n =>
      let v := (Config.freeAcc n r 64).toNat
      ⟨signedOf 192 v, bit v 192, bit v 193, bit v 194, bit v 195, bit v 196⟩

/-- Element values of block j of a row or column that starts at byte start. -/
def blockVals (f : Fmt) (mx : Bool) (kp : Nat) (bs : List Byte) (row j : Nat) : List Val :=
  (List.range 32).map fun i =>
    decodeVal f mx (elemAt f.width ((bs.drop (row * kp * f.width / 8))) (32 * j + i))

/-- Scale code of a row or column for block j; 127 for an operand with mx = 0 (R49). -/
def scaleOf (mx : Bool) (nb : Nat) (ss : List Byte) (row j : Nat) : Nat :=
  if mx then (ss.getD (row * nb + j) 0).toNat else 127

/-- The assay operand of block j of a lane store (R84). -/
def LaneStore.assay (l : LaneStore) (j : Nat) : Option (List Int × Int) :=
  let v := l.view
  let cols := (List.range 64).map fun c => blockVals v.fmt v.mx (kPad v.k) l.data c j
  assayBlock ((List.range 32).map fun i => cols.map fun c => c.getD i (.fin false 0 0))
    ((List.range 64).map fun c => scaleOf v.mx (kBlocks v.k) l.scales c j)

/-- A block of the lane store is out of window (R84, Table 3.3 code 4). -/
def LaneStore.outOfWindow (l : LaneStore) : Bool :=
  (List.range (kBlocks l.view.k)).any fun j => (l.assay j).isNone

/-- One streamed row meets one column: every block of the row enters the accumulator (R49, R81). DESIGN CHOICE (log 62): the
padding of a last block is multiplied as it is read, and a padded zero against an infinity or NaN sets nan. -/
def rowLane (l : LaneStore) (d : Desc) (f : Fmt) (anchor : Int) (data scales : List Byte) (m lane : Nat) (a : Acc) : Acc :=
  (List.range (kBlocks d.k)).foldl (fun a j =>
    a.block anchor (blockVals f d.mx (kPad d.k) data m j) (blockVals l.view.fmt l.view.mx (kPad l.view.k) l.data lane j)
      (scaleOf d.mx (kBlocks d.k) scales m j) (scaleOf l.view.mx (kBlocks l.view.k) l.scales lane j)) a

/-- One streamed row meets the assay operand (R85). -/
def rowAssay (l : LaneStore) (d : Desc) (f : Fmt) (anchor : Int) (data scales : List Byte) (m : Nat) (a : Acc) : Acc :=
  (List.range (kBlocks d.k)).foldl (fun a j =>
    match l.assay j with
    | some w => a.assay anchor (blockVals f d.mx (kPad d.k) data m j) (scaleOf d.mx (kBlocks d.k) scales m j) w.1 w.2
    | none => a) a

/-- A wrong product of one multiplier enters an accumulator of a row below M (Glitch). -/
def applyProduct (g : Glitch) (m : Nat) (row : List Acc) : List Acc :=
  match g with
  | .product r lane delta =>
    if r.val = m then row.set lane.val ((row.getD lane.val Acc.zero).addExact delta) else row
  | _ => row

/-- An error of the core's own read (R157); the 101st corrected one in a powered hour recommends quarantine (Table 13.8). -/
def readGlitch (s : State) (c : Nat) (g : Glitch) : State :=
  match g with
  | .corrected line =>
    let s := modCore s c fun k => { k with eccCorr := min (k.eccCorr + 1) (2 ^ 32 - 1), eccLine := line % 2 ^ 14 }
    let p := pcidOf s c
    let was := bits (healthRec s p) 55 40
    let s := healthBump s p 55 40
    if was = 100 then recommend s (partOfPcid s p) 1 p 3 else s
  | .uncorrectable =>
    coreLost (modCore s c fun k => { k with eccUncorr := min (k.eccUncorr + 1) 255 }) c 1
  | _ => s

/-- The read is lost with the core (R157). -/
def glitchLost (g : Glitch) : Bool := g == .uncorrectable

/-- Lane-store load (R80, R84, R127): the lane store takes the operand and keeps its fmt, mx, k and anchor. -/
def runLoad (s : State) (c : Nat) (td : Word × Word) (loc : Loc) (serial : Nat) (g : Glitch) : State :=
  let d := descOf td.1 td.2
  let f := (Fmt.ofCode d.code).getD .fp32
  let b := inputBytes d f 64
  let data := locRead s c loc 0 b.1
  let scales := if d.ring then locRead s c loc b.1 b.2 else spmRead s c d.sbase b.2
  let s := modCore s c fun k => { k with mat := { k.mat with
    lane := some ⟨⟨f, d.mx, d.k, anchorOf d.anchor⟩, data, scales⟩ } }
  readGlitch (modCore s c fun k => k.markReady serial none) c g

/-- Multiply (R81, R83, R85): rows 0 to M - 1 of every lane and of the assay lane; clear zeroes all rows first. -/
def runMul (s : State) (c : Nat) (td : Word × Word) (f : MatFields) (loc : Loc) (serial : Nat) (g : Glitch) : State :=
  let d := descOf td.1 td.2
  let fm := (Fmt.ofCode d.code).getD .fp32
  let k := core s c
  match k.mat.lane with
  | none => s
  | some l =>
    let m := f.m1.toNat + 1
    let b := inputBytes d fm m
    let data := locRead s c loc 0 b.1
    let scales := if d.ring then locRead s c loc b.1 b.2 else spmRead s c d.sbase b.2
    let anchor := effAnchor l.view d fm f.anchor
    let mt := if f.clr then { k.mat with accs := [], assay := [], free := none } else k.mat
    let rows := (List.range m).map fun i =>
      (i, applyProduct g i ((List.range 64).map fun lane =>
        rowLane l d fm anchor data scales i lane ((mt.row i).getD lane Acc.zero)))
    let ass := (List.range m).map fun i => (i, rowAssay l d fm anchor data scales i (mt.assayRow i))
    let mt := { mt with anchor := some anchor, oow := (!f.clr && k.mat.oow) || l.outOfWindow,
                        accs := rows.foldl (fun t e => aput e.1 e.2 t) mt.accs,
                        assay := ass.foldl (fun t e => aput e.1 e.2 t) mt.assay }
    let s := setCore s c { k with mat := mt, tile := if f.clr then k.tile + 1 else k.tile,
                                  mblk := (k.mblk + 64 * m * kBlocks d.k) % 2 ^ 64 }
    readGlitch (modCore s c fun k => k.markReady serial none) c g

/-- Reason code of an unchecked tile for the compared rows; 0 when none applies (Table 3.3). -/
def tileReason (k : Core) (m : Nat) : Nat :=
  leastRow (((List.range m).map fun i => rowReason (k.mat.assayRow i :: k.mat.row i))
    ++ [if k.mat.oow then 4 else 0, if k.assayEn then 0 else 5])

/-- First row whose sum differs from its assay accumulator (R86, R87). -/
def firstMismatch (k : Core) (m : Nat) : Option Nat :=
  (List.range m).find? fun i => !rowEqual (k.mat.row i) (k.mat.assayRow i)

/-- An hour's compared and unchecked tiles of a position count on; code 7 is recommended when unchecked tiles pass 1 % of both
at its end (R418). -/
def countTile (s : State) (pcid : Nat) (unchecked : Bool) : State :=
  let t := agetD pcid (0, 0) s.health.hourTiles
  { s with health := { s.health with
      hourTiles := aput pcid (if unchecked then (t.1, t.2 + 1) else (t.1 + 1, t.2)) s.health.hourTiles } }

/-- Number of the current tile: tiles are numbered from 0 at task start, and the core has counted tile multiplies with
clear set (R83). -/
def tileNo (k : Core) : Nat := k.tile - 1

/-- A failed tile: CORE_ASSAY, the event, the position's record, the status and, with halt_on_assay, the stop (R87, R418). -/
def tileFail (s : State) (c row pc : Nat) (drill : Bool) : State :=
  let k := core s c
  let s := setCore s c { k with assayReg := BitVec.ofNat 10 (1 + bits k.assayReg.toNat 4 2 * 4 + row * 32) }
  let s := raiseCoreD s drill c 0x0103 (pf 17 5 row ||| pf 32 32 (tileNo k) ||| pf 64 32 k.step.toNat)
  let s := healthBump s (pcidOf s c) 15 8
  let s := if drill then s else makeSuspect s (pcidOf s c) 1
  if k.halt then faultStop s c 3 uMat 0 pc
  else
    modCore s c fun k =>
      if k.fault = 0 then { k with fault := faultWord 3 uMat 0 pc, faultPrc := s.prc, status := some (k.status.getD 3) }
      else k

/-- Comparison of a tile at a readout (R86 to R88); a drill inverts a bit of one assay accumulator (Table 13.10). DESIGN CHOICE
(log 64): a failed tile counts in neither field of CORE_ASSAY_CNT, and among the compared tiles of the hour. -/
def compareTile (s : State) (c m pc : Nat) : State :=
  let k := core s c
  let r := tileReason k m
  if r ≠ 0 then
    let a := BitVec.ofNat 10 (k.assayReg.toNat % 2 + 2 + r * 4 + bits k.assayReg.toNat 9 5 * 32)
    countTile (setCore s c { k with unchecked := (k.unchecked + 1) % 2 ^ 32, assayReg := a }) (pcidOf s c) true
  else
    let drill := drillWith s 1 (pcidOf s c)
    let found : Option Nat :=
      if drill then some (min (Config.drillRow s.fresh % m) ((firstMismatch k m).getD m)) else firstMismatch k m
    let s := if drill then drillOver { s with fresh := s.fresh + 1 } else s
    match found with
    | none =>
      let a := BitVec.ofNat 10 (setBits k.assayReg.toNat 1 1 0)
      countTile (setCore s c { k with checked := (k.checked + 1) % 2 ^ 32, assayReg := a }) (pcidOf s c) false
    | some row =>
      let s := if drill then s else countTile s (pcidOf s c) false
      tileFail (setCore s c { k with assayReg := BitVec.ofNat 10 (setBits k.assayReg.toNat 1 1 0) }) c row pc drill

/-- Convert a lane's outputs in row order, stepping its LFSR for each (R54, R57). -/
def convLane (mt : MatSt) (anchor : Int) (g : Fmt) (rnd : Nat) (ovf : Bool) (scale : BitVec 32) (lane : Nat) :
    Nat → Nat → BitVec 32 → List (Nat × Astat) × BitVec 32
  | 0, _, st => ([], st)
  | n + 1, row, st =>
    let d := drawRnd rnd st
    let x := ((mt.row row).getD lane Acc.zero).convert anchor g d.1 ovf scale
    let t := convLane mt anchor g rnd ovf scale lane n (row + 1) d.2
    (x :: t.1, t.2)

/-- Readout (R82, R86 to R88): outputs and flags, the comparison; exact records instead when the field is set. -/
def runRead (s : State) (c : Nat) (td : Word × Word) (f : MatFields) (loc : Loc) (serial pc : Nat) : State :=
  let d := descOf td.1 td.2
  let k := core s c
  let m := f.m1.toNat + 1
  let anchor := k.mat.anchor.getD 0
  let s :=
    if f.exact then
      locWrite s c loc 0 ((List.range m).flatMap fun r => (List.range 64).flatMap fun l =>
        ((k.mat.row r).getD l Acc.zero).toExact anchor) false
    else
      let g := (Fmt.ofCode d.code).getD .fp32
      let lanes := (List.range 64).map fun l =>
        convLane k.mat anchor g f.rnd.toNat f.ovf d.scale l m 0 (k.mat.lfsr.getD l 0)
      let codes := (List.range m).flatMap fun r => lanes.map fun t => ((t.1.getD r (0, 0)).1)
      let fl := orFlags (lanes.map fun t => orFlags (t.1.map (·.2)))
      let s := locWrite s c loc 0 (pack g.width codes) false
      modCore s c fun k => { k with mat := { k.mat with lfsr := lanes.map (·.2) }, astat := k.astat ||| fl }
  compareTile (modCore s c fun k => k.markReady serial none) c m pc

/-- Re-seed LFSRs (R58). -/
def seedAll (seed : BitVec 32) : List (BitVec 32) := (List.range 64).map (lfsrSeed seed)

/-- Run one entry of the matrix queue. -/
def runMatQ (s : State) (c : Nat) (q : MatQ) : State :=
  match q with
  | .load td loc serial g => runLoad s c td loc serial g
  | .mul td f loc serial g => runMul s c td f loc serial g
  | .read td f loc serial pc => runRead s c td f loc serial pc
  | .seed v => modCore s c fun k => { k with mat := { k.mat with lfsr := seedAll v } }

/-- The engine runs its queue in order unless matrix issue is paused (R386); fuel is the queue's four places. -/
def runMatrix : Nat → State → Nat → State
  | 0, s, _ => s
  | n + 1, s, c =>
    if s.clk.paused then s
    else
      match (core s c).mat.queue with
      | [] => s
      | q :: qs =>
        runMatrix n (runMatQ (modCore s c fun k => { k with mat := { k.mat with queue := qs } }) c q) c

/-- What the checks of later words go by after an mload or an mmul has dispatched (R48, R127). -/
def viewAfter (k : Core) (q : MatQ) : MatSt :=
  match q with
  | .load td _ _ _ =>
    let d := descOf td.1 td.2
    { k.mat with dLane := some ⟨(Fmt.ofCode d.code).getD .fp32, d.mx, d.k, anchorOf d.anchor⟩ }
  | .mul td f _ _ _ =>
    let d := descOf td.1 td.2
    match k.mat.dLane with
    | some l => { k.mat with dAnchor := some (effAnchor l d ((Fmt.ofCode d.code).getD .fp32) f.anchor) }
    | none => k.mat
  | _ => k.mat

/-- A matrix instruction enters the queue, and the engine runs (R510). -/
def matEnqueue (s : State) (c : Nat) (ranges : Core → List Range) (q : Core → MatQ) : State :=
  let k := core s c
  let e := q k
  let k := (k.declare false (ranges k)).advance (k.pc + 16)
  let mt := viewAfter k e
  runMatrix 4 (setCore s c { k with mat := { mt with queue := mt.queue ++ [e] } }) c

/-- The matrix queue is full (Table 3.1). -/
def matFull (k : Core) : Bool := decide (k.mat.queue.length ≥ 4)

/-- MLOAD (R80, R84, R127). -/
def execMload (c : CoreId) (f : MatFields) (g : Glitch) (s : State) : Host.Outcome State Fault Refusal :=
  .next (dispatch s c uMat false (mloadCheck f) (mloadRanges f) (fun _ => 0) matFull fun s =>
    matEnqueue s c (mloadRanges f) fun k =>
      .load (descPair k f.td) (descLoc k false (descOf (descPair k f.td).1 (descPair k f.td).2)) k.serial g)

/-- MMUL (R81, R83, R85). -/
def execMmul (c : CoreId) (f : MatFields) (g : Glitch) (s : State) : Host.Outcome State Fault Refusal :=
  .next (dispatch s c uMat false (mmulCheck f) (mmulRanges f) (fun _ => 0) matFull fun s =>
    matEnqueue s c (mmulRanges f) fun k =>
      .mul (descPair k f.td) f (descLoc k false (descOf (descPair k f.td).1 (descPair k f.td).2)) k.serial g)

/-- MREAD (R82, R86 to R88). -/
def execMread (c : CoreId) (f : MatFields) (_g : Glitch) (s : State) : Host.Outcome State Fault Refusal :=
  .next (dispatch s c uMat false (mreadCheck f) (mreadRanges f) (fun _ => 0) matFull fun s =>
    matEnqueue s c (mreadRanges f) fun k =>
      .read (descPair k f.td) f (descLoc k true (descOf (descPair k f.td).1 (descPair k f.td).2)) k.serial k.pc)

end Sys2Proof.Machine
end

