-- ==== Sys2Proof/Machine/Move.lean ====
section
/-!
DEFINITION. Move.lean: the move engine (R91 to R95, R140 to R144, R255): dispatch of moves, their start, the pieces they
send, their completion, signals and faults.
-/
namespace Sys2Proof.Machine

open Sys2Proof

/-! ## Dispatch -/

/-- Row count and strides of m2d (R143). -/
def shapeRows (v : Word) : Nat := bits v.toNat 63 48
def shapeSrc (v : Word) : Nat := bits v.toNat 23 0
def shapeDst (v : Word) : Nat := bits v.toNat 47 24

/-- Bytes that one side of a move spans: from the first to the last byte of its rows (R143). DESIGN CHOICE (log
70): a row count of 0, which check 7 refuses, counts as one row for check 5. -/
def movSpan (kind : Nat) (shape : Word) (stride len : Nat) : Nat :=
  if kind = 2 then (if len = 0 then 0 else (shapeRows shape - 1) * stride + len) else len

/-- The shape register, or the fill pattern register, at dispatch. -/
def movShape (f : MovFields) (k : Core) : Word := k.sreg f.rl.toNat

/-- A move has a local source, a local destination. -/
def movLocSrc (kind : Nat) (f : MovFields) : Bool := !f.srem && kind != 4
def movLocDst (f : MovFields) : Bool := !f.drem

/-- Length of the local source and of the local destination. -/
def srcSpan (kind : Nat) (f : MovFields) (k : Core) : Nat :=
  movSpan kind (movShape f k) (shapeSrc (movShape f k)) f.len.toNat
def dstSpan (kind : Nat) (f : MovFields) (k : Core) : Nat :=
  movSpan kind (movShape f k) (shapeDst (movShape f k)) f.len.toNat

/-- Ranges of a move (R92, Table 4.14). -/
def movRanges (kind : Nat) (f : MovFields) (k : Core) : List Range :=
  (if movLocSrc kind f then [opndRange k false (operand k f.src) (srcSpan kind f k)] else [])
    ++ (if movLocDst f then [opndRange k true (operand k f.dst) (dstSpan kind f k)] else [])

/-- Checks of a move word at dispatch (R142 to R144, Table 4.3). -/
def movCheck (kind : Nat) (f : MovFields) (k : Core) : Check :=
  Check.all
    [Check.need (!(kind == 3 && (f.srem || !f.drem)) && !(kind == 4 && f.srem) && !(f.sig && !f.drem)) .illegal,
     Check.need (!movLocSrc kind f || opndOk k false (operand k f.src) (srcSpan kind f k) 1) .illegal,
     Check.need (!movLocDst f || opndOk k true (operand k f.dst) (dstSpan kind f k) 1) .illegal,
     Check.need (kind != 2 || shapeRows (movShape f k) != 0) .format]

/-- The move queue has 16 places (Table 3.1). -/
def movFull (k : Core) : Bool := decide (k.movq.length ≥ 16)

/-- A dispatched move with what it read at dispatch (R73, R140). -/
def movOp (kind : Nat) (f : MovFields) (k : Core) : MoveOp :=
  { kind := kind, f := f, pc := k.pc, serial := k.serial, srcAddr := k.sreg f.rs.toNat, dstAddr := k.sreg f.rd.toNat,
    shape := movShape f k, src := opndLoc k false (operand k f.src), dst := opndLoc k true (operand k f.dst) }

/-- Dispatch of a move: it enters the move queue (R91). -/
def movDispatch (s : State) (c kind : Nat) (f : MovFields) : State :=
  dispatch s c uMov false (movCheck kind f) (movRanges kind f) (fun _ => 0) movFull fun s =>
    modCore s c fun k =>
      let k' := (k.declare false (movRanges kind f k)).advance (k.pc + 16)
      { k' with movq := k'.movq ++ [movOp kind f k] }

/-- MCOPY (R91). -/
def execMcopy (c : CoreId) (f : MovFields) (s : State) : Host.Outcome State Fault Refusal := .next (movDispatch s c 1 f)

/-- M2D (R143). -/
def execM2d (c : CoreId) (f : MovFields) (s : State) : Host.Outcome State Fault Refusal := .next (movDispatch s c 2 f)

/-- MCONTRIB (R255). -/
def execMcontrib (c : CoreId) (f : MovFields) (s : State) : Host.Outcome State Fault Refusal :=
  .next (movDispatch s c 3 f)

/-- MFILL (R142). -/
def execMfill (c : CoreId) (f : MovFields) (s : State) : Host.Outcome State Fault Refusal := .next (movDispatch s c 4 f)

/-! ## Channels -/

/-- Channel ch of a core. -/
def Core.chan (k : Core) (ch : Nat) : Chan := agetD ch Chan.idle k.chans

def Core.setChan (k : Core) (ch : Nat) (x : Chan) : Core := { k with chans := aput ch x k.chans }

/-- The message carries data of a move of the channel. -/
def isMovData (c ch : Nat) : Purpose → Bool
  | .movRead c' ch' _ => c' == c && ch' == ch
  | .movWrite c' ch' => c' == c && ch' == ch
  | .movCredit c' ch' _ => c' == c && ch' == ch
  | .movContrib c' ch' => c' == c && ch' == ch
  | _ => false

/-- Open data messages of a channel. -/
def openData (s : State) (c ch : Nat) : Nat := (s.fab.msgs.filter fun m => isMovData c ch m.purpose).length

/-- Read requests of a channel that are outstanding (R94). -/
def openReads (s : State) (c ch : Nat) : Nat :=
  (s.fab.msgs.filter fun m => match m.purpose with
    | .movRead c' ch' _ => c' == c && ch' == ch
    | _ => false).length

/-- A move fails (R95): the event, the channel stops, the moves behind it are discarded, and the task stops. -/
def moveFault (s : State) (c ch cause : Nat) (a : Word) : State :=
  let k := core s c
  match (k.chan ch).mv with
  | none => s
  | some m =>
    let dead := m.serial :: (k.movq.filter fun q => q.f.ch.toNat == ch).map (·.serial)
    let k := { dead.foldl (fun k i => k.discard i) k with
      movq := k.movq.filter fun q => q.f.ch.toNat != ch }
    let s := setCore s c (k.setChan ch ⟨.stopped, some m, []⟩)
    let s := raiseCore s c 0x0105 (pf 17 3 ch ||| pf 20 4 cause ||| pf 64 64 a.toNat)
    faultStop s c 6 uMov ch m.pc

/-! ## Pieces -/

/-- Bytes of one side that a message may cover from a place: a granule of space 0x0, else a whole message (R208, R242). -/
def sideRoom : Side → Nat
  | .rem a => if spaceOf a = 0 then 4096 - a.toNat % 4096 else 24576
  | _ => 24576

/-- A side moved on by n bytes. -/
def Side.plus (x : Side) (n : Nat) : Side :=
  match x with
  | .loc i => .loc (i + n)
  | .rem a => .rem (a + BitVec.ofNat 64 n)
  | .data bs => if bs.isEmpty then .data bs else .data (bs.drop (n % bs.length) ++ bs.take (n % bs.length))
  | .free m i => .free m (i + n)
  | .drop => .drop

/-- Split a row into pieces of one message on each side. -/
def splitRow : Nat → Side → Side → Nat → List Piece
  | 0, _, _, _ => []
  | fuel + 1, x, y, n =>
    if n = 0 then []
    else
      let m := min n (min (sideRoom x) (sideRoom y))
      ⟨x, y, m⟩ :: splitRow fuel (x.plus m) (y.plus m) (n - m)

/-- Pieces of n bytes from x to y. -/
def pieces (x y : Side) (n : Nat) : List Piece := splitRow (n / 2048 + 3) x y n

/-- Sides of a move. -/
def MoveOp.srcSide (m : MoveOp) : Side :=
  if m.kind = 4 then .data (leBytes 4 (m.shape.toNat % 2 ^ 32)) else if m.f.srem then .rem m.srcAddr else .loc 0

def MoveOp.dstSide (m : MoveOp) : Side := if m.f.drem then .rem m.dstAddr else .loc 0

/-- The destination bytes [a, b) that row i of an m2d alone writes, where the destination stride ds is less than the row's n
bytes (R143). -/
def rowOwn (n r ds i : Nat) : Nat × Nat :=
  let a := if i = 0 then 0 else (i - 1) * ds + n
  (a, max a (if i + 1 = r then i * ds + n else (i + 1) * ds))

/-- The destination bytes [a, b) after row i's own that it shares with the next row, up to those of the row after that. -/
def rowShared (n r ds i : Nat) : Nat × Nat :=
  ((i + 1) * ds, if i + 2 = r then i * ds + n else min (i * ds + n) ((i + 2) * ds))

/-- Row i of an m2d whose destination rows overlap: its own bytes are written, shared bytes are free, and what a remote
source gives for them is read and not kept (R143, log 33). -/
def overlapRow (m : MoveOp) (fresh i : Nat) : List Piece :=
  let n := m.f.len.toNat
  let r := shapeRows m.shape
  let ds := shapeDst m.shape
  let own := rowOwn n r ds i
  let shared := rowShared n r ds i
  let src := m.srcSide.plus (i * shapeSrc m.shape)
  let drop (a b : Nat) : List Piece := if m.f.srem then pieces (src.plus (a - i * ds)) .drop (b - a) else []
  drop (i * ds) own.1 ++ pieces (src.plus (own.1 - i * ds)) (m.dstSide.plus own.1) (own.2 - own.1)
    ++ drop own.2 (i * ds + n)
    ++ (if i + 1 < r then pieces (.free fresh shared.1) (m.dstSide.plus shared.1) (shared.2 - shared.1) else [])

/-- Pieces of an m2d (R143): its rows in order. -/
def rowPieces (m : MoveOp) (fresh : Nat) : List Piece :=
  let n := m.f.len.toNat
  let r := shapeRows m.shape
  let ss := shapeSrc m.shape
  let ds := shapeDst m.shape
  if n = 0 then []
  else if ds < n ∧ 1 < r then (List.range r).flatMap (overlapRow m fresh)
  else (List.range r).flatMap fun i => pieces (m.srcSide.plus (i * ss)) (m.dstSide.plus (i * ds)) n

/-- Pieces of a move. -/
def MoveOp.pieces (m : MoveOp) (fresh : Nat) : List Piece :=
  if m.kind = 2 then rowPieces m fresh else Sys2Proof.Machine.pieces m.srcSide m.dstSide m.f.len.toNat

/-! ## Sending -/

/-- Bytes of the source side of a piece that the core holds itself. -/
def sideBytes (s : State) (c : Nat) (m : MoveOp) (x : Side) (n : Nat) : List Byte :=
  match x with
  | .loc i => locRead s c m.src i n
  | .data bs => (List.range n).map fun i => bs.getD (i % bs.length) 0
  | .free f i => (List.range n).map fun j => Config.freeByte f (i + j)
  | _ => []

/-- Stream and byte offset of a reduce port (Table 7.2). -/
def portStream (off : Nat) : Nat := bits off 27 22
def portPos (off : Nat) : Nat := bits off 21 0

/-- Request for credits of a contribution (Table 7.6). -/
def creditReq (d : Dest) (n : Nat) : Req :=
  ⟨0, 6, [(d.cellOff, leBytes 1 (portStream d.off) ++ leBytes 1 0 ++ leBytes 2 n)], 1⟩

/-- A contribution, as granted (R252, R255). -/
def contribReq (off : Nat) (bs : List Byte) : Req :=
  ⟨3, 0x18, (cellsOf bs).map fun c => (off + 48 * c.1, c.2), 1⟩

/-- The channel has a credit request or an open retry (R255). -/
def creditOpen (s : State) (c ch : Nat) : Bool :=
  s.fab.msgs.any fun m => match m.purpose with
    | .movCredit c' ch' _ => c' == c && ch' == ch
    | _ => false

/-- What sending one piece gives: the state with the piece sent, or why it is not. -/
inductive Pump where
  | go (s : State)
  | hold
  | fail (cause : Nat) (a : Word)
  deriving DecidableEq, Repr

/-- Outcome of a send for the pump. -/
def Sent.pump (a : Word) : Sent → Pump
  | .sent s => .go s
  | .refused n => .fail n a
  | .noTag => .hold

/-- Send one piece of a move. -/
def sendPiece (s : State) (c ch : Nat) (m : MoveOp) (p : Piece) : Pump :=
  let part := corePart s c
  match p.src, p.dst with
  | .rem a, d =>
    if openReads s c ch ≥ 32 then .hold
    else (sendTo s (epCore c) part (.movRead c ch d) a fun t => some (readReq t.cellOff p.len)).pump a
  | x, .loc i => .go (locWrite s c m.dst i (sideBytes s c m x p.len) false)
  | x, .rem a =>
    if m.kind = 3 then
      if creditOpen s c ch then .hold
      else (sendTo s (epCore c) part (.movCredit c ch p.len) a fun t => some (creditReq t ((p.len + 47) / 48))).pump a
    else
      (sendTo s (epCore c) part (.movWrite c ch) a fun t =>
        some (writeReq 1 t.cellOff (sideBytes s c m x p.len))).pump a
  | _, _ => .go s

/-- Ranges whose accesses are all made become ready to retire (R75). -/
def movSettle (s : State) (c ch : Nat) : State :=
  let x := (core s c).chan ch
  match x.mv with
  | some m =>
    if x.todo.isEmpty then
      let s := modCore s c fun k => k.markReady m.serial (some false)
      if openData s c ch = 0 then modCore s c fun k => k.markReady m.serial (some true) else s
    else s
  | none => s

/-- Send what the channel may send, in order. A piece of an mcontrib stays at the head until its credits come. -/
def pump : Nat → State → Nat → Nat → State
  | 0, s, _, _ => s
  | n + 1, s, c, ch =>
    let x := (core s c).chan ch
    match x.phase, x.mv, x.todo with
    | .busy, some m, p :: ps =>
      match sendPiece s c ch m p with
      | .go t =>
        if m.kind = 3 then t
        else pump n (modCore t c fun k => k.setChan ch { x with todo := ps }) c ch
      | .hold => s
      | .fail cause a => moveFault s c ch cause a
    | _, _, _ => s

/-- Run a channel until it waits. -/
def runChan (s : State) (c ch : Nat) : State :=
  movSettle (pump (((core s c).chan ch).todo.length) s c ch) c ch

/-- The first panel address of a move that its opcode does not take (R142). DESIGN CHOICE (log 69): of two such addresses it is
the source's. -/
def badAddr (m : MoveOp) : Option Word :=
  let ok (a : Word) : Bool := [0, 1, 2, 4, 6].contains (spaceOf a)
  if m.kind = 3 then (if spaceOf m.dstAddr = 4 then none else some m.dstAddr)
  else if m.kind ≠ 4 ∧ m.f.srem = true ∧ ok m.srcAddr = false then some m.srcAddr
  else if m.f.drem = true ∧ ok m.dstAddr = false then some m.dstAddr
  else none

/-- Units go on while the task runs or drains. -/
def unitsRun (s : State) (c : Nat) : Bool :=
  ((core s c).st == .run || (core s c).st == .drain) && clocked s c

/-- MOVE_START (R91, R142): an idle channel takes its first queued move and checks its panel addresses. A double-bit error in
the local source loses the core (R157). -/
def execMoveStart (c : CoreId) (ch : ChanNo) (g : Glitch) (s : State) : Host.Outcome State Fault Refusal :=
  .next
    (let k := core s c
     if unitsRun s c && (k.chan ch).phase == .idle then
       match k.movq.find? fun m => m.f.ch.toNat == ch.val with
       | none => s
       | some m =>
         let k := { k with movq := dropFirst (fun q => q.f.ch.toNat == ch.val) k.movq }
         let s := setCore s c (k.setChan ch ⟨.busy, some m, m.pieces s.fresh⟩)
         let s := { s with fresh := s.fresh + 1 }
         match badAddr m with
         | some a => moveFault (reservedAccess s (epCore c) (partOfCore s c) a) c ch 1 a
         | none =>
           let reads := movLocSrc m.kind m.f && m.f.len != 0
           let s := if reads then readGlitch s c g else s
           if reads && glitchLost g then s else runChan s c ch
     else s)

/-! ## Responses to a move -/

/-- Data of a read arrives: it is written, or passes through the channel to the destination (R142). -/
def movData (s : State) (c ch : Nat) (dst : Side) (bs : List Byte) : State :=
  let x := (core s c).chan ch
  match x.phase, x.mv with
  | .busy, some m =>
    match dst with
    | .loc i => runChan (locWrite s c m.dst i bs false) c ch
    | .rem a => runChan (modCore s c fun k => k.setChan ch { x with todo := ⟨.data bs, .rem a, bs.length⟩ :: x.todo }) c ch
    | _ => runChan s c ch
  | _, _ => s

/-- A message of a move is acknowledged. -/
def movAck (s : State) (c ch : Nat) : State := runChan s c ch

/-- A message of a move has failed: cause 1 address-error, 2 reset-nack, 3 core-absent, 4 timeout. -/
def movFail (s : State) (c ch cause : Nat) (a : Word) : State :=
  match ((core s c).chan ch).phase with
  | .busy => moveFault s c ch cause a
  | .signal => moveFault s c ch cause a
  | .retry _ => moveFault s c ch cause a
  | _ => s

/-- A credit-grant arrives (R254, R255): granted cells are sent; none asks for a retry; status 1 or 2 is a fault. -/
def movGrant (s : State) (c ch : Nat) (status granted : Nat) (a : Word) : State :=
  let x := (core s c).chan ch
  match x.phase, x.mv, x.todo with
  | .busy, some m, p :: ps =>
    if status ≠ 0 then moveFault s c ch 5 a
    else if granted = 0 then
      modCore s c fun k => k.setChan ch { x with phase := .retry (s.prc + usTicks (dget s 0x5000 3)) }
    else
      let n := min p.len (48 * granted)
      match sendTo s (epCore c) (corePart s c) (.movContrib c ch) a
          (fun t => some (contribReq t.cellOff (sideBytes s c m p.src n))) with
      | .sent t =>
        let rest : List Piece := if n < p.len then ⟨p.src.plus n, p.dst.plus n, p.len - n⟩ :: ps else ps
        runChan (modCore t c fun k => k.setChan ch { x with todo := rest }) c ch
      | .refused cause => moveFault s c ch cause a
      | .noTag => modCore s c fun k => k.setChan ch { x with phase := .retry s.prc }
  | _, _, _ => s

/-- The wait after a grant of none has passed. -/
def chanRetryDue (s : State) (c ch : Nat) : Bool :=
  match ((core s c).chan ch).phase with
  | .retry due => decide (due ≤ s.prc)
  | _ => false

/-- After a grant of none and busy_backoff, the channel asks again (R254). -/
def chanRetry (s : State) (c ch : Nat) : State :=
  if unitsRun s c && chanRetryDue s c ch then
    runChan (modCore s c fun k => k.setChan ch { k.chan ch with phase := .busy }) c ch
  else s

/-- Every byte of the move is visible at its destination (R93). -/
def movDone (s : State) (c ch : Nat) : Bool :=
  ((core s c).chan ch).phase == .busy && ((core s c).chan ch).todo.isEmpty && openData s c ch == 0

/-- The signal of a completed move (R93, R144). -/
def movSignal (s : State) (c ch : Nat) (m : MoveOp) : State :=
  let sp := spaceOf m.dstAddr
  if sp = 2 ∨ sp = 6 then
    match sendTo s (epCore c) (corePart s c) (.movSig c ch) m.dstAddr (fun _ => some (signalReq m.f.sctr.toNat)) with
    | .sent t => modCore t c fun k => k.setChan ch ⟨.signal, some m, []⟩
    | .refused cause => moveFault s c ch cause m.dstAddr
    | .noTag => s
  else moveFault s c ch 6 m.dstAddr

/-- MOVE_COMPLETE (R93): lev, then sig; a channel without a signal is idle at once. -/
def execMoveComplete (c : CoreId) (ch : ChanNo) (s : State) : Host.Outcome State Fault Refusal :=
  .next
    (if unitsRun s c && movDone s c ch then
       match ((core s c).chan ch).mv with
       | none => s
       | some m =>
         if m.f.sig && freeTag s (epCore c) == 1024 then s
         else
           let s := movSettle s c ch
           let s := if m.f.lev then modCore s c fun k => k.bumpEv m.f.lctr.toNat else s
           if m.f.sig then movSignal s c ch m else modCore s c fun k => k.setChan ch Chan.idle
     else s)

/-- The signal of a move is acknowledged: the channel is idle. -/
def movSigAck (s : State) (c ch : Nat) : State :=
  if ((core s c).chan ch).phase = .signal then modCore s c fun k => k.setChan ch Chan.idle else s

end Sys2Proof.Machine
end

