-- ==== Sys2Proof/Machine/Sync.lean ====
section
/-!
DEFINITION. Sync.lean: the sync unit (R96 to R101, R145, R146, R510): its queue, event counters, waits, signals and
barriers.
-/
namespace Sys2Proof.Machine

open Sys2Proof

/-- The value v of a sync word (R145). -/
def synVal (f : SynFields) (k : Core) : BitVec 32 := (k.sreg f.rs.toNat).setWidth 32 + f.imm

/-- A sync instruction without scratchpad ranges that acts at dispatch; it is a sync point (R101, R145). -/
def synDispatch (s : State) (c : Nat) (wait : Core → Nat) (act : State → State) : State :=
  dispatch s c uSyn true (fun _ => .pass) (fun _ => []) wait (fun _ => false) act

/-- A counter has reached a target, after wrapping too (R96). -/
def reached (e t : BitVec 32) : Bool := decide ((e - t).toNat < 2 ^ 31)

/-- EWAIT (R96): dispatch waits under the sixth row of Table 3.2 while the condition is false. -/
def execEwait (c : CoreId) (f : SynFields) (s : State) : Host.Outcome State Fault Refusal :=
  .next (synDispatch s c (fun k => if reached (k.ev f.ctr.toNat) (synVal f k) then 0 else 6) fun s =>
    modCore s c fun k => k.advance (k.pc + 16))

/-- A task stops with the address-fault status (R146, R149). -/
def addressFault (s : State) (c unit pc : Nat) : State := faultStop s c 9 unit 0 pc

/-- The space of a signal's address has counters (R146). -/
def sigSpace (a : Word) : Bool := spaceOf a == 2 || spaceOf a == 6

/-- ESIG at the head of the sync queue (R146). -/
def esigSend (s : State) (c ctr : Nat) (a : Word) (pc : Nat) : State :=
  if sigSpace a then
    match sendTo s (epCore c) (corePart s c) (.esig c pc) a (fun _ => some (signalReq ctr)) with
    | .sent t => t
    | _ => addressFault s c uSyn pc
  else faultStop s c 7 uSyn 0 pc

/-- Run one entry of the sync queue. -/
def runSynQ (s : State) (c : Nat) : SynQ → State
  | .set n v => modCore s c fun k => k.setEv n v
  | .add n v => modCore s c fun k => k.setEv n (k.ev n + v)
  | .sig n a pc => esigSend s c n a pc

/-- A signal waits for a tag (log 38). -/
def synWaits (s : State) (c : Nat) : SynQ → Bool
  | .sig _ a _ => sigSpace a && freeTag s (epCore c) == 1024
  | _ => false

/-- The sync unit runs its queue in order until a signal waits; fuel is the queue's eight places and the entry that has just
entered. -/
def runSync : Nat → State → Nat → State
  | 0, s, _ => s
  | n + 1, s, c =>
    if unitsRun s c then
      match (core s c).synq with
      | [] => s
      | q :: qs => if synWaits s c q then s else runSync n (runSynQ (modCore s c fun k => { k with synq := qs }) c q) c
    else s

/-- The sync queue is full (Table 3.1). -/
def synFull (k : Core) : Bool := decide (k.synq.length ≥ 8)

/-- A sync instruction that acts in the queue enters it, and the unit runs; it is a sync point (R101, R145, R510). -/
def synEnqueue (s : State) (c : Nat) (q : Core → SynQ) : State :=
  dispatch s c uSyn true (fun _ => .pass) (fun _ => []) (fun _ => 0) synFull fun s =>
    runSync 9 (modCore s c fun k => { k.advance (k.pc + 16) with synq := k.synq ++ [q k] }) c

/-- ESET (R145). -/
def execEset (c : CoreId) (f : SynFields) (s : State) : Host.Outcome State Fault Refusal :=
  .next (synEnqueue s c fun k => .set f.ctr.toNat (synVal f k))

/-- EADD (R145). -/
def execEadd (c : CoreId) (f : SynFields) (s : State) : Host.Outcome State Fault Refusal :=
  .next (synEnqueue s c fun k => .add f.ctr.toNat (synVal f k))

/-- ESIG (R146): it waits at the head of the queue while no tag is free. -/
def execEsig (c : CoreId) (f : SynFields) (s : State) : Host.Outcome State Fault Refusal :=
  .next (synEnqueue s c fun k => .sig f.ctr.toNat (k.sreg f.rs.toNat) k.pc)

/-- Members of a barrier context of a launch (R100, R316). -/
def barrierCores (m : Cmd) (ctx : Nat) : List Nat := if ctx = 0 then m.cores else m.groups.getD (ctx - 1) []

/-- The core is a member of a context of its launch (R316). -/
def barrierMember (s : State) (c ctx : Nat) : Bool :=
  match (core s c).launch with
  | some (r, i) =>
    match findCmd s r.val i with
    | some m => (barrierCores m ctx).contains c
    | none => false
  | none => false

/-- BAR (R100, R316): the core joins the barrier and dispatches nothing until its release; a context whose group does not
hold the core completes at once. -/
def execBar (c : CoreId) (f : SynFields) (s : State) : Host.Outcome State Fault Refusal :=
  .next (synDispatch s c (fun _ => 0) fun s =>
    if barrierMember s c f.bctx.toNat then modCore s c fun k => { k.advance k.pc with hold := .barrier f.bctx.toNat }
    else modCore s c fun k => k.advance (k.pc + 16))

/-- A core waits at a context. -/
def atBarrier (k : Core) (ctx : Nat) : Bool := k.st == .run && k.hold == .barrier ctx

/-- A core leaves a barrier. -/
def releaseCore (k : Core) : Core := { k.advance (k.pc + 16) with hold := .none }

/-- BARRIER_RELEASE (R100): every member of the launch's context has arrived, and all of them go on. -/
def execBarrierRelease (r : RingNo) (slot : Nat) (ctx : Fin 4) (s : State) : Host.Outcome State Fault Refusal :=
  .next
    (match findCmd s r slot with
     | some m =>
       let l := barrierCores m ctx
       if !l.isEmpty && l.all (fun c => atBarrier (core s c) ctx && clocked s c) then
         l.foldl (fun t c => modCore t c releaseCore) s
       else s
     | none => s)

end Sys2Proof.Machine
end

