-- ==== Sys2Proof/Machine/Words.lean ====
section
/-!
DEFINITION. Words.lean: instruction words of 128 bits (R114 to R118): the header, the class fields of Tables 4.7, 4.10, 4.13,
4.15 and 4.17, the opcodes of Tables 4.8, 4.11, 4.14, 4.16 and 4.18, the command that a word spells, and the word of a
command. The opcode table gives its rows no bits, so decodeTableWord does not come here (log 71).
-/
namespace Sys2Proof.Machine

open Sys2Proof

/-- Header of a word (Table 4.1). -/
def wordCls (w : BitVec 128) : Nat := bits w.toNat 127 124
def wordVer (w : BitVec 128) : Nat := bits w.toNat 123 120
def wordOp (w : BitVec 128) : Nat := bits w.toNat 119 112

/-- Class fields of a matrix word (Table 4.7). -/
def matFields (w : BitVec 128) : MatFields :=
  { td := w.extractLsb' 107 5, m1 := w.extractLsb' 102 5, clr := w.getLsbD 101, rnd := w.extractLsb' 99 2,
    ovf := w.getLsbD 98, exact := w.getLsbD 97, anchor := w.extractLsb' 88 8 }

/-- Class fields of a vector word (Table 4.10). -/
def vecFields (w : BitVec 128) : VecFields :=
  { vd := w.extractLsb' 107 5, va := w.extractLsb' 102 5, vb := w.extractLsb' 97 5, vc := w.extractLsb' 92 5,
    pg := w.extractLsb' 89 3, pen := w.getLsbD 88, fmt := w.extractLsb' 84 4, fmt2 := w.extractLsb' 80 4,
    mx2 := w.getLsbD 79, rnd := w.extractLsb' 77 2, ovf := w.getLsbD 76, rs := w.extractLsb' 71 5, bs := w.getLsbD 70,
    pd := w.extractLsb' 67 3, cond := w.extractLsb' 64 3, spo := w.extractLsb' 0 24 }

/-- Class fields of a move word (Table 4.13). -/
def movFields (w : BitVec 128) : MovFields :=
  { ch := w.extractLsb' 109 3, srem := w.getLsbD 108, drem := w.getLsbD 107, rs := w.extractLsb' 102 5,
    rd := w.extractLsb' 97 5, rl := w.extractLsb' 92 5, lev := w.getLsbD 91, lctr := w.extractLsb' 85 6,
    sig := w.getLsbD 84, sctr := w.extractLsb' 78 6, len := w.extractLsb' 48 24, src := w.extractLsb' 24 24,
    dst := w.extractLsb' 0 24 }

/-- Class fields of a sync word (Table 4.15). -/
def synFields (w : BitVec 128) : SynFields :=
  { ctr := w.extractLsb' 106 6, rs := w.extractLsb' 101 5, bctx := w.extractLsb' 99 2, imm := w.extractLsb' 64 32 }

/-- Class fields of a control word (Table 4.17). -/
def ctlFields (w : BitVec 128) : CtlFields :=
  { rd := w.extractLsb' 107 5, ra := w.extractLsb' 102 5, rb := w.extractLsb' 97 5, im := w.getLsbD 96,
    imm := w.extractLsb' 0 64 }

/-- How a row of the opcode tables takes its fields. -/
inductive WordForm where
  | mat (i : CoreId → MatFields → Glitch → Instr)
  | vec (i : CoreId → VecFields → Glitch → Instr)
  | mov (i : CoreId → MovFields → Instr)
  | syn (i : CoreId → SynFields → Instr)
  | ctl (i : CoreId → CtlFields → Instr)
  /-- A local load, whose read may meet an ECC error. -/
  | ld (i : CoreId → CtlFields → Glitch → Instr)

/-- Matrix opcodes (Table 4.8). -/
def matOps : Assoc WordForm := [(0x01, .mat .mload), (0x02, .mat .mmul), (0x03, .mat .mread)]

/-- Vector opcodes (Table 4.11). -/
def vecOps : Assoc WordForm :=
  [(0x01, .vec .vld), (0x02, .vec .vst), (0x03, .vec .vmov), (0x04, .vec .vbcast), (0x05, .vec .vtload),
   (0x06, .vec .vpset), (0x07, .vec .vpst), (0x10, .vec .vadd), (0x11, .vec .vsub), (0x12, .vec .vmul),
   (0x13, .vec .vfma), (0x14, .vec .vmin), (0x15, .vec .vmax), (0x16, .vec .vdiv), (0x17, .vec .vsqrt),
   (0x18, .vec .vabs), (0x19, .vec .vneg), (0x20, .vec .vand), (0x21, .vec .vor), (0x22, .vec .vxor),
   (0x23, .vec .vshl), (0x24, .vec .vshr), (0x25, .vec .vsra), (0x30, .vec .vcmp), (0x31, .vec .vsel),
   (0x38, .vec .vredsum), (0x39, .vec .vredmax), (0x3A, .vec .vredmin), (0x40, .vec .vact), (0x48, .vec .vcvt),
   (0x49, .vec .vmxp), (0x4A, .vec .vmxu)]

/-- Move opcodes (Table 4.14). -/
def movOps : Assoc WordForm := [(0x01, .mov .mcopy), (0x02, .mov .m2d), (0x03, .mov .mcontrib), (0x04, .mov .mfill)]

/-- Sync opcodes (Table 4.16). -/
def synOps : Assoc WordForm :=
  [(0x01, .syn .eset), (0x02, .syn .eadd), (0x03, .syn .ewait), (0x04, .syn .esig), (0x05, .syn .bar)]

/-- Control opcodes (Table 4.18). -/
def ctlOps : Assoc WordForm :=
  [(0x01, .ctl .add), (0x02, .ctl .sub), (0x03, .ctl .mul), (0x04, .ctl .andOp), (0x05, .ctl .orOp), (0x06, .ctl .xorOp),
   (0x07, .ctl .shl), (0x08, .ctl .shr), (0x09, .ctl .sra), (0x0A, .ctl .slt), (0x0B, .ctl .sltu), (0x10, .ctl .beq),
   (0x11, .ctl .bne), (0x12, .ctl .blt), (0x13, .ctl .bge), (0x14, .ctl .bltu), (0x15, .ctl .bgeu), (0x16, .ctl .jal),
   (0x17, .ctl .jalr), (0x20, .ld .ld1u), (0x21, .ld .ld2u), (0x22, .ld .ld4u), (0x23, .ld .ld8), (0x24, .ld .ld1s),
   (0x25, .ld .ld2s), (0x26, .ld .ld4s), (0x28, .ctl .st1), (0x29, .ctl .st2), (0x2A, .ctl .st4), (0x2B, .ctl .st8),
   (0x2C, .ctl .ldp), (0x2D, .ctl .stp), (0x30, .ctl .ifence), (0x31, .ctl .rseed), (0x32, .ctl .endTask),
   (0x35, .ctl .rprc)]

/-- Opcodes of a class (R115, R117, Table 4.2); a class that is not listed has none. -/
def classOps (cls : Nat) : Assoc WordForm :=
  match cls with
  | 1 => matOps
  | 2 => vecOps
  | 3 => movOps
  | 4 => synOps
  | 5 => ctlOps
  | _ => []

/-- The row of a word that passes checks 1 to 3 of Table 4.3: its class and opcode are listed and its version is 1 (R115 to
R117). -/
def wordForm (w : BitVec 128) : Option WordForm :=
  if wordVer w = 1 then aget (wordOp w) (classOps (wordCls w)) else none

/-- The word is an instruction. -/
def isInstruction (w : BitVec 128) : Bool := (wordForm w).isSome

/-- The command of a row with the fields of a word (R118: reserved fields are ignored); g is what the core's own hardware
does wrong. -/
def WordForm.instr (c : CoreId) (w : BitVec 128) (g : Glitch) : WordForm → Instr
  | .mat i => i c (matFields w) g
  | .vec i => i c (vecFields w) g
  | .mov i => i c (movFields w)
  | .syn i => i c (synFields w)
  | .ctl i => i c (ctlFields w)
  | .ld i => i c (ctlFields w) g

/-- The command that a word spells for a core; none for a word that is no instruction, whose command is
ILLEGAL_INSTRUCTION (R114 to R118). -/
def wordInstr (c : CoreId) (w : BitVec 128) (g : Glitch) : Option Instr := (wordForm w).map fun r => r.instr c w g

/-- The word at a core's program counter: 16 bytes of its own scratchpad, the lowest byte first (R68, R114). -/
def wordAtPc (s : State) (c : Nat) : BitVec 128 := BitVec.ofNat 128 (leNat (spmRead s c (core s c).pc 16))

/-! ## Encoding -/

/-- Header of a word (Table 4.1). -/
def header (cls op : Nat) : BitVec 128 := BitVec.ofNat 128 (cls % 16 * 2 ^ 124 + 2 ^ 120 + op % 256 * 2 ^ 112)

/-- A field whose lowest bit is lo. -/
def field {n : Nat} (lo : Nat) (v : BitVec n) : BitVec 128 := v.setWidth 128 <<< lo

def flagAt (lo : Nat) (b : Bool) : BitVec 128 := field lo (BitVec.ofBool b)

/-- A matrix word (Table 4.7). -/
def MatFields.word (op : Nat) (f : MatFields) : BitVec 128 :=
  header 1 op ||| field 107 f.td ||| field 102 f.m1 ||| flagAt 101 f.clr ||| field 99 f.rnd ||| flagAt 98 f.ovf
    ||| flagAt 97 f.exact ||| field 88 f.anchor

/-- A vector word (Table 4.10). -/
def VecFields.word (op : Nat) (f : VecFields) : BitVec 128 :=
  header 2 op ||| field 107 f.vd ||| field 102 f.va ||| field 97 f.vb ||| field 92 f.vc ||| field 89 f.pg
    ||| flagAt 88 f.pen ||| field 84 f.fmt ||| field 80 f.fmt2 ||| flagAt 79 f.mx2 ||| field 77 f.rnd ||| flagAt 76 f.ovf
    ||| field 71 f.rs ||| flagAt 70 f.bs ||| field 67 f.pd ||| field 64 f.cond ||| field 0 f.spo

/-- A move word (Table 4.13). -/
def MovFields.word (op : Nat) (f : MovFields) : BitVec 128 :=
  header 3 op ||| field 109 f.ch ||| flagAt 108 f.srem ||| flagAt 107 f.drem ||| field 102 f.rs ||| field 97 f.rd
    ||| field 92 f.rl ||| flagAt 91 f.lev ||| field 85 f.lctr ||| flagAt 84 f.sig ||| field 78 f.sctr ||| field 48 f.len
    ||| field 24 f.src ||| field 0 f.dst

/-- A sync word (Table 4.15). -/
def SynFields.word (op : Nat) (f : SynFields) : BitVec 128 :=
  header 4 op ||| field 106 f.ctr ||| field 101 f.rs ||| field 99 f.bctx ||| field 64 f.imm

/-- A control word (Table 4.17). -/
def CtlFields.word (op : Nat) (f : CtlFields) : BitVec 128 :=
  header 5 op ||| field 107 f.rd ||| field 102 f.ra ||| field 97 f.rb ||| flagAt 96 f.im ||| field 0 f.imm

end Sys2Proof.Machine
end

