-- ==== Sys2Proof/Machine/Control.lean ====
section
/-!
DEFINITION. Control.lean: the scalar sequencer's instructions (R67, R70 to R72, R105, R147 to R151) and the words that reach
dispatch and are no instruction (R68, R115 to R117).
-/
namespace Sys2Proof.Machine

open Sys2Proof

/-- The second operand of a control word (R147). -/
def op2 (f : CtlFields) (k : Core) : Word := if f.im then f.imm else k.sreg f.rb.toNat

/-- A control word without scratchpad ranges. -/
def ctlDispatch (s : State) (c : Nat) (check : Core → Check) (act : Core → Core) : State :=
  dispatch s c uSeq false check (fun _ => []) (fun _ => 0) (fun _ => false) fun s => modCore s c act

/-- Scalar arithmetic and comparison (R147). -/
def alu (s : State) (c : Nat) (f : CtlFields) (op : Word → Word → Word) : State :=
  ctlDispatch s c (fun _ => .pass) fun k =>
    (k.setSreg f.rd.toNat (op (k.sreg f.ra.toNat) (op2 f k))).advance (k.pc + 16)

/-- Shift amount: op2[5:0]. -/
def shAmt (b : Word) : Nat := b.toNat % 64

/-- ADD (R147). -/
def execAdd (c : CoreId) (f : CtlFields) (s : State) : Host.Outcome State Fault Refusal := .next (alu s c f (· + ·))

/-- SUB (R147). -/
def execSub (c : CoreId) (f : CtlFields) (s : State) : Host.Outcome State Fault Refusal := .next (alu s c f (· - ·))

/-- MUL (R147). -/
def execMul (c : CoreId) (f : CtlFields) (s : State) : Host.Outcome State Fault Refusal := .next (alu s c f (· * ·))

/-- AND (R147). -/
def execAndOp (c : CoreId) (f : CtlFields) (s : State) : Host.Outcome State Fault Refusal := .next (alu s c f (· &&& ·))

/-- OR (R147). -/
def execOrOp (c : CoreId) (f : CtlFields) (s : State) : Host.Outcome State Fault Refusal := .next (alu s c f (· ||| ·))

/-- XOR (R147). -/
def execXorOp (c : CoreId) (f : CtlFields) (s : State) : Host.Outcome State Fault Refusal := .next (alu s c f (· ^^^ ·))

/-- SHL (R147). -/
def execShl (c : CoreId) (f : CtlFields) (s : State) : Host.Outcome State Fault Refusal :=
  .next (alu s c f fun a b => a <<< shAmt b)

/-- SHR (R147). -/
def execShr (c : CoreId) (f : CtlFields) (s : State) : Host.Outcome State Fault Refusal :=
  .next (alu s c f fun a b => a >>> shAmt b)

/-- SRA (R147). -/
def execSra (c : CoreId) (f : CtlFields) (s : State) : Host.Outcome State Fault Refusal :=
  .next (alu s c f fun a b => a.sshiftRight (shAmt b))

/-- SLT (R147). -/
def execSlt (c : CoreId) (f : CtlFields) (s : State) : Host.Outcome State Fault Refusal :=
  .next (alu s c f fun a b => if a.slt b then 1 else 0)

/-- SLTU (R147). -/
def execSltu (c : CoreId) (f : CtlFields) (s : State) : Host.Outcome State Fault Refusal :=
  .next (alu s c f fun a b => if a < b then 1 else 0)

/-- The next program counter of a taken branch: pc + imm modulo 2^64 (R147, R148). -/
def jumpPc (pc : Nat) (imm : Word) : Nat := (BitVec.ofNat 64 pc + imm).toNat

/-- A displacement is a multiple of 16 (R148). -/
def step16 (v : Word) : Bool := v.toNat % 16 == 0

/-- Conditional branch (R147, R148). -/
def branch (s : State) (c : Nat) (f : CtlFields) (cond : Word → Word → Bool) : State :=
  ctlDispatch s c (fun _ => Check.need (step16 f.imm) .illegal) fun k =>
    k.advance (if cond (k.sreg f.ra.toNat) (k.sreg f.rb.toNat) then jumpPc k.pc f.imm else k.pc + 16)

/-- BEQ (R148). -/
def execBeq (c : CoreId) (f : CtlFields) (s : State) : Host.Outcome State Fault Refusal :=
  .next (branch s c f fun a b => a == b)

/-- BNE (R148). -/
def execBne (c : CoreId) (f : CtlFields) (s : State) : Host.Outcome State Fault Refusal :=
  .next (branch s c f fun a b => a != b)

/-- BLT (R148). -/
def execBlt (c : CoreId) (f : CtlFields) (s : State) : Host.Outcome State Fault Refusal :=
  .next (branch s c f fun a b => a.slt b)

/-- BGE (R148). -/
def execBge (c : CoreId) (f : CtlFields) (s : State) : Host.Outcome State Fault Refusal :=
  .next (branch s c f fun a b => !a.slt b)

/-- BLTU (R148). -/
def execBltu (c : CoreId) (f : CtlFields) (s : State) : Host.Outcome State Fault Refusal :=
  .next (branch s c f fun a b => decide (a < b))

/-- BGEU (R148). -/
def execBgeu (c : CoreId) (f : CtlFields) (s : State) : Host.Outcome State Fault Refusal :=
  .next (branch s c f fun a b => decide (b ≤ a))

/-- JAL (R148). -/
def execJal (c : CoreId) (f : CtlFields) (s : State) : Host.Outcome State Fault Refusal :=
  .next (ctlDispatch s c (fun _ => Check.need (step16 f.imm) .illegal) fun k =>
    (k.setSreg f.rd.toNat (BitVec.ofNat 64 (k.pc + 16))).advance (jumpPc k.pc f.imm))

/-- JALR (R148): imm and ra + imm are multiples of 16. -/
def execJalr (c : CoreId) (f : CtlFields) (s : State) : Host.Outcome State Fault Refusal :=
  .next (ctlDispatch s c
    (fun k => Check.need (step16 f.imm && step16 (k.sreg f.ra.toNat + f.imm)) .illegal) fun k =>
    (k.setSreg f.rd.toNat (BitVec.ofNat 64 (k.pc + 16))).advance (k.sreg f.ra.toNat + f.imm).toNat)

/-! ## Local loads and stores -/

/-- Address ra + imm modulo 2^64 (R149). -/
def scalarAddr (f : CtlFields) (k : Core) : Nat := (k.sreg f.ra.toNat + f.imm).toNat

/-- Check 5 of a local access of n bytes: aligned, and below SPM_SIZE (R149). -/
def localCheck (f : CtlFields) (n : Nat) (k : Core) : Check :=
  Check.need (scalarAddr f k % n == 0 && decide (scalarAddr f k + n ≤ spmSize)) .illegal

/-- Range of a local access, which the scoreboard orders (R72). -/
def localRange (f : CtlFields) (write : Bool) (n : Nat) (k : Core) : List Range :=
  [⟨write, [(scalarAddr f k, n)], none, n⟩]

/-- Local load of n bytes; ext extends them (R149). The access retires in the cycle of its dispatch. -/
def load (s : State) (c : Nat) (f : CtlFields) (g : Glitch) (n : Nat) (ext : Nat → Word) : State :=
  dispatch s c uSeq false (localCheck f n) (localRange f false n) (fun _ => 0) (fun _ => false) fun s =>
    let k := core s c
    let v := ext (leNat (spmRead s c (scalarAddr f k) n))
    readGlitch (setCore s c ((k.setSreg f.rd.toNat v).advance (k.pc + 16))) c g

/-- Sign extension of n bytes. -/
def sext (n v : Nat) : Word := BitVec.ofInt 64 (signedOf (8 * n) v)

/-- LD1U (R149). -/
def execLd1u (c : CoreId) (f : CtlFields) (g : Glitch) (s : State) : Host.Outcome State Fault Refusal :=
  .next (load s c f g 1 (BitVec.ofNat 64))

/-- LD2U (R149). -/
def execLd2u (c : CoreId) (f : CtlFields) (g : Glitch) (s : State) : Host.Outcome State Fault Refusal :=
  .next (load s c f g 2 (BitVec.ofNat 64))

/-- LD4U (R149). -/
def execLd4u (c : CoreId) (f : CtlFields) (g : Glitch) (s : State) : Host.Outcome State Fault Refusal :=
  .next (load s c f g 4 (BitVec.ofNat 64))

/-- LD8 (R149). -/
def execLd8 (c : CoreId) (f : CtlFields) (g : Glitch) (s : State) : Host.Outcome State Fault Refusal :=
  .next (load s c f g 8 (BitVec.ofNat 64))

/-- LD1S (R149). -/
def execLd1s (c : CoreId) (f : CtlFields) (g : Glitch) (s : State) : Host.Outcome State Fault Refusal :=
  .next (load s c f g 1 (sext 1))

/-- LD2S (R149). -/
def execLd2s (c : CoreId) (f : CtlFields) (g : Glitch) (s : State) : Host.Outcome State Fault Refusal :=
  .next (load s c f g 2 (sext 2))

/-- LD4S (R149). -/
def execLd4s (c : CoreId) (f : CtlFields) (g : Glitch) (s : State) : Host.Outcome State Fault Refusal :=
  .next (load s c f g 4 (sext 4))

/-- Local store of the low n bytes of rb (R149, R158). -/
def store (s : State) (c : Nat) (f : CtlFields) (n : Nat) : State :=
  dispatch s c uSeq false (localCheck f n) (localRange f true n) (fun _ => 0) (fun _ => false) fun s =>
    let k := core s c
    spmWrite (setCore s c (k.advance (k.pc + 16))) c (scalarAddr f k) (leBytes n ((k.sreg f.rb.toNat).toNat)) true

/-- ST1 (R149). -/
def execSt1 (c : CoreId) (f : CtlFields) (s : State) : Host.Outcome State Fault Refusal := .next (store s c f 1)

/-- ST2 (R149). -/
def execSt2 (c : CoreId) (f : CtlFields) (s : State) : Host.Outcome State Fault Refusal := .next (store s c f 2)

/-- ST4 (R149). -/
def execSt4 (c : CoreId) (f : CtlFields) (s : State) : Host.Outcome State Fault Refusal := .next (store s c f 4)

/-- ST8 (R149). -/
def execSt8 (c : CoreId) (f : CtlFields) (s : State) : Host.Outcome State Fault Refusal := .next (store s c f 8)

/-! ## Panel loads and stores -/

/-- The SPM_ window of a core's space 0x2 (R162). -/
def inWindow (off : Nat) : Bool := decide (0xFF000 ≤ off)

/-- Register access of 8 bytes: the space in offset [35:32] (Table 6.2). -/
def regReadReq (d : Dest) : Req := ⟨0, 4, [(d.space * 2 ^ 32 + d.off, [])], 1⟩
def regWriteReq (d : Dest) (v : Word) : Req := ⟨0, 3, [(d.space * 2 ^ 32 + d.off, leBytes 8 v.toNat)], 1⟩

/-- Request of a panel load: a register read, or a read of 8 bytes of scratchpad. -/
def ldpReq (d : Dest) : Req := if d.space = 2 ∧ inWindow d.off = false then readReq d.off 8 else regReadReq d

/-- Request of a panel store. -/
def stpReq (d : Dest) (v : Word) : Req :=
  if d.space = 2 ∧ inWindow d.off = false then writeReq 1 d.off (leBytes 8 v.toNat) else regWriteReq d v

/-- A panel load or store fails (R149). -/
def accessFail (s : State) (c cause : Nat) (a : Word) (pc : Nat) : State :=
  addressFault (if cause = 1 then addressErrorEv s (epCore c) (partOfCore s c) a else s) c uSeq pc

/-- The address may be sent: space 0x2 or 0x3 and a multiple of 8 (R149). -/
def accessOk (a : Word) : Bool := (spaceOf a == 2 || spaceOf a == 3) && a.toNat % 8 == 0

/-- Panel access of 8 bytes: dispatch blocks until the response (R72, R149). rd is the register of a load. -/
def access (s : State) (c : Nat) (f : CtlFields) (p : Purpose) (rd : Option (BitVec 5)) (req : Core → Dest → Req) : State :=
  dispatch s c uSeq false (fun _ => .pass) (fun _ => []) (fun _ => if freeTag s (epCore c) = 1024 then 7 else 0)
    (fun _ => false) fun s =>
      let k := core s c
      let a := k.sreg f.ra.toNat + f.imm
      let t := setCore s c (k.advance (k.pc + 16))
      if accessOk a then
        match sendTo t (epCore c) (corePart s c) p a (fun d => some (req k d)) with
        | .sent u => modCore u c fun k' => { k' with hold := .access rd k.pc }
        | .refused cause => accessFail t c cause a k.pc
        | .noTag => s
      else accessFail t c 1 a k.pc

/-- LDP (R149). -/
def execLdp (c : CoreId) (f : CtlFields) (s : State) : Host.Outcome State Fault Refusal :=
  .next (access s c f (.ldp c f.rd) (some f.rd) fun _ d => ldpReq d)

/-- STP (R149). -/
def execStp (c : CoreId) (f : CtlFields) (s : State) : Host.Outcome State Fault Refusal :=
  .next (access s c f (.stp c) none fun k d => stpReq d (k.sreg f.rb.toNat))

/-- The response to a panel load or store: the register of a load takes the value, and dispatch goes on unless the task has
stopped meanwhile (R72, R106, R107, R149). -/
def accessDone (s : State) (c : Nat) (v : Option Word) : State :=
  let k := core s c
  match k.hold with
  | .access rd _ =>
    let k := match rd, v with
      | some r, some w => k.setSreg r.toNat w
      | _, _ => k
    setCore s c { k with hold := .none }
  | _ => s

/-- A panel load or store has failed after it was sent (R149); while the core drains it is a further fault (R106). -/
def accessLost (s : State) (c cause : Nat) (a : Word) : State :=
  match (core s c).hold with
  | .access _ pc => accessFail (modCore s c fun k => { k with hold := .none }) c cause a pc
  | _ => s

/-! ## ifence, rseed, end, rprc -/

/-- IFENCE (R70): it waits, under the first row of Table 3.2, for every earlier write range to retire, and then empties the
instruction buffer. -/
def execIfence (c : CoreId) (_f : CtlFields) (s : State) : Host.Outcome State Fault Refusal :=
  .next (dispatch s c uSeq false (fun _ => .pass) (fun _ => [])
    (fun k => if k.sb.any fun e => e.2.write then 1 else 0) (fun _ => false) fun s =>
      modCore s c fun k => { k.advance (k.pc + 16) with ibuf := [] })

/-- RSEED (R150): both units re-seed behind their earlier instructions; the vector unit has none waiting. -/
def execRseed (c : CoreId) (f : CtlFields) (s : State) : Host.Outcome State Fault Refusal :=
  .next (dispatch s c uSeq false (fun _ => .pass) (fun _ => []) (fun _ => 0) matFull fun s =>
    let k := core s c
    let v : BitVec 32 := if f.im then (k.sreg f.ra.toNat).setWidth 32 else k.rseed
    let k := { k.advance (k.pc + 16) with
      rseed := v, vec := { k.vec with lfsr := seedAll v }, mat := { k.mat with queue := k.mat.queue ++ [.seed v] } }
    runMatrix 4 (setCore s c k) c)

/-- END (R101, R105, R106): the core enters DRAIN, and its gatherer drains (R160). The status stays open: a fault met while the
core drains is the task's first. -/
def execEndTask (c : CoreId) (_f : CtlFields) (s : State) : Host.Outcome State Fault Refusal :=
  .next (dispatch s c uSeq true (fun _ => .pass) (fun _ => []) (fun _ => 0) (fun _ => false) fun s =>
    modCore s c fun k => { k.advance (k.pc + 16) with st := .drain, hold := .none, gath := [] })

/-- RPRC (R147). -/
def execRprc (c : CoreId) (f : CtlFields) (s : State) : Host.Outcome State Fault Refusal :=
  .next (ctlDispatch s c (fun _ => .pass) fun k => (k.setSreg f.rd.toNat (diePrc s (siteOfDie (dieOfCore c)))).advance (k.pc + 16))

/-! ## Words that are no instruction -/

/-- ILLEGAL_INSTRUCTION (R68, R115 to R117): the word that reaches dispatch is no instruction, or the program counter lies at
or beyond SPM_SIZE. -/
def execIllegalInstruction (c : CoreId) (w : BitVec 128) (s : State) : Host.Outcome State Fault Refusal :=
  .next
    (if isInstruction w && decide ((core s c).pc < spmSize) then s
     else dispatch s c uSeq false (fun _ => .illegal) (fun _ => []) (fun _ => 0) (fun _ => false) id)

end Sys2Proof.Machine
end

