-- ==== Sys2Proof/Machine/Tasks.lean ====
section
/-!
DEFINITION. Tasks.lean: the task lifecycle of a core (R97, R98, R101 to R108), its scoreboard's retirement (R75), the stall
watchdog (R174), the gatherer's timeout (R160), and the writes that its rings and event counters take (R164, R168, R170,
R171).
-/
namespace Sys2Proof.Machine

open Sys2Proof

/-- RANGE_RETIRE (R75, R166): a finished range entry retires. -/
def execRangeRetire (c : CoreId) (entry : Nat) (s : State) : Host.Outcome State Fault Refusal :=
  .next (if unitsRun s c then retireEntry s c entry else s)

/-- The step clock of the core's die runs: between C and the resume count a core holds its state, whatever reaches it (R349). -/
def coreDieRuns (s : State) (c : Nat) : Bool := dieClocked s (siteOfDie (dieOfCore c))

/-- Messages that a core has open. -/
def coreMsgs (s : State) (c : Nat) : Nat := (s.fab.msgs.filter fun m => m.ep.toNat == epCore c).length

/-- A channel does nothing more. -/
def chanQuiet (x : Chan) : Bool := x.phase == .idle || x.phase == .stopped

/-- Every dispatched instruction has retired and every move has completed (R105). -/
def drained (s : State) (c : Nat) : Bool :=
  let k := core s c
  k.st == .drain && k.sb.isEmpty && k.movq.isEmpty && k.mat.queue.isEmpty && k.synq.isEmpty && k.chans.all (fun e => chanQuiet e.2)
    && coreMsgs s c == 0 && clocked s c

/-- Reserved pointers return to the published ones (R166). -/
def Ring.settle (r : Ring) : Ring := { r with rhead := r.head, rtail := r.tail, resH := [], resT := [] }

/-- The completion token of a core (R105, R108). -/
def tokenOf (k : Core) : Token :=
  ⟨BitVec.ofNat 4 (k.status.getD 0), k.astat, BitVec.ofNat 32 k.checked, BitVec.ofNat 32 k.unchecked⟩

/-- A core leaves DRAIN: it sends its token and enters REPORT (R105). -/
def toReport (k : Core) : Core :=
  { k with st := .report, chans := [], gath := [], rings := k.rings.map fun e => (e.1, e.2.settle) }

/-- DRAIN_COMPLETE (R105). -/
def execDrainComplete (c : CoreId) (s : State) : Host.Outcome State Fault Refusal :=
  .next (if drained s c then modCore s c toReport else s)

/-- COMPLETION_TOKEN (R108): the host die receives the token of a core in REPORT. -/
def execCompletionToken (c : CoreId) (t : Token) (s : State) : Host.Outcome State Fault Refusal :=
  .next
    (let k := core s c
     match k.launch with
     | some (r, i) => if k.st == .report && t == tokenOf k then takeToken s r i c t else s
     | none => s)

/-- The host die still waits for the core's token. -/
def awaitsToken (s : State) (c : Nat) : Bool :=
  match (core s c).launch with
  | some (r, i) =>
    match findCmd s r i with
    | some m => m.st == .started && m.left.contains c
    | none => false
  | none => false

/-- A core enters IDLE after a task: its event counters are zero (R98, R105). -/
def toIdle (k : Core) : Core :=
  { k with st := .idle, evc := [], status := none, partStop := false, launch := none, hold := .none, wdogRun := 0,
           stallRow := 0, stallRing := none }

/-- TOKEN_ACK (R105): the host die has the token and acknowledges it. -/
def execTokenAck (c : CoreId) (s : State) : Host.Outcome State Fault Refusal :=
  .next (if (core s c).st == .report && !awaitsToken s c && coreDieRuns s c then modCore s c toIdle else s)

/-- The rounding seed of a core (R104). -/
def taskSeed (c : Nat) (seed : BitVec 32) : BitVec 32 := seed ^^^ (BitVec.ofNat 32 c * 0x9E3779B9)

/-- The core's registers at task start (R58, R103, R104, R113, R175, Tables 3.5 and 3.20). assay and wdog are the
partition's settings. -/
def startTask (c : Nat) (m : TaskStartMsg) (assay : Bool) (wdog : Nat) (k : Core) : Core :=
  let seed := taskSeed c m.seed
  let k := ((((k.setSreg 1 m.args).setSreg 2 (m.rank.setWidth 64)).setSreg 3 (BitVec.ofNat 64 c)).setSreg 4
    (m.task.setWidth 64 ||| (m.step.setWidth 64 <<< 32))).setSreg 5 (m.nranks.setWidth 64)
  { k with
    st := .run, pc := m.entry.toNat, ibuf := [], hold := .none, stallRow := 0, stallRing := none, movq := [], chans := [], synq := [],
    sb := [], status := none, partStop := false, launch := some (m.ring, m.slot), bypass := m.sbBypass,
    paired := m.paired, assayEn := assay, halt := m.haltOnAssay, task := m.task, step := m.step,
    astat := if m.astatClear then 0 else k.astat, rseed := seed, fault := 0, checked := 0, unchecked := 0, tile := 0,
    cyc := 0, stall := 0, mblk := 0, merged := 0, wdogLimit := wdog, wdogRun := 0,
    mat := { k.mat with anchor := none, dLane := none, dAnchor := none, queue := [], lfsr := seedAll seed },
    vec := { k.vec with lfsr := seedAll seed } }

/-- Partition settings that a task takes (R113, R175). -/
def assaySetting (s : State) (c : Nat) : Bool := dget s (0x6100 + partOfCore s c) 5 == 1
def wdogSetting (s : State) (c : Nat) : Nat := dget s (0x6100 + partOfCore s c) 8

/-- A core that accepts task start: IDLE, present, clocked, and in no reset (R102, Table 3.4). -/
def acceptsTask (s : State) (c : Nat) : Bool :=
  (core s c).st == .idle && !coreGated s c && !absorbsCore s c && clocked s c

/-- A message of the belay network to a core has arrived. -/
def takeBelay (s : State) (c : Nat) (b : Belay) : State :=
  { s with host := { s.host with belay := dropFirst (fun x => x == (c, b)) s.host.belay } }

/-- TASK_START (R103, R104). -/
def execTaskStart (c : CoreId) (m : TaskStartMsg) (s : State) : Host.Outcome State Fault Refusal :=
  .next
    (if acceptsTask s c then
       let t := modCore s c (startTask c m (assaySetting s c) (wdogSetting s c))
       takeBelay { t with health := { t.health with
           episodes := t.health.episodes.filter (fun e => e != c.val),
           progress := aput c.val (0, s.prc) t.health.progress } } c (.start m)
     else s)

/-- Serial numbers of the instructions that wait in the queues. -/
def waitingSerials (k : Core) : List Nat :=
  k.movq.map (·.serial) ++ k.mat.queue.filterMap fun q => match q with
    | .load _ _ n _ => some n
    | .mul _ _ _ n _ => some n
    | .read _ _ _ n _ => some n
    | .seed _ => none

/-- Instructions that wait in the queues are discarded (R107, R510). -/
def discardWaiting (k : Core) : Core :=
  let d := (waitingSerials k).foldl (fun k n => k.discard n) k
  { d with movq := [], synq := [], mat := { d.mat with queue := [] } }

/-- Task stop (R107): dispatch stops, waiting instructions are discarded; a fault's status stands; after the token nothing
changes. -/
def taskStop (k : Core) : Core :=
  if k.st = .run ∨ k.st = .drain then plainStop (discardWaiting k) 1 else k

/-- TASK_STOP (R107). -/
def execTaskStop (c : CoreId) (s : State) : Host.Outcome State Fault Refusal :=
  .next (if coreDieRuns s c then takeBelay (modCore s c taskStop) c .stop else s)

/-- PARTITION_STOP (R101). -/
def execPartitionStop (c : CoreId) (s : State) : Host.Outcome State Fault Refusal :=
  .next (if coreDieRuns s c then modCore s c stopAtSync else s)

/-- The stall count has reached its limit (R174). -/
def stalledOut (k : Core) : Bool := k.st == .run && decide (2 ^ k.wdogLimit ≤ k.wdogRun)

/-- STALL_WATCHDOG (R174). -/
def execStallWatchdog (c : CoreId) (s : State) : Host.Outcome State Fault Refusal :=
  .next
    (let k := core s c
     if stalledOut k && coreDieRuns s c then
       let s := raiseCore s c 0x0106 (pf 17 3 k.stallRow ||| pf 20 5 (k.stallRing.getD 0x1F) ||| pf 32 20 k.pc)
       faultStop s c 8 uSeq 0 k.pc
     else s)

/-- GATHERER_TIMEOUT (R160): the entry of a line drains; its bytes are in the bank's place already (log 7). -/
def execGathererTimeout (c : CoreId) (line : Nat) (s : State) : Host.Outcome State Fault Refusal :=
  .next (if coreDieRuns s c then modCore s c fun k => { k with gath := k.gath.filter fun e => e.line != line } else s)

/-! ## Rings and event counters written from outside -/

/-- A ring configuration obeys its rules (R164). -/
def ringCfgOk (base size : Nat) : Bool := base % 64 == 0 && size % 64 == 0 && decide (base + size ≤ spmSize)

/-- Write to SPM_RINGn_CFG (R164, Table 5.4). -/
def ringCfg (s : State) (c n : Nat) (v : Word) : State :=
  let base := bits v.toNat 23 0
  let size := bits v.toNat 47 24
  if ringCfgOk base size then
    modCore s c fun k => k.setRing n ⟨base, size, bit v.toNat 48, bit v.toNat 49, false, 0, 0, 0, 0, [], []⟩
  else raiseRing s c n 0x0201 (pf 17 3 1)

/-- Write to SPM_RINGn_PUSH: the published tail of a remote side moves (R170, R171). -/
def ringPush (s : State) (c n : Nat) (v : Word) : State :=
  let r := (core s c).ring n
  let m := bits v.toNat 23 0
  if r.prod = false then raiseRing s c n 0x0201 (pf 17 3 2)
  else if m ≤ r.free then modCore s c fun k => k.setRing n { r with tail := r.adv r.tail m }
  else raiseRing s c n 0x0202 (pf 32 32 m)

/-- Write to SPM_RINGn_POP (R170, R171). -/
def ringPop (s : State) (c n : Nat) (v : Word) : State :=
  let r := (core s c).ring n
  let m := bits v.toNat 23 0
  if r.cons = false then raiseRing s c n 0x0201 (pf 17 3 2)
  else if m ≤ r.used then modCore s c fun k => k.setRing n { r with head := r.adv r.head m }
  else raiseRing s c n 0x0202 (pf 32 32 m)

/-- The core takes writes from outside: it is present, in no reset, and its die is clocked (R109, R112, R349). -/
def takesWrites (s : State) (c : Nat) : Bool := !absent s (epCore c) && !absorbsCore s c && coreDieRuns s c

/-- SPM_RING_CFG (R164). -/
def execSpmRingCfg (c : CoreId) (n : Fin 16) (v : Word) (s : State) : Host.Outcome State Fault Refusal :=
  .next (if takesWrites s c then ringCfg s c n v else s)

/-- SPM_RING_PUSH (R171). -/
def execSpmRingPush (c : CoreId) (n : Fin 16) (v : Word) (s : State) : Host.Outcome State Fault Refusal :=
  .next (if takesWrites s c then ringPush s c n v else s)

/-- SPM_RING_POP (R171). -/
def execSpmRingPop (c : CoreId) (n : Fin 16) (v : Word) (s : State) : Host.Outcome State Fault Refusal :=
  .next (if takesWrites s c then ringPop s c n v else s)

/-- CORE_EVC_WRITE (R97). -/
def execCoreEvcWrite (c : CoreId) (n : Fin 64) (v : Word) (s : State) : Host.Outcome State Fault Refusal :=
  .next (if takesWrites s c then modCore s c fun k => k.setEv n (v.setWidth 32) else s)

end Sys2Proof.Machine
end

