-- ==== Sys2Proof/Machine/Regs.lean ====
section
/-!
DEFINITION. Regs.lean: the CORE_ registers (R111 to R113, Tables 3.11 to 3.20), the SPM_ window (R162 to R164, Tables 5.1 to
5.7) and the CRU_ registers (R265, Tables 7.9 and 7.10): what a read returns and what a write does by its access code (R11).
-/
namespace Sys2Proof.Machine

open Sys2Proof

/-- A field of a register. -/
def fld (lo w v : Nat) : Nat := v % 2 ^ w * 2 ^ lo

def boolBit (b : Bool) : Nat := if b then 1 else 0

/-- Code of a task state (Table 3.4). -/
def TaskSt.code : TaskSt → Nat
  | .idle => 0 | .load => 1 | .run => 2 | .drain => 3 | .report => 4 | .reset => 5 | .gated => 6

/-- Revision of the microcode that runs for a component: that of its running bundle (R445). -/
def microcode (s : State) (comp : Nat) : BitVec 8 :=
  Config.ucode comp (((aget (comp - 1) s.mgmt.running).map fun b => b.fwver).getD 0)

/-- CORE_STATE (Table 3.14). The matrix and vector units execute within a step (log 5), so mat_busy and vec_busy read 0 between
steps; an instruction that waits for a paused matrix issue is not executing (R510). -/
def coreStateReg (s : State) (c : Nat) : Nat :=
  let k := core s c
  let waits : Bool := match k.hold with
    | .barrier _ => true
    | .wait => true
    | _ => false
  fld 0 4 k.st.code ||| fld 4 1 (boolBit (k.st == .run && (k.stallRow != 0 || k.hold != .none)))
    ||| fld 7 1 (boolBit (k.chans.any fun e => !chanQuiet e.2))
    ||| fld 8 1 (boolBit waits) ||| fld 9 2 (min (condOf s (pcidOf s c)) 3)

/-- CORE_QSTAT (Table 3.19). -/
def coreQstatReg (k : Core) : Nat :=
  fld 0 3 k.mat.queue.length ||| fld 7 5 k.movq.length ||| fld 12 4 k.synq.length ||| fld 16 6 k.sb.length
    ||| (k.chans.foldl (fun n e => n ||| fld (22 + e.1) 1 (boolBit (!chanQuiet e.2))) 0)

/-- A CORE_ register (Table 3.11); an offset that is not listed reads as zero (R111). -/
def coreReg (s : State) (c off : Nat) : Word :=
  let k := core s c
  let n : Nat :=
    if 0x100 ≤ off ∧ off < 0x200 then (k.sreg ((off - 0x100) / 8)).toNat
    else if 0x200 ≤ off ∧ off < 0x400 then (k.ev ((off - 0x200) / 8)).toNat
    else match off with
      | 0x00 => fld 0 13 c ||| fld 13 4 (posOfCore s c)
      | 0x08 => 2 ||| fld 4 4 1 ||| fld 8 8 (microcode s 2).toNat
      | 0x10 => coreStateReg s c
      | 0x18 => fld 0 1 (boolBit k.bypass) ||| fld 1 1 (boolBit k.paired) ||| fld 2 1 (boolBit k.assayEn)
          ||| fld 3 1 (boolBit k.halt)
      | 0x20 => fld 0 32 k.task.toNat ||| fld 32 32 k.step.toNat
      | 0x28 => fld 0 20 (k.pc / 16 * 16)
      | 0x30 => k.astat.toNat
      | 0x38 => k.rseed.toNat
      | 0x40 => k.fault.toNat
      | 0x48 => k.faultPrc
      | 0x50 => k.assayReg.toNat
      | 0x58 => fld 0 32 k.checked ||| fld 32 32 k.unchecked
      | 0x60 => fld 0 32 (k.tile - 1)
      | 0x68 => coreQstatReg k
      | 0x80 => k.cyc
      | 0x88 => k.stall
      | 0x90 => k.mblk
      | _ => 0
  BitVec.ofNat 64 n

/-- A write to a CORE_ register: RO fields and unlisted offsets take none (R11, R111). -/
def coreRegWrite (s : State) (c off : Nat) (v : Word) : State :=
  if 0x200 ≤ off ∧ off < 0x400 then modCore s c fun k => k.setEv ((off - 0x200) / 8) (v.setWidth 32)
  else match off with
    | 0x30 => modCore s c fun k => { k with astat := w1c k.astat (v.setWidth 16) }
    | 0x38 => modCore s c fun k => { k with rseed := v.setWidth 32 }
    | 0x50 => modCore s c fun k => { k with assayReg := k.assayReg &&& ~~~(v.setWidth 10 &&& 1) }
    | _ => s

/-- SPM_RINGn_PTR (Table 5.5). -/
def ringPtrReg (r : Ring) : Nat :=
  let lap (p : Nat) : Nat := boolBit (r.size != 0 && decide (r.size ≤ p))
  let off (p : Nat) : Nat := if r.size = 0 then 0 else p % r.size
  fld 0 24 (off r.head) ||| fld 24 1 (lap r.head) ||| fld 25 1 (boolBit r.ovr) ||| fld 32 24 (off r.tail)
    ||| fld 56 1 (lap r.tail)

/-- SPM_RINGn_CFG (Table 5.4). -/
def ringCfgReg (r : Ring) : Nat :=
  fld 0 24 r.base ||| fld 24 24 r.size ||| fld 48 1 (boolBit r.prod) ||| fld 49 1 (boolBit r.cons) ||| fld 60 4 1

/-- An SPM_ register at an offset of the window (Table 5.1). -/
def spmReg (s : State) (c off : Nat) : Word :=
  let k := core s c
  let n : Nat :=
    if 0x100 ≤ off ∧ off < 0x300 then
      let r := k.ring ((off - 0x100) / 32)
      if off % 32 = 0 then ringCfgReg r else if off % 32 = 8 then ringPtrReg r else 0
    else match off with
      | 0x00 => spmSize
      | 0x08 => fld 0 8 24 ||| fld 8 16 32 ||| fld 24 8 64 ||| fld 32 8 16
      | 0x10 => fld 0 5 k.wdogLimit ||| fld 32 32 k.wdogRun
      | 0x18 => fld 0 32 k.eccCorr ||| fld 32 14 k.eccLine ||| fld 48 8 k.eccUncorr
      | 0x20 => fld 0 4 k.gath.length ||| fld 32 32 k.merged
      | _ => 0
  BitVec.ofNat 64 n

/-- A write to an SPM_ register (R162, R164, R171). -/
def spmRegWrite (s : State) (c off : Nat) (v : Word) : State :=
  if 0x100 ≤ off ∧ off < 0x300 then
    let n := (off - 0x100) / 32
    match off % 32 with
    | 0 => ringCfg s c n v
    | 16 => ringPush s c n v
    | 24 => ringPop s c n v
    | _ => s
  else s

/-- A memory site. -/
def msite (s : State) (m : Nat) : MSite := agetD m MSite.reset s.msites

def setMsite (s : State) (m : Nat) (x : MSite) : State := { s with msites := aput m x s.msites }

def modMsite (s : State) (m : Nat) (f : MSite → MSite) : State := setMsite s m (f (msite s m))

/-- CRU_ARB_LOCK: locked-out requesters, fabric low, engines and scrub high (Table 7.10). -/
def arbLockReg (x : MSite) : Nat :=
  x.locks.foldl (fun n e => if e.2 then n ||| 2 ^ (if e.1 % 8 = 0 then e.1 / 8 else 32 + e.1 / 8) else n) 0

/-- Clear the lock-outs whose bit is 1 (W1C). -/
def arbClear (x : MSite) (v : Nat) : MSite :=
  { x with locks := x.locks.filter fun e => !bit v (if e.1 % 8 = 0 then e.1 / 8 else 32 + e.1 / 8) }

/-- A CRU_ register (Tables 7.9 and 7.10). -/
def cruReg (s : State) (m off : Nat) : Word :=
  let x := msite s m
  let n : Nat :=
    if 0x100 ≤ off ∧ off < 0x140 then (agetD ((off - 0x100) / 8) 0 x.mcmask).toNat
    else match off with
      | 0x00 => fld 0 4 m ||| fld 4 5 (siteCol (siteOfMem m)) ||| fld 9 4 (siteRow (siteOfMem m))
      | 0x08 => 2 ||| fld 4 4 1 ||| fld 8 8 (microcode s 3).toNat
      | 0x10 => fld 0 8 48 ||| fld 8 8 64 ||| fld 16 8 96
      | 0x18 => fld 0 16 x.temp.toNat ||| fld 16 1 (boolBit x.fastRef)
      | 0x20 => dget s (0xA100 + m) 2
      | 0x28 => arbLockReg x
      | 0x30 => fld 5 5 x.gatq.length ||| fld 10 5 x.relq.length ||| fld 15 7 x.streams.length
      | 0x38 => x.redStat.toNat
      | _ => 0
  BitVec.ofNat 64 n

/-- A write to a CRU_ register. -/
def cruRegWrite (s : State) (m off : Nat) (v : Word) : State :=
  if 0x100 ≤ off ∧ off < 0x140 then
    modMsite s m fun x => { x with mcmask := aput ((off - 0x100) / 8) v x.mcmask }
  else match off with
    | 0x20 => dset s (0xA100 + m) 2 v.toNat
    | 0x28 => modMsite s m fun x => arbClear x v.toNat
    | 0x38 => modMsite s m fun x => { x with redStat := v }
    | _ => s

end Sys2Proof.Machine
end

