-- ==== Sys2Proof/Machine/Fabric.lean ====
section
/-!
DEFINITION. Fabric.lean: what a router does with a cell (R182, R183, R186, R192, R193, R204, R205, R217 to R219, R235), the
congestion map (R201 to R203), fenced routers and the route-hole map (R231 to R233), the hop-distance table (R30, R31) and
the transit-route tables' recomputation (R285).
-/
namespace Sys2Proof.Machine

open Sys2Proof

/-! ## Drops -/

/-- Partition that a site belongs to: owner of a memory site, partition of a cell die. -/
def partOfSite (s : State) (site : Nat) : Nat :=
  if isMemSite site then ownerOfSite s (memOfSite site) else partOfDie s (dieOfSite site)

/-- Counter of a drop reason (Tables 6.11 and 9.13): sub-index step of its register, and its field's lowest bit. -/
def dropField (reason : Nat) : Nat × Nat :=
  [(0, 48), (1, 32), (0, 0), (0, 16), (0, 32), (1, 0), (1, 16)].getD reason (0, 0)

/-- The fabric-drop event (Table 9.13). -/
def dropEv (site q reason : Nat) (rim : Bool) (x : Cell) : BitVec 128 :=
  pf 0 8 site ||| pf 8 2 q ||| pf 10 3 reason ||| pf 13 1 (boolBit rim) ||| pf 16 16 x.srcEp.toNat ||| pf 32 10 x.tag.toNat

/-- An ecc drop of a router counts for an hour, and the 11th recommends fencing it (Table 13.8). -/
def eccDrop (s : State) (site q : Nat) : State :=
  let r := 4 * site + q
  let ts := recent s 3600 (agetD r [] s.health.rtrEcc) ++ [s.prc]
  let s := { s with health := { s.health with rtrEcc := aput r ts s.health.rtrEcc } }
  if ts.length = 11 then recommend s (partOfSite s site) 2 (site + 256 * q) 4 else s

/-- A router drops a cell: the reason's counter counts, and its first drop raises the event (R235). -/
def dropCell (s : State) (l : RouterLoc) (reason : Nat) (x : Cell) : State :=
  let f := dropField reason
  match l with
  | .grid site q =>
    let sub := 1 + 4 * f.1 + q.val
    let first : Bool := bits (dget s (0x5300 + site) sub) (f.2 + 15) f.2 == 0
    let s := dbump s (0x5300 + site) sub (f.2 + 15) f.2
    let s := if reason = 6 then eccDrop s site q else s
    if first then raise s 0x0301 (partOfSite s site) (dropEv site q reason false x) else s
  | .rim r =>
    let sub := 1 + f.1
    let first : Bool := bits (dget s (0x5400 + r) sub) (f.2 + 15) f.2 == 0
    let s := dbump s (0x5400 + r) sub (f.2 + 15) f.2
    if first then raise s 0x0301 0xFF (dropEv r 0 reason true x) else s

/-! ## Credits -/

/-- Cells of a class and virtual channel that stand at an input: a place and a half of the edge (R182, R183, R218). -/
def standing (s : State) (at_ : Stand) (x : Cell) : Nat :=
  (s.fab.net.filter fun f => f.at_ == at_ && f.cell.half == x.half && f.cell.cls == x.cls && f.cell.vc == x.vc).length

/-- Places for cells of a virtual channel at an input (R218); the reserved code 3 of Table 6.1 names no buffer. -/
def vcSlots (vc : BitVec 2) : Nat := [12, 12, 4, 0].getD vc.toNat 0

/-- A credit is held for the cell at a router's input (R218, R219). -/
def hasCredit (s : State) (at_ : Stand) (x : Cell) : Bool :=
  match at_ with
  | .router _ (some _) =>
    let cap := vcSlots x.vc
    let kept : Nat := if x.cls = 2 ∧ x.ocls = 0 ∧ x.vc ≠ 2 then 2 else 0
    decide (standing s at_ x + kept < cap)
  | _ => true

/-- Take a cell from where it stands. -/
def takeCell (s : State) (at_ : Stand) (x : Cell) : State :=
  { s with fab := { s.fab with net := dropFirst (fun f => f.at_ == at_ && f.cell == x) s.fab.net } }

/-- Put cells where they go. -/
def putCells (s : State) (fs : List Flight) : State := { s with fab := { s.fab with net := s.fab.net ++ fs } }

/-! ## The next hop -/

/-- Segment at the route position (R187, R191). -/
def curSeg (x : Cell) : BitVec 7 :=
  match x.pos.toNat with
  | 0 => x.l1s0 | 1 => x.l1s1 | 2 => x.l1s2 | 4 => x.l3s0 | 5 => x.l3s1 | 6 => x.l3s2 | _ => 0

def segHops (g : BitVec 7) : Nat := g.toNat % 32
def segDir (g : BitVec 7) : Dir := dirOfCode (g.toNat / 32)

/-- Write the segment at the route position. -/
def setSeg (x : Cell) (g : BitVec 7) : Cell :=
  match x.pos.toNat with
  | 0 => { x with l1s0 := g }
  | 1 => { x with l1s1 := g }
  | 2 => { x with l1s2 := g }
  | 4 => { x with l3s0 := g }
  | 5 => { x with l3s1 := g }
  | 6 => { x with l3s2 := g }
  | _ => x

/-- One hop taken: the segment falls, and the position moves on at its end (R193). -/
def hopTaken (x : Cell) : Cell :=
  let g := curSeg x
  let y := setSeg x (g - 1)
  if segHops g = 1 then { y with pos := x.pos + 1 } else y

/-- The cell's leg has ended (R193). -/
def legEnded (x : Cell) : Bool := x.pos == 3 || x.pos == 7 || segHops (curSeg x) == 0

/-- The cell may cross into a rim die (R193): the last hop of a leaving cell's leg 1 into a link die, or its destination. -/
def mayEnterRim (x : Cell) (r : Nat) : Bool :=
  rimOfEp x.dstEp.toNat == some r && !(leaves x && decide (x.pos.toNat < 3))
    || (leaves x && decide (r < 24) && decide (x.pos.toNat < 3) && (hopTaken x).pos.toNat != x.pos.toNat
        && segHops (curSeg (hopTaken x)) == 0)

/-- What a router does with a unicast cell: a drop reason, or where the cell goes. -/
inductive Hop where
  | drop (reason : Nat)
  | to (f : Flight)
  deriving DecidableEq, Repr

/-- Where a cell enters a rim die: its NI, or the exit of a link die. -/
def rimStand (x : Cell) (r : Nat) : Stand := if rimOfEp x.dstEp.toNat = some r ∧ leaves x = false then .ni (960 + r) else .exit r

/-- A grid location, and a rim port, in range. -/
def gridLoc (site q : Nat) : RouterLoc := .grid ⟨site % 240, Nat.mod_lt _ (by decide)⟩ ⟨q % 4, Nat.mod_lt _ (by decide)⟩
def rimLoc (r : Nat) : RouterLoc := .rim ⟨r % 27, Nat.mod_lt _ (by decide)⟩

/-- Unicast at a grid router (R193). -/
def gridHop (s : State) (site q : Nat) (din : Option Dir) (x : Cell) : Hop :=
  let hm := holesAt s site
  if legEnded x then
    if (rimOfEp x.dstEp.toNat).isNone && epKind x.dstEp.toNat != .none && siteOfEp x.dstEp.toNat == site
        && (!leaves x || decide (4 ≤ x.pos.toNat)) then
      (if routerOfEp x.dstEp.toNat != q && holed hm site (routerOfEp x.dstEp.toNat) then .drop 5
       else .to ⟨.ni (niOfEp x.dstEp.toNat), x⟩)
    else .drop 4
  else
    let d := segDir (curSeg x)
    if illegalTurn (siteCol site) din d then .drop 2
    else
      let qo := edgeRouter site d x.half
      let inner : Bool := qo != q && holed hm site qo
      match siteOfPlace (stepDir d (placeOfSite site)) with
      | some t =>
        let qi := edgeRouter t (dirBack d) x.half
        if inner || holed hm t qi then .drop 5
        else .to ⟨.router (gridLoc t qi) (some d), hopTaken x⟩
      | none =>
        match rimAt site d with
        | none => .drop 3
        | some r =>
          if !mayEnterRim x r then .drop 4
          else if inner then .drop 5
          else .to ⟨.router (rimLoc r) (some d), hopTaken x⟩

/-- Unicast at the port of a rim die: a cell from the grid, whose right to enter the grid router has checked, goes to the NI or
the exit; a cell of the rim die is checked and sent into the grid (R193, R235). -/
def rimHop (s : State) (r : Nat) (din : Option Dir) (x : Cell) : Hop :=
  let site := (rimSite r).1
  let d := dirBack (rimSite r).2
  if din.isSome then .to ⟨rimStand x r, x⟩
  else if legEnded x then (if rimOfEp x.dstEp.toNat = some r then .to ⟨.ni (960 + r), x⟩ else .drop 4)
  else if segDir (curSeg x) ≠ d then .drop 3
  else
    let qi := edgeRouter site (dirBack d) x.half
    if holed (holesAt s (240 + r)) site qi then .drop 5
    else .to ⟨.router (gridLoc site qi) (some d), hopTaken x⟩

/-! ## Multicast -/

/-- Columns and rows that a multicast selects (R204). -/
def selCol (x : Cell) (c : Nat) : Bool := x.colmask.getLsbD c
def selRow (x : Cell) (r : Nat) : Bool := x.rowmask.getLsbD r

/-- A selected column or row beyond a place in a direction. -/
def selBeyond (x : Cell) (site : Nat) (d : Dir) : Bool :=
  match d with
  | .east => (List.range 20).any fun c => decide (siteCol site < c) && selCol x c
  | .west => (List.range 20).any fun c => decide (c < siteCol site) && selCol x c
  | .north => (List.range 12).any fun r => decide (siteRow site < r) && selRow x r
  | .south => (List.range 12).any fun r => decide (r < siteRow site) && selRow x r

/-- Directions in which a multicast cell leaves a site (R205). -/
def mcastDirs (x : Cell) (site : Nat) (din : Option Dir) : List Dir :=
  let turn : List Dir := if selCol x (siteCol site) then [.north, .south] else []
  let want : List Dir :=
    if siteOfEp x.srcEp.toNat = site then [.east, .west] ++ turn
    else match din with
      | some .east => .east :: turn
      | some .west => .west :: turn
      | some d => [d]
      | none => []
  want.filter (selBeyond x site)

/-- NIs of a site that serve selected cores (R204, R205). -/
def mcastNis (x : Cell) (site : Nat) : List Nat :=
  if isMemSite site || !(selCol x (siteCol site) && selRow x (siteRow site)) then []
  else ((List.range 4).filter fun q => x.coremask.toNat / 2 ^ (8 * q) % 256 != 0).map fun q => 4 * site + q

/-- Copies that a router of a site makes of a multicast cell (R205), each with the routers that it passes next: over the
internal links to the edge's or the NI's router, and across the edge (R206). -/
def mcastCopies (x : Cell) (site : Nat) (din : Option Dir) : List (List (Nat × Nat) × Flight) :=
  ((mcastDirs x site din).filterMap fun d =>
    (siteOfPlace (stepDir d (placeOfSite site))).map fun t =>
      let qi := edgeRouter t (dirBack d) x.half
      ([(site, edgeRouter site d x.half), (t, qi)], (⟨.router (gridLoc t qi) (some d), x⟩ : Flight)))
  ++ (mcastNis x site).map fun n => ([(site, n % 4)], ⟨.ni n, x⟩)

/-- A copy's way leads through a router of the hole map, other than the one that holds the cell (R231). -/
def copyHoled (hm : Assoc Nat) (site q : Nat) (f : List (Nat × Nat) × Flight) : Bool :=
  f.1.any fun r => r != (site, q) && holed hm r.1 r.2

/-! ## CELL_ROUTE -/

/-- A drill of kind 4 drops one cell that would be ejected to its core (Table 13.10). -/
def drillEats (s : State) (f : Flight) : Bool :=
  match f.at_, epKind f.cell.dstEp.toNat with
  | .ni _, .core c => drillWith s 4 c
  | _, _ => false

/-- Act on a hop: a cell without a credit waits. -/
def doHop (s : State) (l : RouterLoc) (din : Option Dir) (x : Cell) (h : Hop) : State :=
  match h with
  | .drop r => dropCell (takeCell s (.router l din) x) l r x
  | .to f =>
    if drillEats s f then
      let s := takeCell s (.router l din) x
      drillOver { s with fab := { s.fab with drilled := s.fab.drilled ++ [(Cell.src x, x.tag)] } }
    else if hasCredit s f.at_ f.cell then putCells (takeCell s (.router l din) x) [f] else s

/-- What a router does with a cell that it has received, by R193. Copies of a multicast whose way leads into a fenced router
are dropped under reason hole (R231). -/
def routeOne (s : State) (l : RouterLoc) (din : Option Dir) (x : Cell) : State :=
  match l with
  | .grid site q =>
    if x.mc then
      let fs := mcastCopies x site din
      let gone := fs.filter (copyHoled (holesAt s site) site q)
      let go := (fs.filter fun f => !copyHoled (holesAt s site) site q f).map Prod.snd
      if go.all fun f => hasCredit s f.at_ f.cell then
        putCells (gone.foldl (fun t _ => dropCell t l 5 x) (takeCell s (.router l din) x)) go
      else s
    else doHop s l din x (gridHop s site q din x)
  | .rim r =>
    if x.mc && din.isNone then
      let site := (rimSite r).1
      let d := dirBack (rimSite r).2
      doHop s l din x (.to ⟨.router (gridLoc site (edgeRouter site (dirBack d) x.half)) (some d), x⟩)
    else doHop s l din x (rimHop s r din x)

/-- Die of a router or rim port (R356). -/
def routerDie : RouterLoc → Nat
  | .grid site _ => site
  | .rim r => 240 + r

/-- A router of the grid that has been fenced. -/
def fencedAt (s : State) : RouterLoc → Bool
  | .grid site q => fenced s site q
  | .rim _ => false

/-- The cell stands at the input. -/
def standsAt (s : State) (at_ : Stand) (x : Cell) : Bool := s.fab.net.any fun f => f.at_ == at_ && f.cell == x

/-- CELL_ROUTE (R186, R193): ecc marks an uncorrectable edge error. A cell inside a fenced router is lost (R231). A cell of the
reserved virtual channel 3 is checked like any other and waits wherever it would be sent, as no credit exists for it (R218,
log 74). -/
def execCellRoute (at_ : RouterLoc) (din : Option Dir) (x : Cell) (ecc : Bool) (s : State) :
    Host.Outcome State Fault Refusal :=
  let gone (r : Nat) : State := dropCell (takeCell s (.router at_ din) x) at_ r x
  if dieClocked s (routerDie at_) = false ∨ standsAt s (.router at_ din) x = false then .next s
  else if fencedAt s at_ then .next (takeCell s (.router at_ din) x)
  else if ecc then .next (gone 6)
  else if x.ver ≠ 1 then .next (gone 0)
  else if x.vc = 2 ∧ s.links.topo.rappel = false then .next (gone 1)
  else .next (routeOne s at_ din x)

/-! ## Congestion -/

/-- Level of a share in 1/10,000 (R201). -/
def levelOfShare (o : Nat) : Nat := if o < 2500 then 0 else if o < 5000 then 1 else if o < 7500 then 2 else 3

/-- An output of a site has a neighbour: a site or a rim die. -/
def hasNeighbour (site : Nat) (d : Dir) : Bool :=
  (siteOfPlace (stepDir d (placeOfSite site))).isSome || (rimAt site d).isSome

/-- The congestion word of eight shares, outputs in the order of R202. -/
def congestionWord (site : Nat) (occ : Nat → Nat) : Nat :=
  (List.range 8).foldl (fun w k => w + (if hasNeighbour site (dirOfCode (k / 2)) then levelOfShare (occ k) else 0) * 4 ^ k) 0

/-- Sites that have reported, one more: when all 240 have, the map is complete and the next one begins (R202). -/
def nextReported (l : List Nat) (site : Nat) : List Nat :=
  let r := if l.contains site then l else l ++ [site]
  if r.length = 240 then [] else r

/-- CONGESTION_WINDOW_END (R201, R202): a site's word reaches the belay root; occ holds the mean share of each output in
1/10,000 (log 10). The last of the 240 words completes the map. The shares count toward the 100 us copy (R203). -/
def execCongestionWindowEnd (site : SiteNo) (occ : List Nat) (s : State) : Host.Outcome State Fault Refusal :=
  let ws := aput site (congestionWord site fun k => occ.getD k 0) s.fab.words
  .next { s with fab := { s.fab with
    words := ws, reported := nextReported s.fab.reported site,
    whole := if nextReported s.fab.reported site = [] then some ws else s.fab.whole,
    occSum := (List.range 8).foldl (fun t k =>
      let o := agetD (8 * site.val + k) (0, 0) t
      aput (8 * site.val + k) (o.1 + occ.getD k 0, o.2 + 1) t) s.fab.occSum } }

/-- CONGESTION_MAP (R202): a die takes the newest complete map, if there is one. -/
def execCongestionMap (d : DieNo) (s : State) : Host.Outcome State Fault Refusal :=
  .next
    (match s.fab.whole with
     | some w => { s with fab := { s.fab with maps := aput d (s.prc, w) s.fab.maps } }
     | none => s)

/-- No map has come to a die for 100 us (R202). -/
def mapStale (s : State) (d : Nat) : Bool :=
  match aget d s.fab.maps with
  | some m => decide (m.1 + usTicks 100 ≤ s.prc)
  | none => false

/-- CONGESTION_MAP_STALE (R202): 100 us without a map give levels of 0 everywhere until the next map. -/
def execCongestionMapStale (d : DieNo) (s : State) : Host.Outcome State Fault Refusal :=
  .next (if mapStale s d then { s with fab := { s.fab with maps := adel d s.fab.maps } } else s)

/-- CMAP_RECORD (R203): at the end of a window of 100 us, levels from the mean shares of the window. -/
def execCmapRecord (s : State) : Host.Outcome State Fault Refusal :=
  if s.prc < s.fab.cmap.1 + usTicks 100 then .next s
  else .next
    (let mean (site k : Nat) : Nat := let o := agetD (8 * site + k) (0, 0) s.fab.occSum; if o.2 = 0 then 0 else o.1 / o.2
     let ws : Assoc Nat := (List.range 240).filterMap fun t =>
       let w := congestionWord t (mean t)
       if w = 0 then none else some (t, w)
     { s with fab := { s.fab with cmap := (s.prc, (s.fab.cmap.2.1 + 1) % 2 ^ 32, ws), occSum := [] } })

/-! ## Fenced routers -/

/-- An odd-even generation count after a change (R27). -/
def bumpGen (s : State) (index sub : Nat) : State := dset s index sub ((dget s index sub + 2) % 2 ^ 32)

/-- Logical cores of a cluster router. -/
def coresOfRouter (site q : Nat) : List Nat :=
  if isMemSite site then [] else (List.range 8).map fun k => dieOfSite site * 32 + q * 8 + k

/-- Fence one router (R231 to R233, R412): its bit at the root, the events, the cells inside it lost, and the cores that ran a task
behind it lost with cause 5 (Table 13.4). -/
def fenceRouter (s : State) (site q cause : Nat) : State :=
  if fenced s site q then s
  else
    let w := agetD site 0 s.fab.holes + 2 ^ q
    let s := { s with fab := { s.fab with
      holes := aput site w s.fab.holes, holesPrc := s.prc,
      net := s.fab.net.filter fun f => match f.at_ with
        | .router (.grid t r) _ => !(t.val == site && r.val == q)
        | _ => true } }
    let s := touchTopo (bumpGen s 0x5020 1)
    let s := raise s 0x0304 0xFF (pf 0 8 site ||| pf 8 4 w ||| pf 32 32 (dget s 0x5020 1))
    let s := raise s 0x0905 0xFF (pf 0 8 site ||| pf 8 2 q ||| pf 12 4 cause)
    (coresOfRouter site q).foldl (fun t c => if inTask (core t c) then coreLost t c 5 else t) s

/-- ROUTER_FENCE (R231); a memory site has router 0 alone. The causes are those of the router-fence event (Table 13.13). -/
def execRouterFence (site : SiteNo) (q : Fin 4) (cause : BitVec 4) (s : State) : Host.Outcome State Fault Refusal :=
  .next (if isMemSite site && q != 0 then s else fenceRouter s site q cause.toNat)

/-- ROUTE_HOLE_MAP (R231): a die takes the root's map. -/
def execRouteHoleMap (d : DieNo) (s : State) : Host.Outcome State Fault Refusal :=
  .next { s with fab := { s.fab with holeMaps := aput d s.fab.holes s.fab.holeMaps } }

/-! ## Hop distances -/

/-- States of a search: five for each site, by the direction of arrival. -/
def searchId (site : Nat) (din : Option Dir) : Nat := 5 * site + (match din with
  | none => 4
  | some d => d.code)

def searchDin (n : Nat) : Option Dir := if n % 5 = 4 then none else some (dirOfCode (n % 5))

/-- Hops open from a search state on a half. -/
def searchNext (hm : Assoc Nat) (half : Bool) (n : Nat) : List Nat :=
  [Dir.east, .north, .west, .south].filterMap fun d =>
    let site := n / 5
    if illegalTurn (siteCol site) (searchDin n) d || holed hm site (edgeRouter site d half) then none
    else
      match siteOfPlace (stepDir d (placeOfSite site)) with
      | some t => if holed hm t (edgeRouter t (dirBack d) half) then none else some (searchId t (some d))
      | none => none

/-- Breadth-first distance from a frontier to a site. -/
def searchDist (hm : Assoc Nat) (half : Bool) (goal : Nat) : Nat → Nat → List Nat → List Nat → Nat
  | 0, _, _, _ => 0xFF
  | fuel + 1, k, seen, front =>
    if front.any fun n => n / 5 == goal then k
    else
      let nxt := ((front.flatMap (searchNext hm half)).eraseDups).filter fun n => !seen.contains n
      if nxt.isEmpty then 0xFF else searchDist hm half goal fuel (k + 1) (seen ++ nxt) nxt

/-- Length of the shortest legal route from a cell die to a memory site, 0xFF for none (R31). -/
def hopDistance (hm : Assoc Nat) (d m : Nat) : Nat :=
  let a := siteOfDie d
  let go (half : Bool) : Nat := searchDist hm half (siteOfMem m) 1200 0 [searchId a none] [searchId a none]
  min (go false) (go true)

/-- Distance with no router fenced (R29). -/
def plainDistance (d m : Nat) : Nat :=
  let a := siteOfDie d
  let b := siteOfMem m
  (siteCol a - siteCol b) + (siteCol b - siteCol a) + (siteRow a - siteRow b) + (siteRow b - siteRow a)

/-- Published distance (R30). -/
def hopEntry (s : State) (m d : Nat) : Nat := agetD (256 * m + d) (plainDistance d m) s.fab.hops

/-- Distances that differ from those with no router fenced. -/
def hopTable (hm : Assoc Nat) : Assoc Nat :=
  if hm.isEmpty then []
  else (List.range 16).flatMap fun m => (List.range 224).filterMap fun d =>
    let v := hopDistance hm d m
    if v = plainDistance d m then none else some (256 * m + d, v)

/-- HOP_TABLE_UPDATE (R31). -/
def execHopTableUpdate (s : State) : Host.Outcome State Fault Refusal :=
  .next { s with fab := { s.fab with hops := hopTable s.fab.holes, hopsGen := (s.fab.hopsGen + 2) % 2 ^ 32 } }

/-- TRANSIT_TABLE_RECOMPUTE (R285): the tables are computed for the present route-hole map. -/
def execTransitTableRecompute (s : State) : Host.Outcome State Fault Refusal :=
  .next { s with fab := { s.fab with transit := some s.fab.holes } }

end Sys2Proof.Machine
end

