-- ==== Sys2Proof/Machine/Links.lean ====
section
/-!
DEFINITION. Links.lean: the panel-to-panel links: codewords, retry and credits (R266 to R271), training and capability
exchange (R278 to R280), the torus hop (R194 to R198, R281 to R285), rappel mode (R288, R289) and the exit map (R282).
-/
namespace Sys2Proof.Machine

open Sys2Proof

/-! ## Links -/

def link (s : State) (l : Nat) : Link := agetD l Link.reset s.links.links

def setLink (s : State) (l : Nat) (x : Link) : State :=
  { s with links := { s.links with links := aput l x s.links.links } }

/-- A link changes state, which the topology record shows (R396). -/
def moveLink (s : State) (l : Nat) (x : Link) : State := touchTopo (setLink s l x)

/-- LNK_STATE (Table 8.8). -/
def lnkStateReg (s : State) (l : Nat) : Nat :=
  let x := link s l
  let p : Nat := match x.caps with
    | some c => fld 7 4 c.gen.toNat ||| fld 11 1 (boolBit (c.gen == 1)) ||| fld 12 8 c.x.toNat ||| fld 20 8 c.y.toNat
        ||| fld 28 8 c.z.toNat ||| fld 36 7 c.link.toNat
    | none => 0
  fld 0 3 x.state ||| fld 3 4 x.reason ||| p ||| fld 43 12 x.rtt

/-- The link-control field of a codeword (Table 8.1). -/
def controlField (w : SentCw) : Nat := fld 0 2 w.ctype ||| fld 2 10 w.seq ||| fld 12 4 w.cvc ||| fld 16 4 w.ccnt

/-- Direction that a link die serves (R274). -/
def dieDir (s : State) (d : Nat) : Option Nat := (List.range 6).find? fun k => (dirDies s.links.topo k).contains d

/-- Direction link index of a link (R273, R274). -/
def dlinkOf (s : State) (l : Nat) : Nat :=
  match dieDir s (l / 4) with
  | some k => 4 * (dirDies s.links.topo k).findIdx (fun d => d == l / 4) + l % 4
  | none => 0

/-- Usable links of a link die, in increasing number (R283). -/
def upLinks (s : State) (d : Nat) : List Nat := ((List.range 4).map fun i => 4 * d + i).filter fun l => (link s l).state == 2

/-! ## The cell stream -/

/-- Bytes of a cell on the stream (R187). -/
def cellBytes : Nat := 72

/-- The 640 bytes of cell stream of a codeword sent: idle cells are zeros (R267, log 81). -/
def cwStream (w : SentCw) : List Byte :=
  (List.replicate w.rest 0 ++ w.cells.flatMap Cell.image ++ List.replicate 640 0).take 640

/-- The 5,140 message bits of a codeword sent (R267). -/
def cwMessage (w : SentCw) : Nat := leNat (cwStream w) + controlField w * 2 ^ 5120

/-- Bytes of an idle cell that is cut after a codeword with rest bytes of the last one. -/
def restAfter (rest : Nat) : Nat := (cellBytes - (640 - rest) % cellBytes) % cellBytes

/-- The cells that a stretch of the stream completes, and the bytes of the one that it cuts. -/
def cutCells : Nat → List Byte → List Cell × List Byte
  | 0, bs => ([], bs)
  | fuel + 1, bs =>
    if bs.length < cellBytes then ([], bs)
    else
      let r := cutCells fuel (bs.drop cellBytes)
      (cellOfImage (bs.take cellBytes) :: r.1, r.2)

/-- What the next codeword in order gives after the bytes held over. -/
def streamCells (held stream : List Byte) : List Cell × List Byte := cutCells 9 (held ++ stream)

/-! ## Sending codewords -/

/-- Codewords that a link keeps (R269). -/
def replaySize : Nat := 512

/-- Send a codeword: it takes the next number and is kept, unless the replay buffer is full; then only idle codewords go,
which are not kept (R269). -/
def sendCw (s : State) (l ctype seq cvc ccnt : Nat) (cells : List Cell) (need : Nat) : State :=
  let x := link s l
  let w : SentCw := ⟨x.txSeq, ctype, seq, cvc, ccnt, cells, x.txRest, need⟩
  if x.buf.length < replaySize then
    emit (setLink s l { x with txSeq := (x.txSeq + 1) % 1024, buf := x.buf ++ [w], txRest := restAfter x.txRest }) (.codeword l w)
  else if cells.isEmpty then emit s (.codeword l w)
  else s

/-- Sequence of the last codeword received in order. -/
def Link.lastIn (x : Link) : Nat := (x.rxSeq + 1023) % 1024

/-- A link leaves service and retrains: state down, with its reason (R270, R280). -/
def leaveService (s : State) (l reason : Nat) : State :=
  let x := link s l
  if x.state = 2 then
    moveLink s l { x with state := 4, reason := reason, lost := true, attempts := 0, since := s.prc, locked := false,
                          replay := false, retries := 0 }
  else s

/-! ## Receiving codewords -/

/-- Codewords acknowledged by a sequence leave the replay buffer (R269). -/
def ackBuf (buf : List SentCw) (seq : Nat) : List SentCw :=
  match buf.findIdx? fun w => w.num == seq with
  | some i => buf.drop (i + 1)
  | none => buf

/-- A cell from a link: idle cells are discarded, cells of another class than forwarded counted (R267, R268). -/
def takeLinkCell (s : State) (l : Nat) (x : Cell) : State :=
  if x.ver = 0 then s
  else if x.cls ≠ 2 then dbump s (0x5A00 + l / 4) 1 15 0
  else putCells s [⟨.entry l, x⟩]

/-- A codeword in order: its cells are taken, and the acknowledgement goes back (R269, R270). -/
def inOrder (s : State) (l : Nat) (w : Codeword) : State :=
  let x := link s l
  let buf := if w.ctype = 0 ∨ w.ctype = 1 then ackBuf x.buf w.seq.toNat else x.buf
  let cs := streamCells x.rxRest w.stream
  let s := setLink s l { x with rxSeq := (x.rxSeq + 1) % 1024, replay := false, retries := 0, buf := buf, rxRest := cs.2 }
  let s := cs.1.foldl (fun t c => takeLinkCell t l c) s
  if cs.1.all fun c => c.ver == 0 then s else sendCw s l 0 (link s l).lastIn 0 0 [] 0

/-- CODEWORD_RECEIVE (R267 to R270, Tables 8.1 and 8.9). Credits and retry requests that the codeword carries act through
their own commands. -/
def execCodewordReceive (l : LinkNo) (w : Codeword) (s : State) : Host.Outcome State Fault Refusal :=
  .next
    (let x := link s l
     if x.state ≠ 2 then s
     else if w.bad then
       let s := dbump s (0x5900 + l) 2 47 32
       if x.replay then
         if w.num.toNat ≠ x.rxSeq then s
         else if x.retries + 1 < dget s 0x5800 8 then
           sendCw (setLink s l { x with retries := x.retries + 1 }) l 2 x.rxSeq 0 0 [] 0
         else leaveService s l 0
       else sendCw (setLink s l { x with replay := true, retries := 0 }) l 2 x.rxSeq 0 0 [] 0
     else
       let s := if w.corrected then dbump s (0x5900 + l) 2 31 0 else s
       if w.num.toNat = x.rxSeq then inOrder s l w else s)

/-- RETRY_REQUEST (R270): the sender replays from the named sequence; the replay is counted. -/
def execRetryRequest (l : LinkNo) (seq : BitVec 10) (s : State) : Host.Outcome State Fault Refusal :=
  .next
    (let x := link s l
     if x.state ≠ 2 then s
     else
       let ws := match x.buf.findIdx? fun w => w.num == seq.toNat with
         | some i => x.buf.drop i
         | none => []
       ws.foldl (fun t w => emit t (.codeword l w)) (dbump s (0x5900 + l) 2 63 48))

def Link.credits (x : Link) (vc : BitVec 2) : Nat := if vc = 0 then x.cr0 else if vc = 1 then x.cr1 else x.cr2

/-- Spend a credit. -/
def Link.spend (x : Link) (vc : BitVec 2) : Link :=
  if vc = 0 then { x with cr0 := x.cr0 - 1 } else if vc = 1 then { x with cr1 := x.cr1 - 1 } else { x with cr2 := x.cr2 - 1 }

/-- Cells of the replay buffer go again, in their order, each against a credit for its virtual channel (R271, R280). -/
def resendCells : Nat → State → Nat → State
  | 0, s, _ => s
  | fuel + 1, s, l =>
    let x := link s l
    match x.resend with
    | [] => s
    | w :: ws =>
      match w.cells with
      | [] => resendCells fuel (setLink s l { x with resend := ws }) l
      | c :: cs =>
        if x.credits c.vc < w.need ∨ replaySize ≤ x.buf.length then s
        else resendCells fuel (sendCw (setLink s l { x.spend c.vc with resend := ws }) l 0 x.lastIn 0 0 (c :: cs) w.need) l

def goAgain (s : State) (l : Nat) : State := resendCells (link s l).resend.length s l

/-- LINK_CREDIT (R271): 1 to 15 cells of a virtual channel come back, up to the receiver's buffer. -/
def execLinkCredit (l : LinkNo) (cvc : BitVec 4) (ccnt : BitVec 4) (s : State) : Host.Outcome State Fault Refusal :=
  .next
    (let x := link s l
     if x.state ≠ 2 then s
     else match cvc.toNat with
       | 0 => goAgain (setLink s l { x with cr0 := min 1024 (x.cr0 + ccnt.toNat) }) l
       | 1 => goAgain (setLink s l { x with cr1 := min 1024 (x.cr1 + ccnt.toNat) }) l
       | 2 => goAgain (setLink s l { x with cr2 := min 256 (x.cr2 + ccnt.toNat) }) l
       | _ => s)

/-! ## Training -/

/-- The bytes of a capability record (Table 8.6). -/
def capsBytes (c : CapRec) : List Byte :=
  leBytes 64 (fld 0 4 c.ver.toNat + fld 4 4 c.gen.toNat + fld 8 4 c.protoMin.toNat + fld 12 4 c.protoMax.toNat
    + fld 16 1 (boolBit c.rappel) + fld 17 3 c.shape.toNat + fld 20 1 (boolBit c.dbl) + fld 24 5 c.nx.toNat
    + fld 29 5 c.ny.toNat + fld 34 5 c.nz.toNat + fld 40 8 c.x.toNat + fld 48 8 c.y.toNat + fld 56 8 c.z.toNat
    + fld 64 3 c.dir.toNat + fld 67 6 c.dlink.toNat + fld 73 7 c.link.toNat + fld 80 16 c.fw.toNat)

/-- A record as its 26 fragments of 20 bits, fragment 0 the lowest (R278). -/
def capFragments (c : CapRec) : List (BitVec 20) :=
  (List.range 26).map fun i => BitVec.ofNat 20 (leNat (capsBytes c) / 2 ^ (20 * i))

/-- The record of 26 fragments. -/
def capRecOf (fs : List (BitVec 20)) : CapRec :=
  let n := fs.foldr (fun f k => f.toNat + 2 ^ 20 * k) 0
  let f (w lo : Nat) : BitVec w := BitVec.ofNat w (n / 2 ^ lo)
  ⟨f 4 0, f 4 4, f 4 8, f 4 12, bit n 16, f 3 17, bit n 20, f 5 24, f 5 29, f 5 34, f 8 40, f 8 48, f 8 56, f 3 64, f 6 67,
    f 7 73, f 16 80⟩

/-- The record that copies in the order of their arrival give: the first three in a row that are whole and identical (R278). -/
def heardRecord : List (List (BitVec 20)) → Option CapRec
  | [] => none
  | a :: l => if a.length = 26 ∧ l.take 2 = [a, a] then some (capRecOf a) else heardRecord l

/-- The panel's own record on a link (Table 8.6). -/
def ownCaps (s : State) (l : Nat) : CapRec :=
  let t := s.links.topo
  ⟨1, 2, 1, 1, t.rappel, BitVec.ofNat 3 t.shape, t.dbl == 1, BitVec.ofNat 5 (t.nx - 1), BitVec.ofNat 5 (t.ny - 1),
    BitVec.ofNat 5 (t.nz - 1), BitVec.ofNat 8 t.x, BitVec.ofNat 8 t.y, BitVec.ofNat 8 t.z,
    BitVec.ofNat 3 ((dieDir s (l / 4)).getD 0), BitVec.ofNat 6 (dlinkOf s l), BitVec.ofNat 7 l, BitVec.ofNat 16 (fwVer s 3)⟩

/-- LINK_TRAINING (R278, Table 8.5): a released link reaches codeword lock, or does not; its credit round trip is measured, and
with lock it sends the panel's capability record three times. -/
def execLinkTraining (l : LinkNo) (signal_ lock_ : Bool) (rtt : BitVec 12) (s : State) : Host.Outcome State Fault Refusal :=
  .next
    (let x := link s l
     if x.state ≠ 1 then s
     else
       let t := setLink s l { x with locked := signal_ && lock_, rtt := if signal_ && lock_ then rtt.toNat else x.rtt }
       if signal_ && lock_ then emit t (.capability l (List.replicate 3 (capFragments (ownCaps s l)))) else t)

/-- Coordinate of this panel's neighbour in a direction. -/
def neighbour (t : Topo) (d : Nat) : Nat × Nat × Nat :=
  match d with
  | 0 => ((t.x + 1) % t.nx, t.y, t.z)
  | 1 => ((t.x + t.nx - 1) % t.nx, t.y, t.z)
  | 2 => (t.x, (t.y + 1) % t.ny, t.z)
  | 3 => (t.x, (t.y + t.ny - 1) % t.ny, t.z)
  | 4 => (t.x, t.y, (t.z + 1) % t.nz)
  | _ => (t.x, t.y, (t.z + t.nz - 1) % t.nz)

/-- First failing check of Table 8.7, by its reason code; none when all pass. -/
def trainFault (s : State) (l : Nat) (r : CapRec) : Option Nat :=
  let t := s.links.topo
  let d := (dieDir s (l / 4)).getD 0
  if 1 < r.protoMin.toNat ∨ r.protoMax.toNat < 1 then some 3
  else if r.gen = 1 ∧ t.rappel = false then some 4
  else if r.rappel ≠ t.rappel then some 5
  else if r.shape.toNat ≠ t.shape ∨ r.dbl ≠ (t.dbl == 1) ∨ r.nx.toNat + 1 ≠ t.nx ∨ r.ny.toNat + 1 ≠ t.ny
      ∨ r.nz.toNat + 1 ≠ t.nz then some 6
  else if (r.x.toNat, r.y.toNat, r.z.toNat) ≠ neighbour t d then some 7
  else if r.dir.toNat ≠ (if d % 2 = 0 then d + 1 else d - 1) ∨ r.dlink.toNat ≠ dlinkOf s l then some 8
  else if pairListed s 7 (fwVer s 3) r.fw.toNat then none
  else some 9

/-- A link comes up: counts start, credits are granted, and the cells of its replay buffer go again against them (R271, R278,
R280). -/
def linkUp (s : State) (l : Nat) (r : CapRec) : State :=
  let x := link s l
  let s := moveLink s l { x with state := 2, reason := 0, caps := some r, locked := true, lost := false, attempts := 0, drilled := false,
                                 txSeq := 0, rxSeq := 0, replay := false, retries := 0, buf := [], txRest := 0, rxRest := [],
                                 resend := (x.buf ++ x.resend).filter fun w => !w.cells.isEmpty,
                                 cr0 := 1024, cr1 := 1024, cr2 := 256 }
  let s := raiseD s x.drilled 0x0503 0xFF (pf 0 7 l ||| pf 8 8 r.x.toNat ||| pf 16 8 r.y.toNat ||| pf 24 8 r.z.toNat
    ||| pf 32 7 r.link.toNat)
  goAgain s l

/-- The checks of Table 8.7 on a record received: the first that fails holds the link (R278, R279). -/
def checkCaps (s : State) (l : Nat) (r : CapRec) : State :=
  let x := link s l
  match trainFault s l r with
  | none => linkUp s l r
  | some k =>
    let fws : BitVec 128 := if k = 9 then pf 32 16 (fwVer s 3) ||| pf 48 16 r.fw.toNat else 0
    raiseD (moveLink s l { x with state := 3, reason := k, caps := some r }) x.drilled 0x0501 0xFF
      (pf 0 7 l ||| pf 8 4 k ||| fws)

/-- CAPABILITY_RECORD (R278, R279): a record counts after three identical copies. One of another version is ignored. -/
def execCapabilityRecord (l : LinkNo) (copies : List (List (BitVec 20))) (s : State) : Host.Outcome State Fault Refusal :=
  .next
    (match heardRecord copies with
     | some r => if (link s l).state ≠ 1 ∨ (link s l).locked = false ∨ r.ver ≠ 1 then s else checkCaps s l r
     | none => s)

/-- TRAINING_TIMEOUT (R278): no codeword lock within 500 ms; down with reason 1 without a signal, else 2. -/
def execTrainingTimeout (l : LinkNo) (signal_ : Bool) (s : State) : Host.Outcome State Fault Refusal :=
  .next
    (let x := link s l
     if x.state ≠ 1 ∨ x.locked = true ∨ s.prc < x.since + usTicks 500000 then s
     else moveLink s l { x with state := 4, reason := if signal_ then 2 else 1 })

/-- LOSS_OF_LOCK (R280). -/
def execLossOfLock (l : LinkNo) (s : State) : Host.Outcome State Fault Refusal := .next (leaveService s l 2)

/-- Release a link to training. -/
def release (s : State) (l : Nat) (x : Link) : State :=
  moveLink s l { x with state := 1, reason := 0, locked := false, since := s.prc }

/-- RETRAIN_ATTEMPT (R280): a link that left service retrains, 100 ms apart; when every attempt has failed, and the peer's
training too, the panel fences it with the link-down event. -/
def execRetrainAttempt (l : LinkNo) (peerFailed : Bool) (s : State) : Host.Outcome State Fault Refusal :=
  .next
    (let x := link s l
     if x.state ≠ 4 ∨ x.lost = false then s
     else if x.attempts < dget s 0x5800 9 then
       if s.prc < x.since + usTicks 100000 then s else release s l { x with attempts := x.attempts + 1 }
     else if peerFailed then
       raiseD (moveLink s l { x with state := 5, lost := false, drilled := false }) x.drilled 0x0502 0xFF (pf 0 7 l ||| pf 8 4 x.reason)
     else s)

/-- The shape in force uses the link (R274). -/
def linkServes (s : State) (l : Nat) : Bool := (dieDir s (l / 4)).isSome

/-- A link is in a state that a link_ctl value acts on: 1 fence, 2 unfence, 3 retrain (R279, R280, Table 8.11). -/
def ctlAllowed (s : State) (l v : Nat) : Bool :=
  let k := (link s l).state
  match v with
  | 1 => k != 0 && k != 5
  | 2 => k == 5 && linkServes s l
  | 3 => (k == 2 || k == 3 || k == 4) && linkServes s l
  | _ => false

/-- What a link_ctl value does: a fenced link stays so, an unfenced one retrains at once, and retrain releases a held link and
retrains one that is up or down. -/
def linkCtl (s : State) (l v : Nat) : State :=
  let x := link s l
  if ctlAllowed s l v = false then s
  else if v = 1 then moveLink s l { x with state := 5, lost := false }
  else if v = 2 then release s l { x with attempts := 0 }
  else release s l { x with attempts := 0, lost := x.state == 2 || x.lost }

/-- LINK_FENCE (R279, R280). -/
def execLinkFence (l : LinkNo) (s : State) : Host.Outcome State Fault Refusal := .next (linkCtl s l 1)

/-- LINK_UNFENCE (R280). -/
def execLinkUnfence (l : LinkNo) (s : State) : Host.Outcome State Fault Refusal := .next (linkCtl s l 2)

/-- LINK_RETRAIN (R279). -/
def execLinkRetrain (l : LinkNo) (s : State) : Host.Outcome State Fault Refusal := .next (linkCtl s l 3)

/-! ## Leaving the panel -/

/-- Coordinate, size and source coordinate of a cell in a direction. -/
def hopCoords (s : State) (x : Cell) (d : Nat) : Nat × Nat × Nat :=
  let t := s.links.topo
  match d / 2 with
  | 0 => (t.x, t.nx, x.sx.toNat)
  | 1 => (t.y, t.ny, x.sy.toNat)
  | _ => (t.z, t.nz, x.sz.toNat)

/-- Virtual channel of a torus hop: the dateline rule, or VC2 in rappel mode (R284, R288). -/
def hopVc (s : State) (x : Cell) (d : Nat) : BitVec 2 :=
  let c := (hopCoords s x d).1
  let n := (hopCoords s x d).2.1
  let src := (hopCoords s x d).2.2
  let up : Bool := d % 2 == 0
  let crossed : Bool := (up && decide (c < src)) || (!up && decide (src < c))
  let crosses : Bool := (up && c + 1 == n) || (!up && c == 0)
  if s.links.topo.rappel then 2 else if crossed || crosses then 1 else 0

/-- The hop is the first one in its dimension (R289). -/
def firstHop (s : State) (x : Cell) (d : Nat) : Bool := (hopCoords s x d).1 == (hopCoords s x d).2.2

/-- A count one step nearer to zero (R284). -/
def stepCount (v : BitVec 5) : BitVec 5 := if hopCount v > 0 then v - 1 else if hopCount v < 0 then v + 1 else v

/-- The cell as it goes on a link in a direction (R194, R284). -/
def hopCell (s : State) (x : Cell) (d : Nat) : Cell :=
  let y := { x with cls := 2, vc := hopVc s x d, pos := 3 }
  match d / 2 with
  | 0 => { y with dx := stepCount x.dx }
  | 1 => { y with dy := stepCount x.dy }
  | _ => { y with dz := stepCount x.dz }

/-- Credits that a cell needs on its virtual channel: one, two for the first hop of a dimension in VC2, beside those kept for
responses (R271, R289). -/
def creditsNeeded (s : State) (x : Cell) (d : Nat) : Nat :=
  let kept : Nat := if (hopCell s x d).ocls = 1 then 0 else if hopVc s x d = 2 then 16 else 64
  (if hopVc s x d = 2 ∧ firstHop s x d = true then 2 else 1) + kept

/-- A cell without a route is discarded at a link die, and counted (R283, R285). -/
def noRoute (s : State) (d : Nat) : State := dbump s (0x5A00 + d) 1 31 16

/-- The link that a cell at an exit link die takes, up[tag[1:0] mod u] (R283). -/
def exitLink (s : State) (d : Nat) (x : Cell) : Option Nat :=
  match upLinks s d with
  | [] => none
  | l0 :: ls => some ((l0 :: ls).getD (x.tag.toNat % 4 % (ls.length + 1)) l0)

/-- Credits and the replay buffer of a link allow a cell in a direction. -/
def mayExit (s : State) (x : Cell) (k l : Nat) : Bool :=
  decide (creditsNeeded s x k ≤ (link s l).credits (hopCell s x k).vc) && decide ((link s l).buf.length < replaySize)
    && (link s l).resend.isEmpty

/-- A cell of this panel's own, not a forwarded one. -/
def ownCell (s : State) (x : Cell) : Bool := isHere s (Cell.src x)

/-- It is the turn of another cell: the link took one of this kind last, and one of the other kind waits for it that may go
(R277). -/
def yields (s : State) (d : Nat) (x : Cell) (l : Nat) : Bool :=
  (link s l).lastOwn == ownCell s x && s.fab.net.any fun f =>
    f.at_ == .exit d && ownCell s f.cell != ownCell s x && exitLink s d f.cell == some l &&
      (match torusDir f.cell with
       | some k => mayExit s f.cell k l
       | none => false)

/-- CELL_EXIT (R194, R277, R283, R284, R288, R289): the cell that waits at an exit link die goes on its link when credits, the
replay buffer and the turn allow; with no usable link, it is discarded. The lanes go on through a change of step (R286). -/
def execCellExit (d : LinkDieNo) (x : Cell) (s : State) : Host.Outcome State Fault Refusal :=
  .next
    (if s.fab.net.contains ⟨.exit d, x⟩ then
       match torusDir x, exitLink s d x with
       | some k, some l =>
         let y := hopCell s x k
         if mayExit s x k l = false ∨ yields s d x l = true then s
         else
           let need := creditsNeeded s x k
           let t := takeCell s (.exit d) x
           let t := setLink t l { (link t l).spend y.vc with lastOwn := ownCell s x }
           sendCw t l 0 (link t l).lastIn 0 0 [y] need
       | _, _ => noRoute (takeCell s (.exit d) x) d
     else s)

/-! ## Entering the panel -/

/-- The route that leg 3 spells. -/
def leg3Path (x : Cell) : Path :=
  ([x.l3s0, x.l3s1, x.l3s2].map fun g => (segDir g, segHops g)).filter fun g => g.2 != 0

/-- Leg 3 holds entry choice (R198, Table 6.4). -/
def entryChoice (x : Cell) : Bool := x.l3s0 == 0x7F

/-- Segments that enter a grid site meet a fenced router there or further on; at the die of the endpoint, its own router
counts too. Whether a router drops the cell before does not. -/
def segsCross (hm : Assoc Nat) (half : Bool) (ep : Nat) : Nat → List Dir → Bool
  | site, [] => site == siteOfEp ep && (rimOfEp ep).isNone && holed hm site (routerOfEp ep)
  | site, d :: ds =>
    holed hm site (edgeRouter site d half) ||
      (match siteOfPlace (stepDir d (placeOfSite site)) with
       | some t => holed hm t (edgeRouter t (dirBack d) half) || segsCross hm half ep t ds
       | none => false)

/-- Explicit segments of leg 3 cross a fenced router (R197). -/
def leg3Crosses (s : State) (d : Nat) (x : Cell) : Bool :=
  let hm := holesAt s (240 + d)
  match rimOfEp (epLink d), Path.dirs (leg3Path x) with
  | some r, k :: ks =>
    k == dirBack (rimSite r).2 &&
      (holed hm (rimSite r).1 (edgeRouter (rimSite r).1 (rimSite r).2 x.half)
        || segsCross hm x.half x.dstEp.toNat (rimSite r).1 ks)
  | _, _ => false

/-- A route from an entry link die to an endpoint of this panel, by the rule of a source NI (R198, R200). -/
def entryRoute (s : State) (d : Nat) (x : Cell) : Option Route :=
  (leastRank (candidates (holesAt s (240 + d)) (wordsAt s (240 + d)) (epLink d) x.dstEp.toNat (x.tag.getLsbD 0))).map
    Prod.snd

/-- The transit-route table's route from an entry to an exit link die, for the hole map it was computed for (R285). -/
def transitRoute (hm : Assoc Nat) (d e : Nat) : Option Path :=
  (leastRank (candidates hm [] (epLink d) (epLink e) false)).map fun c => c.2.path

/-- The n entries of least rank, the ranks all different. -/
def leastFew {α : Type} : Nat → List (Nat × α) → List (Nat × α)
  | 0, _ => []
  | n + 1, l =>
    match leastRank l with
    | none => []
    | some a => a :: leastFew n (l.filter fun b => b.1 != a.1)

/-- The transit-route table of an entry link die and a direction: up to four exit link dies with a route, those of the fewest
hops, and of equal ones the lower number (R285, log 81). -/
def transitTable (s : State) (hm : Assoc Nat) (d k : Nat) : List (Nat × Path) :=
  (leastFew 4 ((dirDies s.links.topo k).filterMap fun e =>
    (transitRoute hm d e).map fun p => (p.hops * 32 + e, e, p))).map Prod.snd

/-- Usable transit routes to the exits of a direction, with their ranks by R200 (R285). -/
def transitChoices (s : State) (d k : Nat) (tag0 : Bool) : List (Nat × Route) :=
  match s.fab.transit with
  | none => []
  | some hm =>
    ((transitTable s hm d k).filter fun r => bit s.links.exitMap r.1).flatMap fun r =>
      let e := r.1
      let p := r.2
      [false, true].filterMap fun h =>
        (pathCost (holesAt s (240 + d)) (wordsAt s (240 + d)) h (epLink d) (epLink e) p).map fun c =>
          (routeKey c tag0 p h, ⟨p, h⟩)

/-- The cell as the entry link die sends it into the panel, with the mark of a replaced leg 3; none without a route
(R195 to R198, R285). -/
def entryCell (s : State) (d : Nat) (x : Cell) : Option (Cell × Bool) :=
  match torusDir x with
  | some k => (leastRank (transitChoices s d k (x.tag.getLsbD 0))).map fun r => ({ setLeg1 x r.2 with pos := 0 }, false)
  | none =>
    let y := { x with cls := x.ocls, vc := 1, pos := 4 }
    if entryChoice x then (entryRoute s d x).map fun r => (setLeg3 y r, false)
    else if leg3Crosses s d x then (entryRoute s d x).map fun r => (setLeg3 y r, true)
    else some (y, false)

/-- CELL_ENTRY (R195 to R198, R285): the cell goes into the panel, or is discarded without a route; its buffer frees, and a
credit goes back (R271). -/
def execCellEntry (l : LinkNo) (x : Cell) (s : State) : Host.Outcome State Fault Refusal :=
  .next
    (let d := l.val / 4
     if s.fab.net.contains ⟨.entry l, x⟩ && dieClocked s (240 + d) then
       let s := takeCell s (.entry l) x
       let s := if (link s l).state = 2 then sendCw s l 1 (link s l).lastIn x.vc.toNat 1 [] 0 else s
       match entryCell s d x with
       | some (y, swapped) =>
         let s := if swapped then dbump s (0x5A00 + d) 1 47 32 else s
         putCells s [⟨.router (injectLoc (epLink d)) none, y⟩]
       | none => noRoute s d
     else s)

/-! ## The exit map -/

/-- Link dies with a link up (R282). -/
def exitBits (s : State) : Nat :=
  (List.range 24).foldl (fun n d => if (upLinks s d).isEmpty then n else n + 2 ^ d) 0

/-- EXIT_MAP_CHANGE (R282): the map reaches every NI and link die, and is published with its generation count. -/
def execExitMapChange (s : State) : Host.Outcome State Fault Refusal :=
  .next
    (let m := exitBits s
     if m = s.links.exitMap then s
     else bumpGen (dset { s with links := { s.links with exitMap := m } } 0x5810 0 m) 0x5810 1)

end Sys2Proof.Machine
end

