-- ==== Sys2Proof/Machine/Fp32.lean ====
section
/-!
DEFINITION. Fp32.lean: FP32 and integer arithmetic of the vector unit (R39, R40, R131, R132, R134, R135, Table 4.12).
Every operation works on 32-bit lanes and answers the lane and the flags it sets.
-/
namespace Sys2Proof.Machine

/-- An FP32 input: a subnormal reads as zero of its sign and sets vec_flush (R39). -/
def fpIn (a : BitVec 32) : Val × Astat :=
  match decodeFloat .fp32 a.toNat with
  | .fin s m e => if 0 < m ∧ m < 2 ^ 23 then (.fin s 0 e, fVecFlush) else (.fin s m e, 0)
  | v => (v, 0)

/-- The canonical NaN of FP32 (R38). -/
def fpNan : BitVec 32 := 0x7FC00000

/-- An FP32 arithmetic result before rounding. -/
inductive FpRes where
  /-- NaN; invalid tells that the operation had no defined result. -/
  | nan (invalid : Bool)
  /-- An exact infinity. -/
  | inf (neg : Bool)
  /-- A quotient by zero (R134). -/
  | divZero (neg : Bool)
  | fin (neg : Bool) (x : Mag)
  deriving DecidableEq, Repr

/-- Rounding of an FP32 arithmetic result (R39). -/
def fpOut (m : Rnd) (r : FpRes) : BitVec 32 × Astat :=
  match r with
  | .nan invalid => (fpNan, flagIf invalid fVecInvalid)
  | .inf neg => (BitVec.ofNat 32 (infCode .fp32 neg), 0)
  | .divZero neg => (BitVec.ofNat 32 (infCode .fp32 neg), fVecOvf)
  | .fin neg x =>
    if x.isZero then (BitVec.ofNat 32 (withSign .fp32 neg 0), 0)
    else
      let q := floatGrid .fp32 x
      let n := roundAt m x q
      if roundsToZero .fp32 n q then (BitVec.ofNat 32 (withSign .fp32 neg 0), fVecFlush)
      else if beyondMax .fp32 n q then
        (BitVec.ofNat 32 (if m = .zero then extremeCode .fp32 neg else infCode .fp32 neg), fVecOvf)
      else (BitVec.ofNat 32 (withSign .fp32 neg (encodeMag .fp32 n q)), 0)

/-- m x 2^e with a sign, as an integer multiple of 2^g, for g at most e. -/
def alignTo (neg : Bool) (m : Nat) (e g : Int) : Int :=
  let v : Int := (m * 2 ^ (e - g).toNat : Nat)
  if neg then -v else v

/-- Exact sum of two values; the sum of exact zero is +0 unless both are -0 (R39, IEEE 754-2019). -/
def valAdd (x y : Val) : FpRes :=
  match x, y with
  | .nan, _ => .nan false
  | _, .nan => .nan false
  | .inf a, .inf b => if a = b then .inf a else .nan true
  | .inf a, _ => .inf a
  | _, .inf b => .inf b
  | .fin s m e, .fin t n f =>
    let g := min e f
    let v := alignTo s m e g + alignTo t n f g
    if v = 0 then .fin (s && t) (.rat 0 1 0) else .fin (decide (v < 0)) (.rat v.natAbs 1 g)

/-- Exact product of two values. -/
def valMul (x y : Val) : FpRes :=
  match x, y with
  | .nan, _ => .nan false
  | _, .nan => .nan false
  | .inf a, .inf b => .inf (a ^^ b)
  | .inf a, .fin t n _ => if n = 0 then .nan true else .inf (a ^^ t)
  | .fin s m _, .inf b => if m = 0 then .nan true else .inf (s ^^ b)
  | .fin s m e, .fin t n f => .fin (s ^^ t) (.rat (m * n) 1 (e + f))

/-- Exact quotient; division by zero, of an infinity too, is marked except 0 / 0 (R134). -/
def valDiv (x y : Val) : FpRes :=
  match x, y with
  | .nan, _ => .nan false
  | _, .nan => .nan false
  | .inf _, .inf _ => .nan true
  | .inf a, .fin t n _ => if n = 0 then .divZero (a ^^ t) else .inf (a ^^ t)
  | .fin s _ _, .inf b => .fin (s ^^ b) (.rat 0 1 0)
  | .fin s m e, .fin t n f =>
    if n = 0 then (if m = 0 then .nan true else .divZero (s ^^ t))
    else .fin (s ^^ t) (.rat m n (e - f))

/-- Square root. -/
def valSqrt (x : Val) : FpRes :=
  match x with
  | .nan => .nan false
  | .inf neg => if neg then .nan true else .inf false
  | .fin s m e => if m = 0 then .fin s (.rat 0 1 0) else if s then .nan true else .fin false (.root m e)

/-- The opposite value. -/
def valNeg : Val → Val
  | .nan => .nan
  | .inf s => .inf (!s)
  | .fin s m e => .fin (!s) m e

/-- A result that is a value (products are exact values before they are rounded). -/
def FpRes.toVal : FpRes → Val
  | .nan _ => .nan
  | .inf s => .inf s
  | .divZero s => .inf s
  | .fin s (.rat n _ e) => .fin s n e
  | .fin s (.root n e) => .fin s n e

/-- A result is NaN because the operation is invalid. -/
def FpRes.invalid : FpRes → Bool
  | .nan b => b
  | _ => false

/-- One value after another in one operation, flags together. -/
def withFlags (f : Astat) (r : BitVec 32 × Astat) : BitVec 32 × Astat := (r.1, f ||| r.2)

/-- A signaling NaN of IEEE 754-2019 binary32: the highest fraction bit of the NaN is clear. -/
def fpSignaling (a : BitVec 32) : Bool := bits a.toNat 30 23 == 255 && bits a.toNat 22 0 != 0 && !a.getLsbD 22

/-- Flags that an operand of FP32 arithmetic sets: the flush of a subnormal, and the invalid operation on a signaling NaN
(R39, IEEE 754-2019). -/
def fpOperand (a : BitVec 32) : Astat := (fpIn a).2 ||| flagIf (fpSignaling a) fVecInvalid

/-- va + b in FP32 (R39, R131). -/
def fpAdd (m : Rnd) (a b : BitVec 32) : BitVec 32 × Astat :=
  withFlags (fpOperand a ||| fpOperand b) (fpOut m (valAdd (fpIn a).1 (fpIn b).1))

/-- va - b in FP32. -/
def fpSub (m : Rnd) (a b : BitVec 32) : BitVec 32 × Astat :=
  withFlags (fpOperand a ||| fpOperand b) (fpOut m (valAdd (fpIn a).1 (valNeg (fpIn b).1)))

/-- va x b in FP32. -/
def fpMul (m : Rnd) (a b : BitVec 32) : BitVec 32 × Astat :=
  withFlags (fpOperand a ||| fpOperand b) (fpOut m (valMul (fpIn a).1 (fpIn b).1))

/-- va x b + vc, rounded once. DESIGN CHOICE (log 61): the product of zero and an infinity sets vec_invalid whatever the
addend is; IEEE 754-2019 leaves it open when the addend is a quiet NaN. -/
def fpFma (m : Rnd) (a b c : BitVec 32) : BitVec 32 × Astat :=
  let p := valMul (fpIn a).1 (fpIn b).1
  withFlags (fpOperand a ||| fpOperand b ||| fpOperand c ||| flagIf p.invalid fVecInvalid)
    (fpOut m (valAdd p.toVal (fpIn c).1))

/-- va / b. -/
def fpDiv (m : Rnd) (a b : BitVec 32) : BitVec 32 × Astat :=
  withFlags (fpOperand a ||| fpOperand b) (fpOut m (valDiv (fpIn a).1 (fpIn b).1))

/-- The square root of va. -/
def fpSqrt (m : Rnd) (a : BitVec 32) : BitVec 32 × Astat :=
  withFlags (fpOperand a) (fpOut m (valSqrt (fpIn a).1))

/-- The code of an FP32 input value that is not NaN: an input read as zero gives that zero (R39). -/
def fpRead (a : BitVec 32) : BitVec 32 :=
  match (fpIn a).1 with
  | .fin s 0 _ => BitVec.ofNat 32 (withSign .fp32 s 0)
  | _ => a

/-- Order of two FP32 values, with -0 below +0 (R134): a key that rises with the value. -/
def fpKey (a : BitVec 32) : Int :=
  let m : Int := (a.toNat % 2 ^ 31 : Nat)
  if a.getLsbD 31 then -m - 1 else m

/-- Minimum or maximum (R134): NaN when either source is NaN, with no flag. -/
def fpMinMax (big : Bool) (a b : BitVec 32) : BitVec 32 × Astat :=
  if (fpIn a).1 = .nan ∨ (fpIn b).1 = .nan then (fpNan, 0)
  else
    let x := fpRead a
    let y := fpRead b
    let takeX := if big then decide (fpKey x ≥ fpKey y) else decide (fpKey x ≤ fpKey y)
    ((if takeX then x else y), (fpIn a).2 ||| (fpIn b).2)

/-- Absolute value: only the sign bit changes; NaN gives the canonical NaN (R134). -/
def fpAbs (a : BitVec 32) : BitVec 32 :=
  if decodeFloat .fp32 a.toNat = .nan then fpNan else a &&& 0x7FFFFFFF

/-- Negation: only the sign bit changes; NaN gives the canonical NaN (R134). -/
def fpNeg (a : BitVec 32) : BitVec 32 :=
  if decodeFloat .fp32 a.toNat = .nan then fpNan else a ^^^ 0x80000000

/-- The conditions of Table 4.12 on an order of two numbers. -/
def condHolds (cond : Nat) (lt eq : Bool) : Bool :=
  match cond with
  | 0 => eq
  | 1 => !eq
  | 2 => lt
  | 3 => lt || eq
  | 4 => !(lt || eq)
  | 5 => !lt
  | _ => false

/-- FP32 comparison (R135, Table 4.12): a NaN operand makes only 'not equal' and 'unordered' true. DESIGN CHOICE (log 61): no
NaN operand sets vec_invalid; R39 does not say which comparison of IEEE 754-2019 it is. -/
def fpCmp (cond : Nat) (a b : BitVec 32) : Bool × Astat :=
  let x := fpIn a
  let y := fpIn b
  let fl := x.2 ||| y.2
  match x.1, y.1 with
  | .nan, _ => (cond == 1 || cond == 6, fl)
  | _, .nan => (cond == 1 || cond == 6, fl)
  | _, _ =>
    let p := fpKey (fpRead a)
    let q := fpKey (fpRead b)
    let zero := (fpRead a).toNat % 2 ^ 31 == 0 && (fpRead b).toNat % 2 ^ 31 == 0
    (condHolds cond (decide (p < q) && !zero) (decide (p = q) || zero), fl)

/-- An integer lane of the format: the low bits, sign-extended (R131). -/
def intIn (f : Fmt) (a : BitVec 32) : Int := signedOf f.width a.toNat

/-- An exact integer result saturated or wrapped to the format and sign-extended; vec_ovf when it does not fit (R131). -/
def intOut (f : Fmt) (ovf : Bool) (v : Int) : BitVec 32 × Astat :=
  let r := fitInt f.width ovf v
  (BitVec.ofInt 32 (signedOf f.width r.1), flagIf r.2 fVecOvf)

/-- Floor of a value from 0 to 255 that is not NaN; infinities are clamped (R137). -/
def clampFloor (v : Val) : Nat :=
  match v with
  | .fin false m e => min (scaleFloor m e).1 255
  | .inf false => 255
  | _ => 0

/-- The clamped value u of R137 as an FP32 code. -/
def clampU (u : BitVec 32) : BitVec 32 :=
  match (fpIn u).1 with
  | .inf false => 0x437F0000
  | .fin false m e => if (scaleFloor m e).1 ≥ 255 then 0x437F0000 else u
  | _ => 0

/-- An exact value as an FP32 code, for values that FP32 holds. -/
def fpExact (r : FpRes) : BitVec 32 := (fpOut .near r).1

/-- Activation of x through a table (R137). -/
def fpAct (tab : List (BitVec 32)) (lo inv x : BitVec 32) : BitVec 32 × Astat :=
  let xin := fpIn x
  if xin.1 = .nan then (fpNan, xin.2)
  else
    let d := fpSub .near x lo
    let u := fpMul .near d.1 inv
    if (fpIn u.1).1 = .nan then (fpNan, d.2 ||| u.2)
    else
      let uc := clampU u.1
      let i := min (clampFloor (fpIn u.1).1) 254
      let f := fpExact (valAdd (fpIn uc).1 (.fin true i 0))
      let ti := tab.getD i 0
      let dd := fpSub .near (tab.getD (i + 1) 0) ti
      let r := fpFma .near f dd.1 ti
      (r.1, d.2 ||| u.2 ||| dd.2 ||| r.2)

end Sys2Proof.Machine
end

