-- ==== Sys2Proof/Machine/Targets.lean ====
section
/-!
DEFINITION. Targets.lean: reads and writes at their target on this panel (R163, R190, R239, R242 to R246), and the fabric's
multicast messages (R204 to R207).
-/
namespace Sys2Proof.Machine

open Sys2Proof

/-! ## HBM -/

/-- Place of a byte of a stack in State.hbm. -/
def hbmKey (m off : Nat) : Nat := m * 2 ^ 36 + off

def hbmRead (s : State) (m off n : Nat) : List Byte := memRead s.hbm (hbmKey m off) n

def hbmWrite (s : State) (m off : Nat) (bs : List Byte) : State := { s with hbm := memWrite s.hbm (hbmKey m off) bs }

/-- Pseudo-channel of a line's offset (R243). -/
def pseudoChan (off : Nat) : Nat := bits off 11 6 ^^^ bits off 17 12

/-- Channel of an offset (R243). -/
def chanOf (off : Nat) : Nat := pseudoChan off / 2

/-- Lines that a range touches. -/
def linesOf (off n : Nat) : List Nat :=
  if n = 0 then [] else (List.range ((off + n - 1) / 64 - off / 64 + 1)).map fun i => off / 64 + i

/-- A requester of a channel is locked out (R246): 0 fabric, 1 reduce, 2 gather, 3 re-layout, 4 scrub. -/
def lockedOut (s : State) (m ch req : Nat) : Bool := agetD (8 * ch + req) false (msite s m).locks

/-- A range meets a channel that a requester is locked out of. -/
def rangeLocked (s : State) (m req off n : Nat) : Bool :=
  (msite s m).locks.any (fun e => e.2) && (linesOf off n).any fun l => lockedOut s m (chanOf (64 * l)) req

/-- Bytes of a stack that exist and that the requester may reach. -/
def hbmOk (s : State) (m req off n : Nat) : Bool := decide (off + n ≤ hbmSize) && !rangeLocked s m req off n

/-- An uncorrectable HBM read: counted, with its event (R239, Table 9.13); the fourth and later in 24 hours recommend that
the site be retired (Table 13.8). -/
def hbmUncorrectable (s : State) (drill : Bool) (m off : Nat) : State :=
  let s := dbump s (0xA100 + m) 2 47 32
  let s := raiseD s drill 0x0403 (ownerOfSite s m)
    (pf 0 4 m ||| pf 4 5 (chanOf off) ||| pf 9 1 (pseudoChan off % 2) ||| pf 12 18 (off / 2 ^ 18))
  if drill then s
  else
    let ts := recent s 86400 (agetD m [] s.health.hbmUnc) ++ [s.prc]
    let s := { s with health := { s.health with hbmUnc := aput m ts s.health.hbmUnc } }
    if ts.length = 4 then recommend s (ownerOfSite s m) 3 m 5 else s

/-! ## What a read reports -/

/-- The line that a finding names. -/
def eccPos : EccObs → Nat
  | .clean => 0
  | .corrected l => l
  | .uncorrectable l => l
  | .parity l => l

/-- A finding seen from k lines further on. -/
def eccBack (k : Nat) : EccObs → EccObs
  | .clean => .clean
  | .corrected l => .corrected (l - k)
  | .uncorrectable l => .uncorrectable (l - k)
  | .parity l => .parity (l - k)

/-- A finding on one of the first k lines. -/
def eccFirst (k : Nat) (e : EccObs) : EccObs := if eccPos e < k then e else .clean

/-- No byte of the line is delivered (R157, R239). -/
def eccLost : EccObs → Bool
  | .uncorrectable _ => true
  | _ => false

/-- What a read of a site reports: a drill of kind 7 makes it uncorrectable (Table 13.10). -/
def siteObs (s : State) (m : Nat) (e : EccObs) : EccObs := if drillWith s 7 m then .uncorrectable 0 else e

/-- What a read from an offset of a stack reports: corrected errors and link parity retries are counted, an uncorrectable line
has its event (R239, Table 7.1). -/
def hbmObs (s : State) (m off : Nat) (e : EccObs) : State :=
  if drillWith s 7 m then drillOver (hbmUncorrectable s true m off)
  else match e with
    | .clean => s
    | .corrected _ => dbump s (0xA100 + m) 2 31 0
    | .uncorrectable l => hbmUncorrectable s false m (64 * (off / 64 + l))
    | .parity _ => dbump s (0xA100 + m) 2 63 48

/-- What a read of a scratchpad by another than its core's own units reports: it is counted (R157). -/
def spmObs (s : State) (c off : Nat) (e : EccObs) : State :=
  match e with
  | .corrected l => readGlitch s c (.corrected (off / 64 + l))
  | .uncorrectable _ => modCore s c fun k => { k with eccUncorr := min (k.eccUncorr + 1) 255 }
  | _ => s

/-! ## Status logs -/

/-- Status word (Table 7.4). -/
def statusWord (tag status count : Nat) : Word :=
  BitVec.ofNat 64 (fld 0 32 tag ||| fld 32 4 status ||| fld 36 4 1 ||| fld 40 24 (min count (2 ^ 24 - 1)))

/-- Bytes of the engine status logs; a slot that no descriptor has written holds the reset values of Table 7.4 (Table 7.2,
R249, log 80). -/
def logRead (s : State) (m off n : Nat) : Option (List Byte) :=
  if 0x1000 ≤ off ∧ off + n ≤ 0x1800 ∧ off % 8 = 0 ∧ n % 8 = 0 then
    some ((List.range (n / 8)).flatMap fun i =>
      leBytes 8 (agetD (off - 0x1000 + 8 * i) (statusWord 0 0 0) (msite s m).logs).toNat)
  else none

/-! ## One piece of a panel address -/

/-- A request of this panel that an absent or absorbing endpoint turns away is counted there (Table 6.9). -/
def turnedAway (s : State) (ep : Nat) : State :=
  if absent s ep then bumpNi s (niOfEp ep) 13 63 48
  else if absorbs s ep then bumpNi s (niOfEp ep) 13 15 0
  else s

/-- What a read of n bytes at a destination of this panel reports: the drill of its site, or a finding on one of its lines. -/
def destFinding (s : State) (d : Dest) (n : Nat) (e : EccObs) : EccObs :=
  match epKind d.ep, d.space with
  | .mem _, 4 => .clean
  | .mem m, _ => siteObs s m (eccFirst (linesOf d.off n).length e)
  | .core _, 2 => eccFirst (linesOf d.off n).length e
  | _, _ => .clean

/-- The read reports it. -/
def destObs (s : State) (d : Dest) (n : Nat) (e : EccObs) : State :=
  match epKind d.ep, d.space with
  | .mem _, 4 => s
  | .mem m, _ => hbmObs s m d.off (eccFirst (linesOf d.off n).length e)
  | .core c, 2 => spmObs s c d.off (eccFirst (linesOf d.off n).length e)
  | _, _ => s

/-- Bytes at a destination of this panel, read as an engine or a host die reads them: none where the target answers with an
error. req is the requester class at the engine's own stack (R245). -/
def destRead (s : State) (own req : Nat) (d : Dest) (n : Nat) : Option (List Byte) :=
  if absent s d.ep || absorbs s d.ep then none
  else match epKind d.ep, d.space with
    | .mem m, 4 => logRead s m d.off n
    | .mem m, _ => if hbmOk s m (if m = own then req else 0) d.off n then some (hbmRead s m d.off n) else none
    | .core c, 2 => if d.off + n ≤ spmSize then some (spmRead s c d.off n) else none
    | _, _ => none

/-- Bytes written at a destination of this panel: scratchpad and HBM. Narrow writes enter the core's gatherer (R158). -/
def destWrite (s : State) (own req : Nat) (d : Dest) (bs : List Byte) : Option State :=
  if absent s d.ep || absorbs s d.ep then none
  else match epKind d.ep, d.space with
    | .mem _, 4 => none
    | .mem m, _ => if hbmOk s m (if m = own then req else 0) d.off bs.length then some (hbmWrite s m d.off bs) else none
    | .core c, 2 => if d.off + bs.length ≤ spmSize then some (spmWrite s c d.off bs true) else none
    | _, _ => none

/-! ## Ranges of panel addresses -/

/-- Read n bytes of a partition's panel addresses, granule by granule in space 0x0 (R242). -/
def panelRead : Nat → State → Option Nat → Word → Nat → Option (List Byte)
  | 0, _, _, _, _ => some []
  | fuel + 1, s, part, a, n =>
    if n = 0 then some []
    else
      let k := min n (sideRoom (.rem a))
      match resolve s part a with
      | none => none
      | some d =>
        if !d.here s then none
        else match destRead s 16 0 d k with
          | none => none
          | some x => (panelRead fuel s part (a + BitVec.ofNat 64 k) (n - k)).map fun y => x ++ y

/-- What such a read reports, piece by piece: whether a line of it is lost, or an endpoint has turned it away. -/
def panelObs : Nat → State → Option Nat → Word → Nat → EccObs → State × Bool
  | 0, s, _, _, _, _ => (s, false)
  | fuel + 1, s, part, a, n, e =>
    if n = 0 then (s, false)
    else
      let k := min n (sideRoom (.rem a))
      match resolve s part a with
      | none => (s, true)
      | some d =>
        if !d.here s then (s, true)
        else if absent s d.ep || absorbs s d.ep then (turnedAway s d.ep, true)
        else
          let f := destFinding s d k e
          let t := destObs s d k e
          if eccLost f then (t, true)
          else panelObs fuel t part (a + BitVec.ofNat 64 k) (n - k)
            (if eccPos e < (linesOf d.off k).length then .clean else eccBack (linesOf d.off k).length e)

/-- Write bytes at a partition's panel addresses; bytes before a piece that fails stay written (R299). -/
def panelWrite : Nat → State → Option Nat → Word → List Byte → State × Bool
  | 0, s, _, _, _ => (s, true)
  | fuel + 1, s, part, a, bs =>
    if bs.isEmpty then (s, true)
    else
      let k := min bs.length (sideRoom (.rem a))
      match resolve s part a with
      | none => (s, false)
      | some d =>
        if !d.here s then (s, false)
        else match destWrite s 16 0 d (bs.take k) with
          | none => (turnedAway s d.ep, false)
          | some t => panelWrite fuel t part (a + BitVec.ofNat 64 k) (bs.drop k)

/-- Fuel for n bytes. -/
def granules (n : Nat) : Nat := n / 4096 + 3

def readRange (s : State) (part : Option Nat) (a : Word) (n : Nat) : Option (List Byte) := panelRead (granules n) s part a n

/-- Read a range with what the reading reports (R157, R239): no bytes where a line is lost or an endpoint does not answer. -/
def readRangeObs (s : State) (part : Option Nat) (a : Word) (n : Nat) (e : EccObs) : State × Option (List Byte) :=
  let o := panelObs (granules n) s part a n e
  (o.1, if o.2 then none else readRange s part a n)

def writeRange (s : State) (part : Option Nat) (a : Word) (bs : List Byte) : State × Bool :=
  panelWrite (granules bs.length) s part a bs

/-! ## Multicast messages -/

/-- Places that a multicast tree passes: site and direction of arrival, breadth first (R205). -/
def treeFrom (x : Cell) : Nat → List (Nat × Option Dir) → List (Nat × Option Dir)
  | 0, _ => []
  | _, [] => []
  | fuel + 1, (site, din) :: ps =>
    (site, din) :: treeFrom x fuel (ps ++ (mcastDirs x site din).filterMap fun d =>
      (siteOfPlace (stepDir d (placeOfSite site))).map fun t => (t, some d))

/-- The tree of a multicast cell. -/
def treeOf (x : Cell) : List (Nat × Option Dir) :=
  let e := x.srcEp.toNat
  treeFrom x 300 [(siteOfEp e, (rimOfEp e).map fun r => dirBack (rimSite r).2)]

/-- Routers that a place of the tree uses (R206). -/
def treeRouters (x : Cell) (p : Nat × Option Dir) : List (Nat × Nat) :=
  let back : Nat := match p.2 with
    | some d => edgeRouter p.1 (dirBack d) x.half
    | none => routerOfEp x.srcEp.toNat
  (p.1, back) :: (mcastDirs x p.1 p.2).map (fun d => (p.1, edgeRouter p.1 d x.half))
    ++ (mcastNis x p.1).map fun n => (p.1, n % 4)

/-- A router of the tree is in a route-hole map. -/
def treeHoled (hm : Assoc Nat) (x : Cell) : Bool :=
  !hm.isEmpty && (treeOf x).any fun p => (treeRouters x p).any fun r => holed hm r.1 r.2

/-- NIs that a multicast reaches (R205). -/
def treeNis (x : Cell) : List Nat := (treeOf x).flatMap fun p => mcastNis x p.1

/-- Send a multicast of one cell (R204 to R207): masks that select nothing, or trees that pass a hole on both halves, are
refused with address-error; a source keeps at most two multicast messages open. -/
def sendMcast (s : State) (ep : Nat) (p : Purpose) (masks : Word) (off : Nat) (bs : List Byte) : Sent :=
  let open2 : Nat := (s.fab.msgs.filter fun m => m.ep.toNat == ep && m.cells.any fun x => x.mc).length
  let tag := freeTag s ep
  if open2 ≥ 2 ∨ tag = 1024 then .noTag
  else
    let x0 := { srcCell s ep 3 0x19 0 tag 0 0 off bs with
      mc := true, vc := 1, pos := 0, colmask := BitVec.ofNat 20 (bits masks.toNat 19 0),
      rowmask := BitVec.ofNat 12 (bits masks.toNat 31 20), coremask := BitVec.ofNat 32 (bits masks.toNat 63 32) }
    let hm := holesAt s (dieNoOfEp ep)
    let x : Cell := { x0 with half := treeHoled hm x0 }
    if x.colmask = 0 ∨ x.rowmask = 0 ∨ x.coremask = 0 ∨ treeHoled hm x = true then .refused 1
    else
      let want := (treeNis x).length
      let s := { s with fab := { s.fab with
        msgs := if want = 0 then s.fab.msgs
          else s.fab.msgs ++ [⟨BitVec.ofNat 16 ep, BitVec.ofNat 10 tag, 0, [x], want, [], 0, [], s.prc, dget s 0x5000 1, p⟩] } }
      .sent (inject s x)

end Sys2Proof.Machine
end

