-- ==== Sys2Proof/Machine/Engines.lean ====
section
/-!
DEFINITION. Engines.lean: the engines of a memory site: descriptors and status words (R248, R249), the reduce engine and its
credits (R250 to R257), the gather engine (R258 to R260) and the re-layout engine (R261 to R263).
-/
namespace Sys2Proof.Machine

open Sys2Proof

/-! ## Descriptors -/

/-- Field [hi:lo] of a descriptor (Tables 7.3, 7.5, 7.7, 7.8). -/
def dfield (d : List Byte) (hi lo : Nat) : Nat := bits (leNat d) hi lo

def descTag (d : List Byte) : Nat := dfield d 95 64
def descEp (d : List Byte) : Nat := dfield d 31 16
def descCtr (d : List Byte) : Nat := dfield d 37 32
def descMode (d : List Byte) : Nat := dfield d 39 38

/-- Number of an engine (R249). -/
def engNo : Engine → Nat
  | .reduce => 0 | .gather => 1 | .relayout => 2

/-- The engine-fault event (Table 9.13). -/
def engineFault (s : State) (m eng status tag : Nat) : State :=
  raise s 0x0401 (ownerOfSite s m) (pf 0 4 m ||| pf 4 2 eng ||| pf 8 4 status ||| pf 32 32 tag)

/-- Fields of the common part are in range (Table 7.3). -/
def commonOk (d : List Byte) : Bool :=
  d.length == 64 &&
    match descMode d with
    | 0 => true
    | 1 => match epKind (descEp d) with
      | .core _ => true
      | _ => false
    | 2 => match epKind (descEp d) with
      | .host _ => true
      | _ => false
    | _ => false

/-- Write a status word into its log slot (R249). -/
def writeStatus (s : State) (m eng tag status count : Nat) : State :=
  modMsite s m fun x => { x with logs := aput (0x200 * eng + 8 * (tag % 16)) (statusWord tag status count) x.logs }

/-- The signal of done_mode 0b01 (R249); one that finds no tag waits (log 38). -/
def doneSignal (s : State) (m eng : Nat) (d : List Byte) : State :=
  let ep := descEp d
  let tag := descTag d
  if partOfEp s ep ≠ ownerOfSite s m then engineFault s m eng 2 tag
  else
    match sendReq s (epMem m) (.engSig m eng (BitVec.ofNat 32 tag)) 0 (hereDest s 2 ep 0) (signalReq (descCtr d)) with
    | .sent t => t
    | .refused _ => engineFault s m eng 2 tag
    | .noTag => modMsite s m fun x => { x with signals := x.signals ++ [(eng, d)] }

/-- Completion signals that waited for a tag are sent, oldest first, while a tag is free. -/
def pumpSignals : Nat → State → Nat → State
  | 0, s, _ => s
  | fuel + 1, s, m =>
    match (msite s m).signals with
    | [] => s
    | (eng, d) :: ds =>
      if freeTag s (epMem m) = 1024 then s
      else pumpSignals fuel (doneSignal (modMsite s m fun x => { x with signals := ds }) m eng d) m

/-- A descriptor ends: status word, engine-fault when it is not ok, then done_mode (R249). The report of a descriptor that no
host command submitted changes nothing at the host die (log 80). -/
def endDesc (s : State) (m eng : Nat) (d : List Byte) (owner : Option (Nat × Nat × Nat)) (status count : Nat) : State :=
  let s := writeStatus s m eng (descTag d) status count
  let s := if status = 0 then s else engineFault s m eng status (descTag d)
  if descMode d = 1 then doneSignal s m eng d
  else if descMode d = 2 then
    match owner with
    | some (r, i, e) => itemDone s r i e status
    | none => s
  else s

/-- What a submission gives: whether the write is acknowledged. -/
abbrev Submitted := State × Bool

/-- A refused descriptor: an unsupported version, or a field out of range or a full queue (R248). -/
def refuseDesc (s : State) (m eng src : Nat) (d : List Byte) : Submitted :=
  if dfield d 3 0 ≠ 1 then
    (raise s 0x0015 (ownerOfSite s m) (pf 0 16 src ||| pf 16 8 1 ||| pf 24 4 (dfield d 3 0)), false)
  else (engineFault s m eng 1 (descTag d), false)

/-! ## Reduce streams -/

def redStream (d : List Byte) : Nat := dfield d 133 128
def redNin (d : List Byte) : Nat := dfield d 136 134 + 1
def redExact (d : List Byte) : Bool := dfield d 137 137 == 1
def redBf16 (d : List Byte) : Bool := dfield d 141 138 == 1
def redMode (d : List Byte) : Nat := dfield d 143 142
def redLen (d : List Byte) : Nat := dfield d 175 152
def redOutAddr (d : List Byte) : Word := BitVec.ofNat 64 (dfield d 511 448)

/-- Element size (Table 7.5). -/
def redElem (d : List Byte) : Nat := if redExact d then 32 else if redBf16 d then 2 else 4

/-- Source key of input k. -/
def redInput (d : List Byte) (k : Nat) : BitVec 28 :=
  let v := dfield d (223 + 32 * k) (192 + 32 * k)
  srcKey (bits v 15 0) (bits v 19 16) (bits v 23 20) (bits v 27 24)

def redInputs (d : List Byte) : List (BitVec 28) := (List.range (redNin d)).map (redInput d)

/-- No element occurs twice. -/
def distinct (l : List (BitVec 28)) : Bool := l.eraseDups.length == l.length

/-- An input is a logical core or a memory site. -/
def inputKindOk (k : BitVec 28) : Bool :=
  match epKind (srcEpOf k) with
  | .core _ => true
  | .mem _ => true
  | _ => false

/-- Fields of an open descriptor (R250, R253, Table 7.5). -/
def redOpenOk (d : List Byte) : Bool :=
  decide (2 ≤ redNin d) && (redExact d || decide (dfield d 141 138 ≤ 1)) && redMode d != 3
    && decide (1 ≤ redLen d) && decide (redLen d ≤ 4 * 2 ^ 20) && redLen d % redElem d == 0
    && distinct (redInputs d) && (redInputs d).all inputKindOk
    && (match redMode d with
        | 0 => [0, 1, 2, 6].contains (spaceOf (redOutAddr d))
        | 2 => spaceOf (redOutAddr d) == 4
        | _ => true)

/-- A stream of a site. -/
def stream (s : State) (m n : Nat) : Option Stream := aget n (msite s m).streams

def setStream (s : State) (m n : Nat) (x : Stream) : State :=
  modMsite s m fun y => { y with streams := aput n x y.streams }

def dropStream (s : State) (m n : Nat) : State := modMsite s m fun y => { y with streams := adel n y.streams }

/-- A stream ends with a status; its count is the elements written (R249, log 22). -/
def endStream (s : State) (m n status : Nat) : State :=
  match stream s m n with
  | some x => endDesc (dropStream s m n) m 0 x.desc x.owner status (x.written / redElem x.desc)
  | none => s

/-- An open or close descriptor reaches the reduce engine and acts at once (R248, R250). -/
def submitReduce (s : State) (m src : Nat) (d : List Byte) (owner : Option (Nat × Nat × Nat)) : Submitted :=
  let n := redStream d
  if dfield d 3 0 ≠ 1 ∨ commonOk d = false then refuseDesc s m 0 src d
  else match dfield d 7 4 with
    | 1 =>
      if redOpenOk d && (stream s m n).isNone then
        (setStream s m n
          { desc := d, submitter := BitVec.ofNat 16 src, ins := (redInputs d).map fun k => ⟨k, 0, []⟩, written := 0,
            outCr := 0, again := none, badAnchor := false, lastPrc := s.prc, window := dget s 0xA000 2, owner := owner }, true)
      else refuseDesc s m 0 src d
    | 2 =>
      if (stream s m n).isSome then (endDesc (endStream s m n 8) m 0 d owner 0 0, true) else refuseDesc s m 0 src d
    | _ => refuseDesc s m 0 src d

/-! ## Credits and contributions -/

/-- Position of a source in a stream's table. -/
def inputIndex (x : Stream) (k : BitVec 28) : Option Nat :=
  (List.range x.ins.length).find? fun i => match x.ins[i]? with
    | some j => j.src == k
    | none => false

/-- Cells of credit granted and not yet freed: the window frees as output positions are written (R254). -/
def inUse (x : Stream) (i : RedIn) : Nat := i.granted - x.written / 48

/-- Change input number i. -/
def modInput (x : Stream) (i : Nat) (f : RedIn → RedIn) : Stream :=
  { x with ins := (List.zip (List.range x.ins.length) x.ins).map fun p => if p.1 = i then f p.2 else p.2 }

/-- A credit request is answered: status, cells, and the offset of the first (R254, Table 7.6). -/
def grantCredits (s : State) (m n : Nat) (k : BitVec 28) (want : Nat) : State × Nat × Nat × Nat :=
  let bad := modMsite s m fun x => { x with redStat := x.redStat + 2 ^ 32 }
  match stream s m n with
  | none => (bad, 1, 0, 0)
  | some x =>
    match inputIndex x k with
    | none => (bad, 2, 0, 0)
    | some i =>
      match x.ins[i]? with
      | none => (s, 2, 0, 0)
      | some j =>
        let g := min want (512 - inUse x j)
        (setStream s m n (modInput x i fun j => { j with granted := j.granted + g }), 0, g, 48 * j.granted)

/-- Bytes put into a position table. -/
def putBytes : Assoc Byte → Nat → List Byte → Assoc Byte
  | t, _, [] => t
  | t, p, b :: bs => putBytes (aput p b t) (p + 1) bs

/-- A contribution cell: its bytes when it lies inside the input's granted cells, else a refusal with its counter (R253 to
R255, R257). -/
def takeContrib (s : State) (m n : Nat) (k : BitVec 28) (pos : Nat) (bs : List Byte) : State × Bool :=
  let none_ : State × Bool := (modMsite s m fun x => { x with redStat := x.redStat + 2 ^ 32 }, false)
  match stream s m n with
  | none => none_
  | some x =>
    match inputIndex x k with
    | none => none_
    | some i =>
      match x.ins[i]? with
      | none => none_
      | some j =>
        if x.written ≤ pos ∧ pos + bs.length ≤ 48 * j.granted ∧ pos + bs.length ≤ redLen x.desc then
          (setStream s m n (modInput x i fun j => { j with data := putBytes j.data pos bs }), true)
        else
          (modMsite s m fun y =>
            let n := setBits y.redStat.toNat 31 0 ((bits y.redStat.toNat 31 0 + 1) % 2 ^ 32)
            { y with redStat := BitVec.ofNat 64 n }, false)

/-! ## Sums -/

/-- Bytes of a range that an input has delivered. -/
def delivered (j : RedIn) (p n : Nat) : Bool := (List.range n).all fun i => (aget (p + i) j.data).isSome

def inBytes (j : RedIn) (p n : Nat) : List Byte := (List.range n).map fun i => agetD (p + i) 0 j.data

/-- FP32 sum in table order (R251). -/
def sumFp32 : List (BitVec 32) → BitVec 32
  | [] => 0
  | a :: as => as.foldl (fun x y => (fpAdd .near x y).1) a

/-- A BF16 value widened to FP32 (R40). -/
def widenBf16 (v : Nat) : BitVec 32 := BitVec.ofNat 32 (v * 2 ^ 16)

/-- FP32 rounded once to BF16, to nearest even; an overflow gives infinity (R251). -/
def roundBf16 (v : BitVec 32) : Nat := (convVal .bf16 .near true (decodeVal .fp32 false v.toNat)).1

/-- Exact sum in table order, and whether the anchors differ (R53, R256). -/
def sumExact (rs : List (List Byte)) : List Byte × Bool :=
  match rs.map exactOf with
  | [] => ([], false)
  | a :: as =>
    if as.any fun b => b.2.1 != a.2.1 then ({ Acc.zero with nan := true }.toExact a.2.1, true)
    else ((as.foldl (fun x b => x.combine b.1) a.1).toExact a.2.1, false)

/-- One output element from the inputs' elements (R251). -/
def sumElem (d : List Byte) (es : List (List Byte)) : List Byte × Bool :=
  if redExact d then sumExact es
  else if redBf16 d then (leBytes 2 (roundBf16 (sumFp32 (es.map fun e => widenBf16 (leNat e)))), false)
  else (leBytes 4 (sumFp32 (es.map fun e => BitVec.ofNat 32 (leNat e))).toNat, false)

/-- Output bytes p to p + n - 1, and the first position whose anchors differ. -/
def redBytes (x : Stream) (p n : Nat) : List Byte × Option Nat :=
  let es := redElem x.desc
  let e0 := p / es
  let e1 := (p + n + es - 1) / es
  let rs := (List.range (e1 - e0)).map fun i =>
    (es * (e0 + i), sumElem x.desc (x.ins.map fun j => inBytes j (es * (e0 + i)) es))
  (((rs.flatMap fun r => r.2.1).drop (p - es * e0)).take n, (rs.find? fun r => r.2.2).map fun r => r.1)

/-- Every input has delivered the elements of output bytes p to p + n - 1 (R252). -/
def outReady (x : Stream) (p n : Nat) : Bool :=
  let es := redElem x.desc
  let lo := p / es * es
  let hi := min ((p + n + es - 1) / es * es) (redLen x.desc)
  x.ins.all fun j => delivered j lo (hi - lo)

/-! ## Output -/

/-- The version of an exact-form record is 0x1 (R8, R52). -/
def recordOk (r : List Byte) : Bool := (exactOf r).2.2 == 1

/-- The first input whose record among output bytes p to p + n - 1 has a version that is not supported, with the version (R8). -/
def badRecord (x : Stream) (p n : Nat) : Option (BitVec 28 × Nat) :=
  if redExact x.desc then
    x.ins.findSome? fun j =>
      ((List.range ((p + n + 31) / 32 - p / 32)).findSome? fun i =>
        let r := inBytes j (32 * (p / 32 + i)) 32
        if recordOk r then none else some (exactOf r).2.2).map fun v => (j.src, v)
  else none

/-- Next output cell: bytes from the position written so far to the end of its 48-byte cell, and no further than a granule of
space 0x0. -/
def outRoom (x : Stream) : Nat :=
  let a := redOutAddr x.desc + BitVec.ofNat 64 x.written
  let n := min (48 - x.written % 48) (redLen x.desc - x.written)
  if redMode x.desc = 0 then min n (sideRoom (.rem a)) else n

/-- Open output messages of a stream. -/
def openOut (s : State) (m n : Nat) : Nat :=
  (s.fab.msgs.filter fun q => match q.purpose with
    | .redOut m' n' => m' == m && n' == n
    | .redCredit m' n' => m' == m && n' == n
    | _ => false).length

def creditAsked (s : State) (m n : Nat) : Bool :=
  s.fab.msgs.any fun q => match q.purpose with
    | .redCredit m' n' => m' == m && n' == n
    | _ => false

/-- The reduce port that an omode 0b10 stream feeds: its panel and its address (Table 7.5). -/
def portDest (s : State) (m : Nat) (x : Stream) (a : Word) : Option Dest :=
  let px := dfield x.desc 179 176
  let py := dfield x.desc 183 180
  let pz := dfield x.desc 187 184
  let d : Dest := ⟨4, epMem (bits a.toNat 35 32), px, py, pz, bits a.toNat 31 0⟩
  if px == s.links.topo.x % 16 && py == s.links.topo.y % 16 && pz == s.links.topo.z % 16 then
    resolve s (some (ownerOfSite s m)) a
  else if bits a.toNat 59 36 = 0 then some d else none

/-- Send one output cell (R252). -/
def sendOut (s : State) (m n : Nat) (x : Stream) (bs : List Byte) : Sent :=
  let part := some (ownerOfSite s m)
  let a := redOutAddr x.desc + BitVec.ofNat 64 x.written
  match redMode x.desc with
  | 0 => sendTo s (epMem m) part (.redOut m n) a fun d => some (writeReq 1 d.cellOff bs)
  | 1 =>
    sendMcast s (epMem m) (.redOut m n) (agetD (dfield x.desc 146 144) 0 (msite s m).mcmask)
      ((redOutAddr x.desc).toNat % 2 ^ 20 + x.written) bs
  | _ =>
    match portDest s m x a with
    | none => .refused 1
    | some d =>
      sendReq s (epMem m) (.redOut m n) a d
        (if d.here s then ⟨3, 0x18, [(d.cellOff, bs)], 1⟩ else ⟨0, 1, [(d.cellOff, bs)], 1⟩)

/-- Output cells that could be sent now, at most a window. -/
def readyCells (x : Stream) : Nat → Nat → Nat
  | 0, _ => 0
  | f + 1, p =>
    let n := min (48 - p % 48) (redLen x.desc - p)
    if n = 0 ∨ outReady x p n = false then 0 else 1 + readyCells x f (p + n)

/-- Ask the next stream for credits (R252, R254). -/
def askCredits (s : State) (m n : Nat) (x : Stream) : State :=
  if creditAsked s m n then s
  else
    let a := redOutAddr x.desc + BitVec.ofNat 64 x.written
    match portDest s m x a with
    | none => endStream s m n 2
    | some d =>
      match sendReq s (epMem m) (.redCredit m n) a d (creditReq d (readyCells x 512 x.written)) with
      | .sent t => t
      | .refused _ => endStream s m n 2
      | .noTag => s

/-- The output of the stream would meet a channel of its own stack that the engine is locked out of (R246). -/
def outLocked (s : State) (m : Nat) (x : Stream) (n : Nat) : Bool :=
  redMode x.desc == 0 &&
    match resolve s (some (ownerOfSite s m)) (redOutAddr x.desc + BitVec.ofNat 64 x.written) with
    | some d => d.ep == epMem m && d.here s && rangeLocked s m 1 d.off n
    | none => false

/-- Forget the input bytes that no later element needs. -/
def forget (x : Stream) : Stream :=
  let lo := x.written / redElem x.desc * redElem x.desc
  { x with ins := x.ins.map fun j => { j with data := j.data.filter fun e => decide (lo ≤ e.1) } }

/-- An exact-form record whose version is not supported is refused with the event, structure 3 (R8, log 80). -/
def refuseRecord (s : State) (m : Nat) (src : BitVec 28) (ver : Nat) : State :=
  raise s 0x0015 (ownerOfSite s m) (pf 0 16 (srcEpOf src) ||| pf 16 8 3 ||| pf 24 4 ver)

/-- Write every output position that can be written (R252). A record of a version that is not supported ends the stream with
status refused, and none of it is summed (R8, log 80). -/
def runStream : Nat → State → Nat → Nat → State
  | 0, s, _, _ => s
  | fuel + 1, s, m, n =>
    match stream s m n with
    | none => s
    | some x =>
      let k := outRoom x
      if k = 0 ∨ outReady x x.written k = false then s
      else if redMode x.desc = 2 ∧ x.outCr = 0 then (if x.again.isSome then s else askCredits s m n x)
      else if outLocked s m x k then endStream s m n 7
      else match badRecord x x.written k with
      | some (src, ver) => endStream (refuseRecord s m src ver) m n 1
      | none =>
        let o := redBytes x x.written k
        match sendOut s m n x o.1 with
        | .noTag => s
        | .refused _ => endStream s m n 2
        | .sent t =>
          let t := match o.2 with
            | some p =>
              if x.badAnchor then t else raise t 0x0402 (ownerOfSite t m) (pf 0 4 m ||| pf 8 6 n ||| pf 32 32 p)
            | none => t
          let x' : Stream := { x with written := x.written + k, badAnchor := x.badAnchor || o.2.isSome, lastPrc := s.prc,
                                      outCr := if (x.written + k) % 48 = 0 then x.outCr - 1 else x.outCr }
          runStream fuel (setStream t m n (forget x')) m n

/-- Run a stream; no more than its window of cells waits. -/
def pumpStream (s : State) (m n : Nat) : State := runStream 1200 s m n

/-- Every output cell has been acknowledged (R252). -/
def streamDone (s : State) (m n : Nat) : Bool :=
  match stream s m n with
  | some x => x.written == redLen x.desc && openOut s m n == 0
  | none => false

/-- A request of a stream has failed: status addr (Table 7.4). -/
def streamFail (s : State) (m n : Nat) : State := endStream s m n 2

/-- A credit-grant for a stream's own output (R252, R254). -/
def streamGrant (s : State) (m n status granted : Nat) : State :=
  match stream s m n with
  | some x =>
    if status ≠ 0 then endStream s m n 2
    else if granted = 0 then setStream s m n { x with again := some (s.prc + usTicks (dget s 0x5000 3)) }
    else pumpStream (setStream s m n { x with outCr := x.outCr + granted }) m n
  | none => s

/-- After a grant of none and busy_backoff, the stream asks again (R254). -/
def streamRetry (s : State) (m n : Nat) : State :=
  match stream s m n with
  | some x =>
    match x.again with
    | some due => if due ≤ s.prc then pumpStream (setStream s m n { x with again := none }) m n else s
    | none => s
  | none => s

/-- CREDIT_REQUEST_RETRY (R254). -/
def execCreditRequestRetry (w : Contributor) (n : Nat) (s : State) : Host.Outcome State Fault Refusal :=
  .next
    (match w with
     | .core c => chanRetry s c n
     | .site m => streamRetry s m n)

/-! ## Gather, scatter and re-layout -/

/-- Fields of a gather or scatter descriptor (Table 7.7). -/
def gatherOk (d : List Byte) : Bool :=
  (dfield d 7 4 == 1 || dfield d 7 4 == 2) && decide (dfield d 191 188 ≤ 1) && decide (dfield d 255 252 ≤ 2)
    && dfield d 193 192 == 0 && [0, 1, 2, 6].contains (dfield d 319 316) && decide (1 ≤ dfield d 343 320)
    && decide (1 ≤ dfield d 359 344) && decide (dfield d 359 344 ≤ dfield d 391 360)
    && decide (dfield d 359 344 ≤ dfield d 415 392)

/-- perm[j], size[d] and sstride[d] (Table 7.8). -/
def relPerm (d : List Byte) (j : Nat) : Nat := dfield d (265 + 2 * j) (264 + 2 * j)
def relSize (d : List Byte) (i : Nat) : Nat := dfield d (287 + 16 * i) (272 + 16 * i)
def relStride (d : List Byte) (i : Nat) : Nat := dfield d (367 + 32 * i) (336 + 32 * i)
def relUnit (d : List Byte) : Nat := dfield d 262 256

/-- Fields of a re-layout descriptor (Table 7.8). -/
def relayoutOk (d : List Byte) : Bool :=
  dfield d 7 4 == 1 && [0, 1, 2, 6].contains (dfield d 191 188) && [0, 1, 2, 6].contains (dfield d 255 252)
    && decide (1 ≤ relUnit d) && decide (relUnit d ≤ 64)
    && (List.range 4).all (fun v => (List.range 4).any fun j => relPerm d j == v)
    && (List.range 4).all (fun i => decide (1 ≤ relSize d i)) && decide (relUnit d ≤ relStride d 0)

/-- Queue of an engine. -/
def engQueue (x : MSite) (eng : Nat) : List QDesc := if eng = 1 then x.gatq else x.relq

def setEngQueue (s : State) (m eng : Nat) (q : List QDesc) : State :=
  modMsite s m fun x => if eng = 1 then { x with gatq := q } else { x with relq := q }

/-- A descriptor reaches the gather (1) or the re-layout engine (2) (R248). -/
def submitQueue (s : State) (m eng src : Nat) (d : List Byte) (owner : Option (Nat × Nat × Nat)) : Submitted :=
  let q := engQueue (msite s m) eng
  if dfield d 3 0 ≠ 1 ∨ commonOk d = false ∨ (if eng = 1 then gatherOk d else relayoutOk d) = false ∨ 16 ≤ q.length then
    refuseDesc s m eng src d
  else (setEngQueue s m eng (q ++ [⟨d, BitVec.ofNat 16 src, false, 0, 0, [], .clean, false, false, owner⟩]), true)

/-- Submit to an engine by its number. -/
def submitTo (s : State) (m eng src : Nat) (d : List Byte) (owner : Option (Nat × Nat × Nat)) : Submitted :=
  if eng = 0 then submitReduce s m src d owner else submitQueue s m eng src d owner

/-- A status of Table 7.4 that an access of an engine ends with, or its bytes. -/
abbrev EngRead := Except Nat (List Byte)

/-- An engine reads one piece of this panel: channels of its own stack by its own requester class (R245, R246). -/
def engDestRead (s : State) (m eng : Nat) (d : Dest) (n : Nat) : EngRead :=
  if d.ep = epMem m ∧ d.space ≠ 4 ∧ rangeLocked s m (eng + 1) d.off n = true then .error 7
  else match destRead s m (eng + 1) d n with
    | some bs => .ok bs
    | none => .error 2

/-- An engine writes one piece of this panel. -/
def engDestWrite (s : State) (m eng : Nat) (d : Dest) (bs : List Byte) : Except Nat State :=
  if d.ep = epMem m ∧ d.space ≠ 4 ∧ rangeLocked s m (eng + 1) d.off bs.length = true then .error 7
  else match destWrite s m (eng + 1) d bs with
    | some t => .ok t
    | none => .error 2

/-- An engine reads a range of this panel. -/
def engRead : Nat → State → Nat → Nat → Word → Nat → EngRead
  | 0, _, _, _, _, _ => .ok []
  | fuel + 1, s, m, eng, a, n =>
    if n = 0 then .ok []
    else
      let k := min n (sideRoom (.rem a))
      match resolve s (some (ownerOfSite s m)) a with
      | none => .error 2
      | some d =>
        if !d.here s then .error 2
        else match engDestRead s m eng d k with
          | .error e => .error e
          | .ok x =>
            match engRead fuel s m eng (a + BitVec.ofNat 64 k) (n - k) with
            | .error e => .error e
            | .ok y => .ok (x ++ y)

/-- Pieces of one row, the last of which adds inc to the count. -/
def rowWork (x y : Side) (n inc : Nat) : List (Piece × Nat) :=
  let ps := pieces x y n
  (List.zip (List.range ps.length) ps).map fun p => (p.2, if p.1 + 1 = ps.length then inc else 0)

/-- Work of a gather or scatter, and whether an index is out of bounds (R259, R260). -/
def gatherWork (d : List Byte) (idx : List Nat) : List (Piece × Nat) × Bool :=
  let table := BitVec.ofNat 64 (dfield d 191 128)
  let buf := BitVec.ofNat 64 (dfield d 319 256)
  let rb := dfield d 359 344
  let ws := (List.zip (List.range idx.length) idx).flatMap fun p =>
    if p.2 = 0xFFFFFFFF then []
    else
      let u : Side := .rem (buf + BitVec.ofNat 64 (p.1 * dfield d 415 392))
      let t : Side := .rem (table + BitVec.ofNat 64 (p.2 * dfield d 391 360))
      if dfield d 447 416 ≤ p.2 then (if dfield d 7 4 = 1 then rowWork (.data [0]) u rb 0 else [])
      else if dfield d 7 4 = 1 then rowWork t u rb 1 else rowWork u t rb 1
  (ws, idx.any fun i => i != 0xFFFFFFFF && decide (dfield d 447 416 ≤ i))

/-- Source and destination offsets of a re-layout's element units, dimension 0 innermost (R261, R262). -/
def relayoutUnits (d : List Byte) : List (Nat × Nat) :=
  let sz := relSize d
  (List.range (sz 3)).flatMap fun i3 => (List.range (sz 2)).flatMap fun i2 =>
    (List.range (sz 1)).flatMap fun i1 => (List.range (sz 0)).map fun i0 =>
      let i (k : Nat) : Nat := [i0, i1, i2, i3].getD k 0
      let src := i0 * relStride d 0 + i1 * relStride d 1 + i2 * relStride d 2 + i3 * relStride d 3
      let j (k : Nat) : Nat := i (relPerm d k)
      let n (k : Nat) : Nat := sz (relPerm d k)
      (src, relUnit d * (j 0 + n 0 * (j 1 + n 1 * (j 2 + n 2 * j 3))))

/-- The places that n bytes at an address stand in, piece by piece. -/
def placesOf (s : State) (part : Nat) (a : Word) (n : Nat) : List (Word × Dest × Nat) :=
  (pieces (.rem a) .drop n).filterMap fun p => match p.src with
    | .rem b => (resolve s (some part) b).map fun d => (b, d, p.len)
    | _ => none

/-- Two places are of one memory, whatever space names it. -/
def oneMemory (d e : Dest) : Bool := d.ep == e.ep && d.px == e.px && d.py == e.py && d.pz == e.pz

/-- The stretches of the bytes at b, n of them, that the m bytes at a hold too, whatever spaces name them (R263). -/
def overlaps (s : State) (part : Nat) (a : Word) (m : Nat) (b : Word) (n : Nat) : List (Word × Nat) :=
  let xs := placesOf s part a m
  (placesOf s part b n).flatMap fun y => xs.filterMap fun x =>
    let lo := max x.2.1.off y.2.1.off
    let hi := min (x.2.1.off + x.2.2) (y.2.1.off + y.2.2)
    if oneMemory x.2.1 y.2.1 && decide (lo < hi) then some (y.1 + BitVec.ofNat 64 (lo - y.2.1.off), hi - lo) else none

/-- Where a piece reads this panel, its bytes as they are now. -/
def readNow (s : State) (m eng : Nat) (p : Piece) : Piece :=
  match p.src with
  | .rem a =>
    match resolve s (some (ownerOfSite s m)) a with
    | some d =>
      if d.here s then
        match engDestRead s m eng d p.len with
        | .ok bs => { p with src := .data bs }
        | .error _ => p
      else p
    | none => p
  | _ => p

/-- Work of a re-layout. Where the destination overlaps the source, the engine has read this panel's bytes before it writes,
and the bytes of the overlap become free (R263). -/
def relayoutWork (s : State) (m : Nat) (d : List Byte) : List (Piece × Nat) :=
  let src := BitVec.ofNat 64 (dfield d 191 128)
  let dst := BitVec.ofNat 64 (dfield d 255 192)
  let us := relayoutUnits d
  let span := (us.map fun u => u.1).foldl max 0 + relUnit d
  let ps := us.flatMap fun u =>
    (pieces (.rem (src + BitVec.ofNat 64 u.1)) (.rem (dst + BitVec.ofNat 64 u.2)) (relUnit d)).map fun p => (p, p.len)
  match overlaps s (ownerOfSite s m) src span dst (relUnit d * us.length) with
  | [] => ps
  | os =>
    (ps.map fun p => (readNow s m 2 p.1, p.2)) ++ os.flatMap fun o =>
      (pieces (.free s.fresh (o.1 - dst).toNat) (.rem o.1) o.2).map fun p => (p, 0)

/-- The descriptor that an engine executes. -/
def headDesc (s : State) (m eng : Nat) : Option QDesc := (engQueue (msite s m) eng).head?

def setHead (s : State) (m eng : Nat) (q : QDesc) : State :=
  setEngQueue s m eng (q :: (engQueue (msite s m) eng).drop 1)

/-- Open messages of an engine's descriptor to or from another panel. -/
def engMsgs (s : State) (m eng : Nat) : Nat :=
  (s.fab.msgs.filter fun q => match q.purpose with
    | .engWrite m' e' _ => m' == m && e' == eng
    | .engRead m' e' _ _ => m' == m && e' == eng
    | _ => false).length

/-- What one piece of an engine's work gives. -/
inductive EngStep where
  | done (s : State)
  | sent (s : State)
  | wait
  /-- With the endpoint of this panel that turned the request away counting it (Table 6.9). -/
  | fail (s : State) (status : Nat)
  deriving DecidableEq, Repr

/-- Write bytes at an address of this or another panel. -/
def engPut (s : State) (m eng : Nat) (a : Word) (bs : List Byte) (inc : Nat) : EngStep :=
  match resolve s (some (ownerOfSite s m)) a with
  | none => .fail s 2
  | some d =>
    if d.here s then
      match engDestWrite s m eng d bs with
      | .ok t => .done t
      | .error e => .fail (turnedAway s d.ep) e
    else
      match sendReq s (epMem m) (.engWrite m eng inc) a d (writeReq 1 d.cellOff bs) with
      | .sent t => .sent t
      | .refused _ => .fail s 2
      | .noTag => .wait

/-- One piece of an engine's work. -/
def engPiece (s : State) (m eng : Nat) (p : Piece) (inc : Nat) : EngStep :=
  match p.dst with
  | .rem b =>
    match p.src with
    | .rem a =>
      match resolve s (some (ownerOfSite s m)) a with
      | none => .fail s 2
      | some d =>
        if d.here s then
          match engDestRead s m eng d p.len with
          | .ok bs => engPut s m eng b bs inc
          | .error e => .fail (turnedAway s d.ep) e
        else if engMsgs s m eng ≠ 0 then .wait
        else
          match sendReq s (epMem m) (.engRead m eng b inc) a d (readReq d.cellOff p.len) with
          | .sent t => .sent t
          | .refused _ => .fail s 2
          | .noTag => .wait
    | .data bs => engPut s m eng b ((List.range p.len).map fun i => bs.getD (i % bs.length) 0) inc
    | .free n i => engPut s m eng b ((List.range p.len).map fun j => Config.freeByte n (i + j)) inc
    | _ => .done s
  | _ => .done s

/-- A descriptor fails with a status: nothing more is copied. -/
def failHead (s : State) (m eng status : Nat) : State :=
  match headDesc s m eng with
  | some q => setHead s m eng { q with todo := [], status := status, failed := true }
  | none => s

/-- Status of a descriptor that a line of a place is lost to: ecc at a stack (R239); a scratchpad answers with address-error
(R157). -/
def lostStatus (d : Dest) : Nat :=
  match epKind d.ep with
  | .mem _ => 3
  | _ => 2

/-- A drill of kind 7 has lost it. -/
def lostDrill (s : State) (d : Dest) : Bool :=
  match epKind d.ep with
  | .mem m => drillWith s 7 m
  | _ => false

/-- What the reads at the given places report: the state after them, the place of a line that is lost, and the findings of
reads still to come. -/
def readsObs : State → List (Word × Dest × Nat) → EccObs → State × Option Dest × EccObs
  | s, [], e => (s, none, e)
  | s, (_, d, n) :: ps, e =>
    let k := (linesOf d.off n).length
    if eccLost (destFinding s d n e) then (destObs s d n e, some d, .clean)
    else readsObs (destObs s d n e) ps (if eccPos e < k then .clean else eccBack k e)

/-- The place of this panel that a piece reads. -/
def pieceReads (s : State) (m : Nat) (p : Piece) : List (Word × Dest × Nat) :=
  match p.src with
  | .rem a => (placesOf s (ownerOfSite s m) a p.len).filter fun x => x.2.1.here s
  | _ => []

/-- The executing descriptor loses a line of its reads. -/
def lostHead (s : State) (m eng : Nat) (ps : List (Word × Dest × Nat)) (e : EccObs) (d : Dest) : State :=
  let t := failHead (readsObs s ps e).1 m eng (lostStatus d)
  match headDesc t m eng with
  | some q => setHead t m eng { q with drill := lostDrill s d }
  | none => t

/-- Do the work of the executing descriptor until it waits or ends. A piece whose line is lost is not written (R239). -/
def engPump : Nat → State → Nat → Nat → State
  | 0, s, _, _ => s
  | fuel + 1, s, m, eng =>
    match headDesc s m eng with
    | none => s
    | some q =>
      match q.todo with
      | [] => s
      | (p, inc) :: ps =>
        match engPiece s m eng p inc with
        | .wait => s
        | .fail t st => failHead t m eng st
        | .done t =>
          let o := readsObs t (pieceReads s m p) q.ecc
          match o.2.1 with
          | some d => lostHead s m eng (pieceReads s m p) q.ecc d
          | none => engPump fuel (setHead o.1 m eng { q with todo := ps, count := q.count + inc, ecc := o.2.2 }) m eng
        | .sent t =>
          let o := readsObs t (pieceReads s m p) q.ecc
          match o.2.1 with
          | some d => lostHead s m eng (pieceReads s m p) q.ecc d
          | none => engPump fuel (setHead o.1 m eng { q with todo := ps, ecc := o.2.2 }) m eng

def runEngine (s : State) (m eng : Nat) : State :=
  match headDesc s m eng with
  | some q => engPump q.todo.length s m eng
  | none => s

/-- An acknowledged write of a descriptor to another panel. -/
def engAck (s : State) (m eng inc : Nat) : State :=
  match headDesc s m eng with
  | some q => if q.started then runEngine (setHead s m eng { q with count := q.count + inc }) m eng else s
  | none => s

/-- Data that a descriptor read from another panel. -/
def engData (s : State) (m eng : Nat) (dst : Word) (bs : List Byte) (inc : Nat) : State :=
  match headDesc s m eng with
  | some q =>
    if q.started && !q.failed then
      runEngine (setHead s m eng { q with todo := rowWork (.data bs) (.rem dst) bs.length inc ++ q.todo }) m eng
    else s
  | none => s

/-- The indices of a gather or scatter. -/
def readIndices (s : State) (m : Nat) (d : List Byte) : Except Nat (List Nat) :=
  let n := dfield d 343 320
  match engRead (granules (4 * n)) s m 1 (BitVec.ofNat 64 (dfield d 255 192)) (4 * n) with
  | .error e => .error e
  | .ok bs => .ok ((List.range n).map fun i => leNat ((bs.drop (4 * i)).take 4))

/-- The places that hold the index list of a gather or scatter. -/
def listReads (s : State) (m eng : Nat) (d : List Byte) : List (Word × Dest × Nat) :=
  if eng = 1 then
    (placesOf s (ownerOfSite s m) (BitVec.ofNat 64 (dfield d 255 192)) (4 * dfield d 343 320)).filter fun x => x.2.1.here s
  else []

/-- The endpoint that turned the reading of the index list away counts it. -/
def listTurned (s : State) (m eng : Nat) (d : List Byte) : State :=
  match (listReads s m eng d).find? fun x => absent s x.2.1.ep || absorbs s x.2.1.ep with
  | some x => turnedAway s x.2.1.ep
  | none => s

/-- Work and status that a descriptor starts with. -/
def startWork (s : State) (m eng : Nat) (d : List Byte) : List (Piece × Nat) × Nat :=
  if eng = 1 then
    match readIndices s m d with
    | .error e => ([], e)
    | .ok idx => let w := gatherWork d idx; (w.1, if w.2 then 4 else 0)
  else (relayoutWork s m d, 0)

/-- DESCRIPTOR_START (R248, R259 to R263): an idle engine executes its first descriptor; ecc is what its reads of this panel
report, the index list's first, in the order of its work (R239). The reduce engine has no waiting descriptors. -/
def execDescriptorStart (m : MemSiteNo) (e : Engine) (ecc : EccObs) (s : State) : Host.Outcome State Fault Refusal :=
  .next
    (if e = .reduce then s
     else match headDesc s m (engNo e) with
       | none => s
       | some q =>
         if q.started then s
         else
           let w := startWork s m (engNo e) q.desc
           let o := readsObs (listTurned s m (engNo e) q.desc) (listReads s m (engNo e) q.desc) ecc
           let t := setHead { o.1 with fresh := o.1.fresh + 1 } m (engNo e)
             { q with started := true, todo := if o.2.1.isSome then [] else w.1, ecc := o.2.2
                      status := match o.2.1 with
                        | some d => lostStatus d
                        | none => w.2
                      drill := match o.2.1 with
                        | some d => lostDrill s d
                        | none => false }
           runEngine t m (engNo e))

/-- The executing descriptor has nothing left to copy and no open message. -/
def descDone (s : State) (m eng : Nat) : Bool :=
  match headDesc s m eng with
  | some q => q.started && q.todo.isEmpty && engMsgs s m eng == 0
  | none => false

/-! ## Host commands that submit descriptors -/

/-- List address and entry of a collective or reshard (Table 9.8). -/
def listEntry (r : List Byte) (e : Nat) : Word := BitVec.ofNat 64 (recField r 127 64 + 128 * e)

/-- A descriptor with done_ep, done_mode and tag overwritten by the host die (R315). -/
def hostDesc (d : List Byte) (host e : Nat) : List Byte :=
  leBytes 64 (setBits (setBits (setBits (leNat (d.take 64)) 31 16 (epHost host)) 39 38 2) 95 64 e)

/-- Engine of a command: reduce for a collective, re-layout for a reshard. -/
def cmdEngine (c : Cmd) : Nat := if cmdOp c.rec_ = 3 then 0 else 2

/-- Submit the entries of a command while their queues have room (R315). -/
def hostSubmit : Nat → State → Nat → Nat → State
  | 0, s, _, _ => s
  | fuel + 1, s, ring, idx =>
    match findCmd s ring idx with
    | none => s
    | some c =>
      match c.todo with
      | [] => s
      | e :: es =>
        let part := dget s (0x6880 + ring) 1
        let x := readRangeObs s (some part) (listEntry c.rec_ e) 128 .clean
        let next : State := modCmd x.1 ring idx fun c => { c with todo := es }
        match x.2 with
        | none => hostSubmit fuel (itemDone next ring idx e 2) ring idx
        | some b =>
          let m := (b.getD 64 0).toNat % 16
          let eng := cmdEngine c
          if ownerOfSite s m ≠ part then hostSubmit fuel (itemDone next ring idx e 2) ring idx
          else if absorbsSite s m = true ∨ absent s (epMem m) = true then
            hostSubmit fuel (itemDone (turnedAway next (epMem m)) ring idx e 2) ring idx
          else if eng = 2 ∧ 16 ≤ (msite s m).relq.length then s
          else
            let r := submitTo next m eng (epHost (ring / 64)) (hostDesc b (ring / 64) e) (some (ring, idx, e))
            hostSubmit fuel (if r.2 then r.1 else itemDone r.1 ring idx e 1) ring idx

/-- Commands that wait for room in an engine queue go on. -/
def resumeCmds (s : State) : State :=
  s.host.cmds.foldl (fun t c =>
    if c.st == .started && !c.todo.isEmpty && !c.aborted then hostSubmit c.todo.length t c.ring c.idx else t) s

/-- DESCRIPTOR_END (R249, R252): the stream's last output cell, or the executing descriptor's last byte, is acknowledged. -/
def execDescriptorEnd (m : MemSiteNo) (e : Engine) (n : Fin 64) (s : State) : Host.Outcome State Fault Refusal :=
  .next
    (if e = .reduce then
       match stream s m n with
       | some x => if streamDone s m n then resumeCmds (endStream s m n (if x.badAnchor then 5 else 0)) else s
       | none => s
     else match headDesc s m (engNo e) with
       | none => s
       | some q =>
         if descDone s m (engNo e) then
           let t := setEngQueue s m (engNo e) ((engQueue (msite s m) (engNo e)).drop 1)
           resumeCmds (blamed q.drill t fun u => endDesc u m (engNo e) q.desc q.owner q.status q.count)
         else s)

/-- STREAM_TIMEOUT (R257). -/
def execStreamTimeout (m : MemSiteNo) (n : Fin 64) (s : State) : Host.Outcome State Fault Refusal :=
  .next
    (match stream s m n with
     | some x => if x.lastPrc + usTicks x.window ≤ s.prc then endStream s m n 6 else s
     | none => s)

/-- A submitter that may reach the site's engines: a core of the owner, a host die, the base-camp die (R248); a site with no
owner takes the base-camp die's alone (R236). -/
def maySubmit (s : State) (m src : Nat) : Bool :=
  match epKind src with
  | .core c => mayReach s (corePart s c) (ownerOfSite s m)
  | .host _ => ownerOfSite s m != 0xFF
  | .base => true
  | _ => false

/-- A direct submission by an endpoint. -/
def submitRow (s : State) (m eng src : Nat) (d : List Byte) : State :=
  if maySubmit s m src && !absorbsSite s m && !absent s (epMem m) then (submitTo s m eng src d none).1 else s

/-- REDUCE_OPEN (R250). -/
def execReduceOpen (m : MemSiteNo) (src : BitVec 16) (d : List Byte) (s : State) : Host.Outcome State Fault Refusal :=
  .next (if dfield d 7 4 = 2 then s else submitRow s m 0 src.toNat d)

/-- REDUCE_CLOSE (R250). -/
def execReduceClose (m : MemSiteNo) (src : BitVec 16) (d : List Byte) (s : State) : Host.Outcome State Fault Refusal :=
  .next (if dfield d 7 4 = 2 then submitRow s m 0 src.toNat d else s)

/-- GATHER (R259). -/
def execGather (m : MemSiteNo) (src : BitVec 16) (d : List Byte) (s : State) : Host.Outcome State Fault Refusal :=
  .next (if dfield d 7 4 = 2 then s else submitRow s m 1 src.toNat d)

/-- SCATTER (R260). -/
def execScatter (m : MemSiteNo) (src : BitVec 16) (d : List Byte) (s : State) : Host.Outcome State Fault Refusal :=
  .next (if dfield d 7 4 = 2 then submitRow s m 1 src.toNat d else s)

/-- RELAYOUT (R261). -/
def execRelayout (m : MemSiteNo) (src : BitVec 16) (d : List Byte) (s : State) : Host.Outcome State Fault Refusal :=
  .next (submitRow s m 2 src.toNat d)

end Sys2Proof.Machine
end

