-- ==== Sys2Proof/Machine/HostQp.lean ====
section
/-!
DEFINITION. HostQp.lean: the ports of the host dies (R291 to R293), connections and queue pairs (R294 to R297), and the
outbound RDMA operations of event rings and of copy and query commands (R296, R314, R325, R328).
-/
namespace Sys2Proof.Machine

open Sys2Proof

/-! ## Queue pairs -/

/-- A queue pair of a host die. -/
def findQp (s : State) (h : Nat) (qpn : BitVec 24) : Option Qp := s.host.qps.find? fun q => q.host == h && q.qpn == qpn

/-- Change a queue pair. -/
def modQp (s : State) (h : Nat) (qpn : BitVec 24) (f : Qp → Qp) : State :=
  { s with host := { s.host with qps := replaceFirst (fun q => q.host == h && q.qpn == qpn) f s.host.qps } }

/-- Remove a queue pair. -/
def dropQp (s : State) (h : Nat) (qpn : BitVec 24) : State :=
  { s with host := { s.host with qps := s.host.qps.filter fun q => !(q.host == h && q.qpn == qpn) } }

/-- Full send rate, in units of 1/(20 x 2^20) of the port rate (R297). -/
def fullRate : Nat := 20 * 2 ^ 20

/-- Messages of connection set-up (Table 9.1), as State.out records them. -/
def cmRep : Nat := 2
def cmRejKind : Nat := 4
def cmDreqKind : Nat := 5
def cmDrepKind : Nat := 6

/-- A part of a copy or query has ended (R314, R319): the last one commits the command. -/
def copyPart (s : State) (ring idx : Nat) (ok : Bool) : State :=
  match findCmd s ring idx with
  | some c =>
    if c.st = .started then
      let c' : Cmd := { c with left := c.left.drop 1, fail := if ok then c.fail else some 6 }
      let s := modCmd s ring idx fun _ => c'
      if c'.left.isEmpty then finishCmd s ring idx (c'.fail.getD 0) else s
    else s
  | none => s

/-- An outbound operation that will not end fails its command. -/
def outLost (s : State) (o : OutOp) : State :=
  match o.for_ with
  | .event _ _ _ => s
  | .cmdWrite ring idx => copyPart s ring idx false
  | .cmdRead ring idx _ => copyPart s ring idx false

/-- A record that was not acknowledged stays queued (R328). -/
def recordKept (s : State) (o : OutOp) : State :=
  match o.for_ with
  | .event r i e => setEring s r { ering s r with again := (ering s r).again ++ [(i, e)] }
  | _ => s

/-- Event rings that a queue pair serves and that run. -/
def ringsOfQp (s : State) (h : Nat) (qpn : BitVec 24) : List Nat :=
  (s.host.erings.map Prod.fst).filter fun r =>
    r / 64 == h && (ering s r).state == 1 && dget s (0x6900 + r) 2 == qpn.toNat

/-- A queue pair enters the error state: its event rings go to state 2, with the qp-error event (R328), and its commands'
operations fail. -/
def qpToError (s : State) (h : Nat) (qpn : BitVec 24) (syndrome : Nat) : State :=
  match findQp s h qpn with
  | none => s
  | some q =>
    if q.st = .error then s
    else
      let rs := ringsOfQp s h qpn
      let s := modQp s h qpn fun q => { q with st := .error, outs := [], retries := 0 }
      let s := rs.foldl (fun t r => setEring t r { ering t r with state := 2 }) s
      let s := q.outs.foldl recordKept s
      let s := if rs.isEmpty then s
        else raise s 0x0016 q.part (pf 0 2 q.port ||| pf 8 24 qpn.toNat ||| pf 32 8 syndrome)
      q.outs.foldl outLost s

/-- QP_ERROR (R328). -/
def execQpError (h : HostNo) (qpn : BitVec 24) (syndrome : Byte) (s : State) : Host.Outcome State Fault Refusal :=
  .next (qpToError s h qpn syndrome.toNat)

/-! ## Connection set-up -/

/-- The 16 bytes of an IPv6 entry as an address: byte 0 is the most significant (R292). -/
def v6Number (n : Nat) : Nat := leNat (leBytes 16 n).reverse

/-- The leading bits of two addresses agree. -/
def samePrefix (width len a b : Nat) : Bool := decide (len ≤ width) && a / 2 ^ (width - len) == b / 2 ^ (width - len)

/-- The source address lies in the partition's admitted prefix (R294). -/
def admitted (s : State) (p : Nat) (ip : Ip) : Bool :=
  match ip with
  | .v4 a => samePrefix 32 (dget s (0x6A00 + p) 2) a.toNat (dget s (0x6A00 + p) 1)
  | .v6 a => samePrefix 128 (dget s (0x6A00 + p) 4) a.toNat (v6Number (dget s (0x6A00 + p) 3))

/-- Queue pairs of a partition on a host die. -/
def qpsOf (s : State) (h p : Nat) : Nat := (s.host.qps.filter fun q => q.host == h && q.part == p).length

/-- The reason of a REJ, none where the request is accepted (R294). -/
def rejReason (s : State) (h ver p : Nat) (ip : Ip) : Option Nat :=
  if ver ≠ 1 then some 1
  else if 16 ≤ p ∨ admitted s p ip = false then some 2
  else if dget s (0x6A00 + p) 6 ≤ qpsOf s h p ∨ 1024 ≤ (s.host.qps.filter fun q => q.host == h).length then some 3
  else none

/-- First number from n that no queue pair of the die uses; 0 and 1 are the management QPs (Table 9.1). -/
def freeQpn (used : List Nat) : Nat → Nat → Nat
  | 0, n => n % 2 ^ 24
  | fuel + 1, n =>
    let m := n % 2 ^ 24
    if m < 2 ∨ used.contains m = true then freeQpn used fuel (n + 1) else m

/-- CM_REQ (R294). -/
def execCmReq (port : PortNo) (ver part : Byte) (ip : Ip) (s : State) : Host.Outcome State Fault Refusal :=
  .next
    (let h := port.val / 2
     if dget s (0x6810 + port) 2 = 0 then s
     else match rejReason s h ver.toNat part.toNat ip with
       | some r => emit s (.cm h 0 cmRejKind [BitVec.ofNat 8 r])
       | none =>
         let used := (s.host.qps.filter fun q => q.host == h).map fun q => q.qpn.toNat
         let qpn := BitVec.ofNat 24 (freeQpn used 1030 (Config.newQpn s.fresh).toNat)
         let s := { s with fresh := s.fresh + 1, host := { s.host with
           qps := s.host.qps ++ [⟨h, qpn, port, part.toNat, .opening, fullRate, 0, dget s 0x6800 5, dget s 0x6800 6, [], 0, none⟩] } }
         emit s (.cm h qpn cmRep [16, 16]))

/-- CM_RTU (R294). -/
def execCmRtu (h : HostNo) (qpn : BitVec 24) (s : State) : Host.Outcome State Fault Refusal :=
  .next (modQp s h qpn fun q => if q.st = .opening then { q with st := .ready } else q)

/-- CM_REJ (R294): the attempt is abandoned. -/
def execCmRej (h : HostNo) (qpn : BitVec 24) (s : State) : Host.Outcome State Fault Refusal :=
  .next
    (match findQp s h qpn with
     | some q => if q.st = .opening then dropQp s h qpn else s
     | none => s)

/-- CM_DREQ (R294): the queue pair is gone, and DREP answers. -/
def execCmDreq (h : HostNo) (qpn : BitVec 24) (s : State) : Host.Outcome State Fault Refusal :=
  .next
    (match findQp s h qpn with
     | some _ => emit (dropQp (qpToError s h qpn 0) h qpn) (.cm h qpn cmDrepKind [])
     | none => s)

/-- CM_DREP (R295): answers the host die's DREQ. -/
def execCmDrep (h : HostNo) (qpn : BitVec 24) (s : State) : Host.Outcome State Fault Refusal :=
  .next
    (match findQp s h qpn with
     | some q => if q.st = .error then dropQp s h qpn else s
     | none => s)

/-- Every queue pair of a partition moves to the error state, with DREQ (R295). -/
def qpsFail (s : State) (p : Nat) : State :=
  (s.host.qps.filter fun q => q.part == p).foldl (fun t q =>
    emit (qpToError t q.host q.qpn 0) (.cm q.host q.qpn cmDreqKind [])) s

/-! ## Send rate -/

/-- CNP_RECEIVED (R297). -/
def execCnpReceived (h : HostNo) (qpn : BitVec 24) (s : State) : Host.Outcome State Fault Refusal :=
  .next (modQp s h qpn fun q => { q with rate := q.rate / 2, lastCnp := s.prc })

/-- A packet of a QP arrives: one marked CE makes the host die return a CNP, at most one in each interval of 0x6800.07
(R297). -/
def markedBy (s : State) (h : Nat) (qpn : BitVec 24) (ce : Bool) : State :=
  match ce, findQp s h qpn with
  | true, some q =>
    let due : Bool := match q.cnpSent with
      | some t => decide (t + usTicks (dget s 0x6800 7) ≤ s.prc)
      | none => true
    if due then emit (modQp s h qpn fun q => { q with cnpSent := some s.prc }) (.cnp h qpn) else s
  | _, _ => s

/-- RATE_INCREASE (R297): 55 us after the last CNP, or the last rise. -/
def execRateIncrease (h : HostNo) (qpn : BitVec 24) (s : State) : Host.Outcome State Fault Refusal :=
  .next (modQp s h qpn fun q =>
    if q.rate < fullRate ∧ q.lastCnp + usTicks 55 ≤ s.prc then
      { q with rate := min fullRate (q.rate + fullRate / 20), lastCnp := s.prc }
    else q)

/-! ## Ports -/

/-- A port goes up or down, with its event (R291, Table 9.13). -/
def setPort (s : State) (port : Nat) (up : Bool) : State :=
  if dget s (0x6810 + port) 2 = boolBit up then s
  else raise (dset s (0x6810 + port) 2 (boolBit up)) 0x0017 0xFF (pf 0 2 port ||| pf 4 4 (boolBit up))

/-- PORT_STATE (R291): what the port reports ends a restart of it. -/
def execPortState (port : PortNo) (up : Bool) (s : State) : Host.Outcome State Fault Refusal :=
  .next (setPort { s with host := { s.host with restarting := s.host.restarting.filter fun p => p != port } } port up)

/-- What a port restarts with: its entries (R291, R292, Table 15.4). -/
def portCfg (s : State) (port : Nat) : PortCfg :=
  let g := dget s (0x6810 + port)
  ⟨g 1, g 4, g 5, g 6, g 7, g 8⟩

/-- A port takes its entries. -/
def takePort (s : State) (port : Nat) : State :=
  { s with host := { s.host with ports := aput port (portCfg s port) s.host.ports } }

/-- What a port runs with. -/
def portNow (s : State) (port : Nat) : PortCfg := agetD port PortCfg.reset s.host.ports

/-- The VLAN tag of every frame of a port, where it has one, and the priority whose pause frames it sends and obeys (R292). -/
def portTag (s : State) (port : Nat) : Option Nat := if (portNow s port).vlan = 0 then none else some (portNow s port).vlan
def portPause (s : State) (port : Nat) : Option Nat := if (portNow s port).pfc < 8 then some (portNow s port).pfc else none

/-- A port restarts: it goes down, and comes up with what its entries hold (R291, R292). -/
def restartPort (s : State) (port : Nat) : State :=
  let s := setPort s port false
  let s := takePort s port
  { s with host := { s.host with
      restarting := port :: s.host.restarting.filter fun p => p != port } }

/-- PORT_RESTART (R291). -/
def execPortRestart (port : PortNo) (s : State) : Host.Outcome State Fault Refusal := .next (restartPort s port)

/-- ICRC_FAIL (R293): the packet is discarded and counted. -/
def execIcrcFail (port : PortNo) (s : State) : Host.Outcome State Fault Refusal :=
  .next { s with host := { s.host with icrc := aput port (agetD port 0 s.host.icrc + 1) s.host.icrc } }

/-- INVALID_OPCODE (R293): NAK with the invalid-request syndrome. -/
def execInvalidOpcode (h : HostNo) (qpn : BitVec 24) (s : State) : Host.Outcome State Fault Refusal :=
  .next
    (match findQp s h qpn with
     | some q => if q.st = .ready then emit s (.nak h qpn 1) else s
     | none => s)

/-! ## Outbound operations -/

/-- The oldest outbound operation of a queue pair has ended. -/
def popOut (s : State) (h : Nat) (qpn : BitVec 24) : State :=
  modQp s h qpn fun q => { q with outs := q.outs.drop 1, retries := 0 }

/-- RDMA_ACK (R314): the oldest outbound WRITE is acknowledged. -/
def execRdmaAck (h : HostNo) (qpn : BitVec 24) (s : State) : Host.Outcome State Fault Refusal :=
  .next
    (match findQp s h qpn with
     | none => s
     | some q =>
       match q.outs with
       | [] => s
       | o :: _ =>
         match o.for_ with
         | .event _ _ _ => popOut s h qpn
         | .cmdWrite ring idx => copyPart (popOut s h qpn) ring idx true
         | .cmdRead _ _ _ => s)

/-- Bytes that an outbound READ asked for. -/
def readLen : Out → Nat
  | .rdmaRead _ _ _ _ n => n
  | _ => 0

/-- RDMA_READ_RESPONSE (R314): the data of the oldest outbound READ is written to its panel address. -/
def execRdmaReadResponse (p : Packet) (qpn : BitVec 24) (data : List Byte) (s : State) :
    Host.Outcome State Fault Refusal :=
  .next
    (let h := p.host.val
     let s := markedBy s h qpn p.ce
     match findQp s h qpn with
     | none => s
     | some q =>
       match q.outs with
       | [] => s
       | o :: _ =>
         match o.for_ with
         | .cmdRead ring idx dst =>
           if data.length ≠ readLen o.pkt then s
           else
             let s := popOut s h qpn
             match findCmd s ring idx with
             | some c =>
               if c.aborted then copyPart s ring idx true
               else
                 let w := writeRange s (some (dget s (0x6880 + ring) 1)) dst data
                 copyPart w.1 ring idx w.2
             | none => s
         | _ => s)

/-- Ticks of the local ACK timeout: 4.096 us x 2^n (R296). -/
def ackTicks (q : Qp) : Nat := 640 * 2 ^ q.ackExp

/-- ACK_TIMEOUT (R296): the oldest outbound operation is sent again, up to the retry count; then the queue pair fails. -/
def execAckTimeout (h : HostNo) (qpn : BitVec 24) (s : State) : Host.Outcome State Fault Refusal :=
  .next
    (match findQp s h qpn with
     | none => s
     | some q =>
       match q.outs with
       | [] => s
       | o :: os =>
         if s.prc < o.since + ackTicks q then s
         else if q.retries < q.retryMax then
           emit (modQp s h qpn fun q => { q with retries := q.retries + 1, outs := { o with since := s.prc } :: os }) o.pkt
         else qpToError s h qpn 0)

end Sys2Proof.Machine
end

