-- ==== Sys2Proof/Machine/Rails.lean ====
section
/-!
DEFINITION. Rails.lean: the state that the power controllers keep for each site and region, and its setpoints (R360, R361,
R364, R366, R389, Tables 11.2, 11.10, 11.11).
-/
namespace Sys2Proof.Machine

open Sys2Proof

def rail (s : State) (site : Nat) : Rail := agetD site Rail.reset s.pwr.rails

def setRail (s : State) (site : Nat) (r : Rail) : State := { s with pwr := { s.pwr with rails := aput site r s.pwr.rails } }

def modRail (s : State) (site : Nat) (f : Rail → Rail) : State := setRail s site (f (rail s site))

def region (s : State) (r : Nat) : RegionPwr := agetD r RegionPwr.reset s.pwr.regions

def setRegion (s : State) (r : Nat) (x : RegionPwr) : State :=
  { s with pwr := { s.pwr with regions := aput r x s.pwr.regions } }

def modRegion (s : State) (r : Nat) (f : RegionPwr → RegionPwr) : State := setRegion s r (f (region s r))

/-- Cell die and site of a region (R20, R22). -/
def dieOfRegion (r : Nat) : Nat := r / 2
def siteOfRegion (r : Nat) : Nat := siteOfDie (r / 2)

/-- Partition of a region. -/
def partOfRegion (s : State) (r : Nat) : Nat := partOfDie s (dieOfRegion r)

/-- Logical cores of a region, and of a cluster. -/
def coresOfRegion (r : Nat) : List Nat := (List.range 16).map fun k => 16 * r + k
def coresOfCluster (k : Nat) : List Nat := (List.range 8).map fun i => 8 * k + i

/-- Step voltage in units of 0.1 mV (Table 11.2). -/
def stepVolts (k : Nat) : Nat := 5000 + 100 * k

/-- Lowering of a region's target by PWR_PERT, in units of 2.5 mV (Table 13.12). -/
def perturbed (s : State) (r : Nat) : Nat :=
  let v := dget s (0x7800 + siteOfRegion r) 2
  if bit v (5 + r % 2) then bits v 4 0 else 0

/-- Target of a region at a step, in units of 0.1 mV (R361, Table 13.12). -/
def regionTarget (s : State) (r k : Nat) : Nat :=
  ((stepVolts k : Int) + 25 * (region s r).offset - 25 * perturbed s r).toNat

/-- Rail setpoint of a site at a step, in units of 0.1 mV: the highest region target plus 30 mV, at most 0.75 V (R360); a
pitch hint adds 10 mV (R376). A memory site's crucible core follows the step alone. -/
def railTarget (s : State) (site k : Nat) : Nat :=
  let t : Nat := if isMemSite site then stepVolts k
    else max (regionTarget s (2 * dieOfSite site) k) (regionTarget s (2 * dieOfSite site + 1) k)
  min 7500 (t + 300 + if (rail s site).noShed then 100 else 0)

/-- Rail setpoint in force: the one that the select pins choose (R360). -/
def Rail.vset (r : Rail) : Nat := r.points.getD r.vsel 0

/-- A rail gets a setpoint (R360, R494): setpoint 0 holds that of step 0; another voltage is written in advance to setpoint 1
or 2, whichever is not selected, and then selected. DESIGN CHOICE (log 83). -/
def Rail.order (r : Rail) (v0 v : Nat) : Rail :=
  let ps := r.points.set 0 v0
  if v = v0 then { r with points := ps, vsel := 0 }
  else
    let j := if r.vsel = 1 then 2 else 1
    if ps.getD r.vsel 0 = v then { r with points := ps } else { r with points := ps.set j v, vsel := j }

/-- A PMBus command to module m: segment m mod 8, address 0x20 + m div 8 (R493). -/
def toModule (m code value : Nat) : Out := .pmbus (m % 8) (0x20 + m / 8) code value

/-- Writes of the setpoints that differ, MFR_VSET0 to MFR_VSET3 (Table 16.2). -/
def pointWrites (m : Nat) (old new : Rail) : List Out :=
  (List.range 4).filterMap fun k =>
    if old.points.getD k 0 = new.points.getD k 0 then none else some (toModule m (0xD1 + k) (new.points.getD k 0))

/-- Order a site's rail to the setpoint of a step. -/
def orderRail (s : State) (site k : Nat) : State :=
  let old := rail s site
  let new := Rail.order old (railTarget s site 0) (railTarget s site k)
  { setRail s site new with out := s.out ++ pointWrites site old new }

/-- Phase shedding of a module is disabled or allowed, by MFR_SHED_CTRL (R376, Table 16.2). -/
def setShed (s : State) (site : Nat) (off : Bool) : State :=
  emit (modRail s site fun r => { r with noShed := off }) (toModule site 0xD0 (boolBit off))

/-- Step in force on a die (R346). -/
def dieStep (s : State) (d : Nat) : Nat := if s.clk.pinned.contains d then 0 else s.clk.step

/-- A site's rail follows its target at the step in force on it. -/
def refitRail (s : State) (site : Nat) : State := orderRail s site (dieStep s site)

/-- Order the rails of a change's sites to the setpoint of a step; a pinned die stays at that of step 0 (R346, R361). -/
def orderRails (s : State) (die : Option Nat) (k : Nat) : State :=
  match die with
  | some d => if d < 240 then orderRail s d k else s
  | none => (List.range 240).foldl (fun t d => orderRail t d (if s.clk.pinned.contains d then 0 else k)) s

/-- All four setpoints of every module are written before the enables are requested (R494). -/
def writePoints (s : State) : State :=
  let t := (List.range 240).foldl (fun t d => modRail t d fun r =>
    { r with points := List.replicate 4 (railTarget s d 0), vsel := 0 }) s
  { t with out := s.out ++ (List.range 240).flatMap fun d =>
      (List.range 4).map fun k => toModule d (0xD1 + k) (railTarget s d 0) }

/-- Working slices and current limit of a region in mA (R364). -/
def slicesOf (x : RegionPwr) : Nat := 16 - x.failed.length
def regionLimit (x : RegionPwr) : Nat := 3750 * slicesOf x

/-- Cycles of every 8 on which a rail withholds issue: 7 for a die past 105 C (R367, Table 11.6). -/
def Rail.withheld (r : Rail) : Nat := if r.hotThr then 7 else r.thr

/-- Working phases of a module (Table 16.3). -/
def Rail.phases (r : Rail) : Nat := 8 - ((List.range 8).filter fun p => bit r.phaseMask p).length

/-- Working phases by which the rail is limited: 5 for a module that does not answer (R370). -/
def limitPhases (r : Rail) : Nat := if r.silent then 5 else r.phases

/-- Rail limit in mA: 15 A a phase, the die ceiling of 73 W by the setpoint, and the fast-cap share of a cell die (R366,
R381). -/
def railLimit (s : State) (site : Nat) : Nat :=
  let r := rail s site
  let a := if isMemSite site then 15000 * limitPhases r else min (15000 * limitPhases r) s.pwr.share
  if Rail.vset r = 0 then a else min a (73 * 10000 * 1000 / Rail.vset r)

/-- PWR_RAIL (Table 11.10). -/
def pwrRailReg (s : State) (site : Nat) : Nat :=
  let r := rail s site
  fld 0 8 (railLimit s site / 1000) ||| fld 8 4 r.phases ||| fld 12 3 r.withheld ||| fld 15 1 (boolBit (!r.bumps.isEmpty))
    ||| fld 16 10 (Rail.vset r / 10) ||| fld 26 1 (boolBit (r.hotPin || r.phasePin)) ||| fld 32 16 r.throttleCnt
    ||| fld 48 16 r.deferCnt

/-- PWR_REGION (Table 11.11). -/
def pwrRegionReg (s : State) (r : Nat) : Nat :=
  let x := region s r
  fld 0 2 x.pstate ||| fld 2 5 (slicesOf x) ||| fld 8 8 (BitVec.ofInt 8 x.offset).toNat ||| fld 16 8 (x.slack.getD 0)
    ||| fld 32 16 x.droopCnt ||| fld 48 16 (x.skipped / 1024)

/-- A write to PWR_RAIL or PWR_REGION sets its counter fields (R234, R389). -/
def pwrRailWrite (s : State) (site v : Nat) : State :=
  modRail s site fun r => { r with throttleCnt := bits v 47 32, deferCnt := bits v 63 48 }

def pwrRegionWrite (s : State) (r v : Nat) : State :=
  modRegion s r fun x => { x with droopCnt := bits v 47 32, skipped := 1024 * bits v 63 48 }

/-- Matrix issue of a core's die and region is withheld on n cycles of every 8 (R367). -/
def withheld (s : State) (c : Nat) : Nat := max (rail s (siteOfDie (dieOfCore c))).withheld (region s (c / 16)).thr

/-- The power manager wants a region on: one that sleeps is to be woken (R363, R376). -/
def wakeRegion (s : State) (r : Nat) : State :=
  if (region s r).pstate = 1 ∨ (region s r).pstate = 2 then modRegion s r fun x => { x with wake := true } else s

/-- The temper event of a region's offset (Table 11.9). -/
def temperEv (s : State) (r : Nat) : State :=
  raise s 0x0708 (partOfRegion s r) (pf 0 9 (siteOfRegion r) ||| pf 9 1 (r % 2)
    ||| pf 16 8 (BitVec.ofInt 8 (region s r).offset).toNat)

/-- One fall of a region's offset, with its event (R373). -/
def applyFall (s : State) (r : Nat) : State :=
  temperEv (modRegion s r fun x => { x with offset := max (-10) (x.offset - 1), falls := x.falls - 1 }) r

/-- The falls of a region's offset that wait apply at a change of step or a move to on, unless tempering is stopped: the
offsets then stay as they are (R373, R374). -/
def applyFalls (s : State) (r : Nat) : State :=
  if dget s 0x2000 7 = 1 then (List.range (region s r).falls).foldl (fun t _ => applyFall t r) s else s

/-- Regions of a change's dies. -/
def changeRegions (s : State) (die : Option Nat) : List Nat :=
  match die with
  | some d => if d < 240 ∧ isMemSite d = false then [2 * dieOfSite d, 2 * dieOfSite d + 1] else []
  | none => s.pwr.regions.map Prod.fst

end Sys2Proof.Machine
end

