-- ==== Sys2Proof/Machine/Commands.lean ====
section
/-!
DEFINITION. Commands.lean: the command sequencer of the host dies: rings, tails and acceptance (R305 to R312), the commands
(R313 to R319), their order and places (R320, R321), abort (R322 to R324), and event rings as the host sees them (R325,
R328).
-/
namespace Sys2Proof.Machine

open Sys2Proof

/-! ## Records and rings -/

/-- Place of a byte of a host die's SRAM in State.sram (R302). -/
def sramKey (h off : Nat) : Nat := h * 2 ^ 20 + off

def sramRead (s : State) (h off n : Nat) : List Byte := memRead s.sram (sramKey h off) n

def sramWrite (s : State) (h off : Nat) (bs : List Byte) : State := { s with sram := memWrite s.sram (sramKey h off) bs }

/-- Owner, base and size of a command ring (Table 9.15). -/
def ringPart (s : State) (r : Nat) : Nat := dget s (0x6880 + r) 1
def ringBase (s : State) (r : Nat) : Nat := dget s (0x6880 + r) 2
def ringSize (s : State) (r : Nat) : Nat := 2 ^ dget s (0x6880 + r) 3

/-- Record i of a ring (R306). -/
def ringRec (s : State) (r i : Nat) : List Byte := sramRead s (r / 64) (ringBase s r + 64 * (i % ringSize s r)) 64

/-- Control block of a command ring (Table 9.4). -/
def cringBlock (s : State) (r : Nat) : List Byte :=
  let c := cring s r
  leBytes 64 (fld 0 64 c.tail.toNat ||| fld 64 64 c.head.toNat ||| fld 128 64 c.resv.toNat ||| fld 192 20 (ringBase s r)
    ||| fld 212 4 (dget s (0x6880 + r) 3) ||| fld 216 7 (complRing s r) ||| fld 224 4 (ringPart s r)
    ||| fld 228 2 c.state ||| fld 232 4 1)

/-- Control block of an event ring (Table 9.5). -/
def eringBlock (s : State) (r : Nat) : List Byte :=
  let e := ering s r
  leBytes 64 (fld 0 64 e.cons.toNat ||| fld 64 64 e.prod.toNat ||| fld 128 32 e.lost ||| fld 160 9 e.ovq.length
    ||| fld 169 2 e.state ||| fld 171 4 1)

/-- Free places for completion records of an event ring: none while it does not run (R321, R328, log 25). -/
def freePlaces (s : State) (e : Nat) : Nat := if (ering s e).state = 1 then eringPlaces s e - eringReserved s e else 0

/-- The panel has come up (Table 12.11). -/
def panelReady (s : State) : Bool := dget s 0x6000 1 == 2

/-- Bivouac state (R391). -/
def inBivouac (s : State) : Bool := dget s 0x6000 1 == 1

/-- A partition is off, stopping or undefined (Table 12.8, mode 1). -/
def partOff (s : State) (p : Nat) : Bool := partSt s p == 0 || partSt s p == 1 || partSt s p == 5

/-- The mode-conflict event (Table 12.10). -/
def modeConflict (s : State) (m1 m2 p : Nat) : State :=
  raise s 0x0806 (if p < 16 then p else 0xFF) (pf 0 4 m1 ||| pf 4 4 m2 ||| pf 8 4 (if p < 16 then p else 0xF))

/-! ## Checks at acceptance (Table 9.9) -/

/-- Rank map entry of this panel: its core. -/
def entryHere (s : State) (e : Nat) : Option Nat :=
  let t := s.links.topo
  if bits e 23 16 = t.x ∧ bits e 31 24 = t.y ∧ bits e 39 32 = t.z then some (bits e 12 0) else none

/-- Every rank of a list is below the map's count and valid. -/
def ranksOk (s : State) (p : Nat) (ranks : List Nat) : Bool :=
  ranks.all fun r => match rankEntry s p r with
    | some e => bit e 40
    | none => false

/-- Ranks from first, count of them. -/
def rankRun (first count stride : Nat) : List Nat := (List.range count).map fun k => first + k * stride

/-- Cores of this panel among ranks, with each rank. -/
def ranksHere (s : State) (p : Nat) (ranks : List Nat) : List (Nat × Nat) :=
  ranks.filterMap fun r => match rankEntry s p r with
    | some e => if bit e 40 then (entryHere s e).map fun c => (r, c) else none
    | none => none

/-- Ranks of a launch, a barrier and a pitch record. -/
def launchRanks (r : List Byte) : List Nat := rankRun (recField r 88 64) (recField r 120 96) 1
def barrierRanks (r : List Byte) : List Nat := rankRun (recField r 120 96) (recField r 152 128) (recField r 175 160)
def pitchRanks (r : List Byte) : List Nat := rankRun (recField r 88 64) (recField r 120 96) 1

/-- n bytes at a destination exist: of a stack, or of a scratchpad. -/
def destHolds (d : Dest) (n : Nat) : Bool :=
  match epKind d.ep with
  | .mem _ => decide (d.off + n ≤ hbmSize)
  | .core _ => decide (d.off + n ≤ spmSize)
  | _ => false

/-- Every byte of a range of panel addresses lies in allowed spaces of a partition and exists. -/
def rangeOk (s : State) (p : Nat) (spaces : List Nat) (a : Word) (n : Nat) : Bool :=
  (pieces (.rem a) .drop n).all fun x => match x.src with
    | .rem b => spaces.contains (spaceOf b) && (match resolve s (some p) b with
      | some d => destHolds d x.len
      | none => false)
    | _ => false

/-- Fields of a copy or query. -/
def copySrcHost (r : List Byte) : Bool := recField r 64 64 == 1
def copyDstHost (r : List Byte) : Bool := recField r 65 65 == 1
def copyQpn (r : List Byte) : BitVec 24 := BitVec.ofNat 24 (recField r 95 72)
def copyRkey (r : List Byte) : BitVec 32 := BitVec.ofNat 32 (recField r 127 96)
def copySrc (r : List Byte) : Word := BitVec.ofNat 64 (recField r 191 128)
def copyDst (r : List Byte) : Word := BitVec.ofNat 64 (recField r 255 192)
def copyLen (r : List Byte) : Nat := recField r 287 256
def queryKind (r : List Byte) : Nat := recField r 67 64

/-- The QP of a host side is of the partition. -/
def qpOfPart (s : State) (h : Nat) (qpn : BitVec 24) (p : Nat) : Bool :=
  match findQp s h qpn with
  | some q => q.part == p
  | none => false

/-- Cores of a partition in rising order. -/
def coresOfPart (s : State) (p : Nat) : List Nat :=
  ((List.range 224).filter fun d => partOfDie s d == p).flatMap fun d => (List.range 32).map fun k => 32 * d + k

/-- Bytes that a query writes (R319). -/
def queryLen (s : State) (p : Nat) (r : List Byte) : Nat :=
  match queryKind r with
  | 1 => 16
  | 2 => 8
  | 3 => 64
  | _ => ((coresOfPart s p).length + 1) / 2

/-- Check 3: fields in range (Table 9.8). -/
def fieldsOk (s : State) (h p : Nat) (r : List Byte) : Bool :=
  match cmdOp r with
  | 1 => decide (1 ≤ recField r 120 96) && decide (recField r 120 96 ≤ 65536) && recField r 147 128 % 16 == 0
      && decide (recField r 147 128 < spmSize)
  | 2 => !(copySrcHost r && copyDstHost r) && decide (1 ≤ copyLen r)
      && (!(copySrcHost r || copyDstHost r) || qpOfPart s h (copyQpn r) p)
  | 3 => decide (1 ≤ recField r 139 128)
  | 4 => decide (1 ≤ recField r 139 128)
  | 5 => decide (1 ≤ recField r 65 64) && decide (1 ≤ recField r 152 128) && decide (recField r 152 128 ≤ 65536)
      && decide (1 ≤ recField r 175 160)
  | 7 => decide (20 ≤ recField r 159 144) && decide (recField r 159 144 ≤ 10000)
  | 9 => decide (1 ≤ queryKind r) && decide (queryKind r ≤ 4) && (!copyDstHost r || qpOfPart s h (copyQpn r) p)
  | _ => true

/-- Check 4: panel addresses and ranks. -/
def addrsOk (s : State) (p : Nat) (r : List Byte) : Bool :=
  match cmdOp r with
  | 1 => ranksOk s p (launchRanks r) && (resolve s (some p) (copyDst r)).isSome
  | 2 => (copySrcHost r || rangeOk s p [0, 1, 2] (copySrc r) (copyLen r))
      && (copyDstHost r || rangeOk s p [0, 1, 2] (copyDst r) (copyLen r))
  | 3 => rangeOk s p [0, 1] (listEntry r 0) (128 * recField r 139 128)
  | 4 => rangeOk s p [0, 1] (listEntry r 0) (128 * recField r 139 128)
  | 5 => ranksOk s p (barrierRanks r)
  | 7 => ranksOk s p (pitchRanks r)
  | 9 => copyDstHost r || rangeOk s p [0, 1, 2] (copyDst r) (queryLen s p r)
  | _ => true

/-- Check 6: the modes allow the command (R391, R399, R401, R444). -/
def modesOk (s : State) (p : Nat) (r : List Byte) : Bool :=
  cmdOp r == 9 || (panelReady s && !partOff s p
    && !(cmdOp r == 1 && recField r 148 148 == 1 && dget s (0x6100 + p) 9 == 0))

/-- The state in which check 4 reads addresses: those of an off partition count as its own, and mode-refused decides (R399,
log 24); a query alone meets the addresses as they are. -/
def addrState (s : State) (p : Nat) (r : List Byte) : State :=
  if partSt s p = 1 ∧ cmdOp r ≠ 9 then { s with parts := { s.parts with st := aput p 3 s.parts.st } } else s

/-- cstat of the first failing check, 0 for none (Table 9.9). -/
def checkRec (s : State) (ring : Nat) (r : List Byte) : Nat :=
  let p := ringPart s ring
  if recField r 11 8 ≠ 1 then 4
  else if cmdOp r < 1 ∨ 9 < cmdOp r ∨ fieldsOk s (ring / 64) p r = false then 5
  else if addrsOk (addrState s p r) p r = false then 6
  else if cmdOp r = 1 ∧ (ranksHere s p (launchRanks r)).any (fun c => coreGated s c.2) = true then 0xA
  else if modesOk s p r = false then 8
  else 0

/-- A refusal by mode of a launch with scoreboard bypass names both modes (R408). -/
def modeEvent (s : State) (ring : Nat) (r : List Byte) : State :=
  let p := ringPart s ring
  if cmdOp r = 1 ∧ recField r 148 148 = 1 then
    if inBivouac s then modeConflict s 6 8 p else if partOff s p then modeConflict s 1 8 p else s
  else s

/-! ## Abort (R322, R323) -/

/-- Open commands of a ring with a cmd_id, oldest first. -/
def openWith (s : State) (ring id : Nat) : List Cmd :=
  s.host.cmds.filter fun c => c.ring == ring && cmdId c.rec_ == id && c.st != .done

/-- Commands of a ring with a cmd_id that are done. -/
def doneWith (s : State) (ring id : Nat) : List Cmd :=
  s.host.cmds.filter fun c => c.ring == ring && cmdId c.rec_ == id && c.st == .done

/-- Task stop goes to every core of a launch (R107, R323). -/
def sendStops (s : State) (cs : List Nat) : State :=
  { s with host := { s.host with belay := s.host.belay ++ cs.map fun c => (c, .stop) } }

/-- A descriptor belongs to a command. -/
def owned (ring idx : Nat) (o : Option (Nat × Nat × Nat)) : Bool :=
  match o with
  | some (r, i, _) => r == ring && i == idx
  | none => false

/-- Close the command's streams, and take its waiting descriptors from the queues (R323). -/
def stopEngines (s : State) (ring idx : Nat) : State :=
  (List.range 16).foldl (fun t m =>
    let x := msite t m
    let mine := (x.streams.filter fun e => owned ring idx e.2.owner).map Prod.fst
    let t := mine.foldl (fun u n => endStream u m n 8) t
    let gone := (msite t m).relq.filter fun q => owned ring idx q.owner && !q.started
    let t := modMsite t m fun y => { y with relq := y.relq.filter fun q => !(owned ring idx q.owner && !q.started) }
    gone.foldl (fun u q => match q.owner with
      | some (r, i, e) => itemDone u r i e 0
      | none => u) t) s

/-- Stop a started target (R323). -/
def stopTarget (s : State) (t : Cmd) : State :=
  match cmdOp t.rec_ with
  | 1 => sendStops s t.cores
  | 6 => finishCmd s t.ring t.idx 2
  | 3 =>
    let s := modCmd s t.ring t.idx fun c => { c with left := c.left.filter fun e => !c.todo.contains e, todo := [] }
    let s := resumeCmds (stopEngines s t.ring t.idx)
    match findCmd s t.ring t.idx with
    | some c => if c.st == .started && c.left.isEmpty then finishCmd s t.ring t.idx 2 else s
    | none => s
  | 4 =>
    let s := modCmd s t.ring t.idx fun c => { c with left := c.left.filter fun e => !c.todo.contains e, todo := [] }
    let s := resumeCmds (stopEngines s t.ring t.idx)
    match findCmd s t.ring t.idx with
    | some c => if c.st == .started && c.left.isEmpty then finishCmd s t.ring t.idx 2 else s
    | none => s
  | _ => s

/-- Target of an abort: ring and cmd_id. -/
def abortRing (r : List Byte) : Nat := recField r 70 64
def abortTarget (r : List Byte) : Nat := recField r 127 96

/-- The target of an abort, if one is open: the ring and the cmd_id alone name it (R322). -/
def abortOf (s : State) (r : List Byte) : Option Cmd := (openWith s (abortRing r) (abortTarget r)).head?

/-- An abort commits at acceptance (R322, Table 9.10). -/
def acceptAbort (s : State) (ring idx : Nat) (r : List Byte) : State :=
  match abortOf s r with
  | some t =>
    if cmdOp t.rec_ = 8 then finishCmd s ring idx 5
    else if t.st = .committed then finishCmd s ring idx 1
    else
      let s := modCmd s ring idx fun c => { c with st := .committed }
      let s := modCmd s t.ring t.idx fun c => { c with aborted := true, aborts := c.aborts ++ [(ring, idx)] }
      if t.st = .queued then finishCmd s t.ring t.idx 2 else stopTarget s t
  | none =>
    match (doneWith s (abortRing r) (abortTarget r)).head? with
      | some t => finishCmd s ring idx (if cmdOp t.rec_ = 8 then 5 else 1)
      | none => finishCmd s ring idx 9

/-! ## Query (R319) -/

/-- State of a command as a query reports it. -/
def stateCode (s : State) (ring id : Nat) : Nat :=
  match (openWith s ring id).head? with
  | some c => (match c.st with
    | .queued => 1
    | .started => 2
    | _ => 3)
  | none => if (doneWith s ring id).isEmpty then 0 else 3

/-- Four bits for each core, the lower id in the low half of a byte. -/
def packStates : List Nat → List Byte
  | a :: b :: t => BitVec.ofNat 8 (a % 16 + 16 * (b % 16)) :: packStates t
  | [a] => [BitVec.ofNat 8 (a % 16)]
  | [] => []

/-- Bytes of a query's result. -/
def queryBytes (s : State) (ring : Nat) (r : List Byte) : List Byte :=
  match queryKind r with
  | 1 => leBytes 8 (diePrc s (264 + ring / 64)).toNat ++ leBytes 1 (ring / 64) ++ leBytes 7 0
  | 2 => leBytes 8 (stateCode s (recField r 326 320) (recField r 383 352))
  | 3 => cringBlock s (recField r 326 320)
  | _ => packStates ((coresOfPart s (ringPart s ring)).map fun c => (core s c).st.code)

/-- An outbound operation of a command on its QP. -/
def sendOutOp (s : State) (h : Nat) (qpn : BitVec 24) (f : OutFor) (pkt : Out) : State :=
  qpPush (emit s pkt) h qpn ⟨f, pkt, s.prc⟩

/-- A query acts at acceptance: its result is written, and it completes (R319, Table 9.14). -/
def acceptQuery (s : State) (ring idx : Nat) (r : List Byte) : State :=
  let bs := queryBytes s ring r
  let st := if queryKind r = 2 ∧ stateCode s (recField r 326 320) (recField r 383 352) = 0 then 9 else 0
  if copyDstHost r then
    finishCmd (sendOutOp s (ring / 64) (copyQpn r) (.cmdWrite ring idx)
      (.rdmaWrite (ring / 64) (copyQpn r) (copyDst r) (copyRkey r) bs none)) ring idx st
  else
    let w := writeRange s (some (ringPart s ring)) (copyDst r) bs
    finishCmd w.1 ring idx (if w.2 then st else 6)

/-! ## Acceptance -/

/-- A new command in the sequencer. -/
def newCmd (ring idx : Nat) (r : List Byte) : Cmd :=
  { ring := ring, idx := idx, rec_ := r, st := .queued, aborts := [], aborted := false, left := [], todo := [], tstat := 0,
    astat := 0, checked := 0, unchecked := 0, fail := none, cores := [], groups := [] }

/-- Add a command. -/
def addCmd (s : State) (ring : Nat) (r : List Byte) : State :=
  { s with host := { s.host with cmds := s.host.cmds ++ [newCmd ring s.host.nextCmd r], nextCmd := s.host.nextCmd + 1 } }

/-- Accept one record (R310 to R312): a failed check completes it at once; abort and query act. -/
def acceptRec (s : State) (ring : Nat) (r : List Byte) : State :=
  let idx := s.host.nextCmd
  let cs := checkRec s ring r
  let t := addCmd s ring r
  if cs ≠ 0 then finishCmd (if cs = 8 then modeEvent t ring r else t) ring idx cs
  else if cmdOp r = 8 then acceptAbort t ring idx r
  else if cmdOp r = 9 then acceptQuery t ring idx r
  else t

/-- Places for completion records that acceptance of a record takes at once (R321). -/
def placesNeeded (s : State) (ring : Nat) (r : List Byte) : Nat :=
  if checkRec s ring r ≠ 0 then 1
  else if cmdOp r = 8 then
    (match (openWith s (abortRing r) (abortTarget r)).head? with
     | some t => if t.st = .queued then 2 else 1
     | none => 1)
  else if cmdOp r = 9 then 1
  else 0

/-- The partition's rings accept records: no reset or stop of the partition runs (Table 12.7). -/
def ringAccepts (s : State) (r : Nat) : Bool := partSt s (ringPart s r) != 4 && partSt s (ringPart s r) != 5

/-- Accept the records from head to tail (R307, R321). -/
def acceptRing : Nat → State → Nat → State
  | 0, s, _ => s
  | fuel + 1, s, r =>
    let c := cring s r
    if c.state ≠ 1 ∨ c.head = c.tail ∨ ringAccepts s r = false then s
    else
      let rec_ := ringRec s r c.head.toNat
      if freePlaces s (complRing s r) < placesNeeded s r rec_ then setCring s r { c with state := 3 }
      else acceptRing fuel (acceptRec (setCring s r { c with head := c.head + 1 }) r rec_) r

/-- Records between head and tail. -/
def ringDue (s : State) (r : Nat) : Nat := ((cring s r).tail - (cring s r).head).toNat

/-- A change of a ring's tail (R307, R308). A bad tail is ignored, with its event, in every state; a ring that is disabled stays so
(log 82). -/
def tailWrite (s : State) (r : Nat) (tail : Word) : State :=
  let c := cring s r
  if ringSize s r < (tail - c.head).toNat then
    raise (setCring s r { c with state := if c.state = 0 then 0 else 2 }) 0x0010 (ringPart s r)
      (pf 0 7 r ||| pf 64 64 tail.toNat)
  else
    let s := setCring s r { c with tail := tail }
    acceptRing (ringDue s r) s r

/-- RING_TAIL_WRITE (R307). -/
def execRingTailWrite (r : RingNo) (tail : Word) (s : State) : Host.Outcome State Fault Refusal := .next (tailWrite s r tail)

/-- Rings that waited for completion space of an event ring go on (R321). -/
def wakeRings (s : State) (e : Nat) : State :=
  (s.host.crings.map Prod.fst).foldl (fun t r =>
    if (cring t r).state == 3 && complRing t r == e then
      let t := setCring t r { cring t r with state := 1 }
      acceptRing (ringDue t r) t r
    else t) s

/-- The host has consumed records, or a ring has started: queued records are written, and waiting commands go on (R325,
R328). -/
def eringGo (s : State) (e : Nat) : State := wakeRings (eringFlush ((ering s e).ovq.length + 1) s e) e

/-- cons written by the host (R325). -/
def consWrite (s : State) (r : Nat) (v : Word) : State := eringGo (setEring s r { ering s r with cons := v }) r

/-- EVENT_RING_CONS (R325). -/
def execEventRingCons (r : RingNo) (cons_ : Word) (s : State) : Host.Outcome State Fault Refusal :=
  .next (consWrite s r cons_)

/-- A record that reaches the sequencer by itself: its ring runs and has the places. -/
def directRec (s : State) (ring op : Nat) (r : List Byte) : State :=
  if (cring s ring).state == 1 && ringAccepts s ring && cmdOp r == op
      && decide (placesNeeded s ring r ≤ freePlaces s (complRing s ring)) then
    acceptRec s ring r
  else s

/-- ABORT (R322): the acceptance of an abort record. -/
def execAbort (r : RingNo) (rec_ : List Byte) (s : State) : Host.Outcome State Fault Refusal := .next (directRec s r 8 rec_)

/-- QUERY (R319): the acceptance of a query record. -/
def execQuery (r : RingNo) (rec_ : List Byte) (s : State) : Host.Outcome State Fault Refusal := .next (directRec s r 9 rec_)

/-! ## Starting (R320, R321) -/

/-- A command has committed. -/
def committed (c : Cmd) : Bool := c.st == .committed || c.st == .done

/-- A started fence holds the later commands of its ring (R317). -/
def fenceHolds (s : State) (ring : Nat) : Bool :=
  s.host.cmds.any fun c => c.ring == ring && c.st == .started && cmdOp c.rec_ == 6

/-- The next command of a ring to start: the oldest queued one, no fence before it, and with ord = 1 only when every earlier
one has committed. -/
def nextStart (s : State) (ring : Nat) : Option Cmd :=
  if fenceHolds s ring then none
  else match s.host.cmds.find? fun c => c.ring == ring && c.st == .queued with
    | some c =>
      if recField c.rec_ 12 12 == 1 && s.host.cmds.any (fun d => d.ring == ring && decide (d.idx < c.idx) && !committed d) then none
      else some c
    | none => none

/-- Start the next command of a ring when it has an op and its conditions hold, and a place is free; without a place the
ring waits in state 3 (R321). -/
def startNext (s : State) (ring op : Nat) (ready : Cmd → Bool) (go : State → Cmd → State) : State :=
  match nextStart s ring with
  | none => s
  | some c =>
    if cmdOp c.rec_ ≠ op ∨ ready c = false then s
    else if freePlaces s (complRing s ring) = 0 then
      setCring s ring { cring s ring with state := if (cring s ring).state = 1 then 3 else (cring s ring).state }
    else go (modCmd s ring c.idx fun c => { c with st := .started }) c

/-- Members of context ctx of a ring within a launch (R316). -/
def groupOf (s : State) (ring ctx : Nat) (cs : List (Nat × Nat)) : List Nat :=
  match aget (4 * ring + ctx) s.host.groups with
  | none => []
  | some (first, count, stride) =>
    (cs.filter fun c => decide (first ≤ c.1) && (c.1 - first) % stride == 0 && decide ((c.1 - first) / stride < count)).map
      Prod.snd

/-- Task start of one core of a launch (R103, R104, R313). -/
def startMsg (ring : RingNo) (idx : Nat) (r : List Byte) (rank : Nat) : TaskStartMsg :=
  { rank := BitVec.ofNat 25 (rank - recField r 88 64), nranks := BitVec.ofNat 32 (recField r 120 96),
    entry := BitVec.ofNat 20 (recField r 147 128), args := copyDst r, task := BitVec.ofNat 32 (recField r 287 256),
    step := BitVec.ofNat 32 (recField r 319 288), seed := BitVec.ofNat 32 (recField r 351 320),
    sbBypass := recField r 148 148 == 1, paired := recField r 149 149 == 1, haltOnAssay := recField r 150 150 == 1,
    astatClear := recField r 151 151 == 1, ring := ring, slot := idx }

/-- Cores of a launch on this panel, with their ranks. -/
def launchCores (s : State) (c : Cmd) : List (Nat × Nat) := ranksHere s (ringPart s c.ring) (launchRanks c.rec_)

/-- Logical cores that the pending fleet action affects: the core of actions 2 and 3, the cluster of actions 4 and 5 (R429). -/
def actionCores (s : State) : List Nat :=
  match s.health.action with
  | some w =>
    let p := bits w 17 4
    if w % 16 = 2 ∨ w % 16 = 3 then (coreOfPcid s p).toList
    else if w % 16 = 4 ∨ w % 16 = 5 then (List.range 8).map fun j => p / 16 * 8 + j
    else []
  | none => []

/-- A launch may start: every core is IDLE, no rank map load runs, and no fleet action pends on a core (R99, R228, R313,
R429). -/
def launchReady (s : State) (c : Cmd) : Bool :=
  (launchCores s c).all (fun x => (core s x.2).st == .idle && !(actionCores s).contains x.2)
    && !s.fab.loads.contains (ringPart s c.ring)

/-- Start a launch: task start goes to its cores, and regions that sleep are woken (R313, R363). -/
def startLaunch (ring : RingNo) (s : State) (c : Cmd) : State :=
  let cs := launchCores s c
  let s := modCmd s ring c.idx fun c =>
    { c with left := cs.map Prod.snd, cores := cs.map Prod.snd,
             groups := [groupOf s ring 1 cs, groupOf s ring 2 cs, groupOf s ring 3 cs] }
  let s := { s with host := { s.host with
    belay := s.host.belay ++ cs.map fun x => (x.2, .start (startMsg ring c.idx c.rec_ x.1)) } }
  launchCheck (cs.foldl (fun t x => wakeRegion t (x.2 / 16)) s) ring c.idx

/-- LAUNCH (R313). -/
def execLaunch (r : RingNo) (s : State) : Host.Outcome State Fault Refusal :=
  .next (startNext s r 1 (launchReady s) (startLaunch r))

/-- Longest RDMA operation: 2^31 bytes (Table 9.1). -/
def rdmaMax : Nat := 2 ^ 31

/-- Parts of n bytes of one RDMA operation each: offset and length. -/
def rdmaParts (n : Nat) : List (Nat × Nat) :=
  (List.range ((n + rdmaMax - 1) / rdmaMax)).map fun i => (i * rdmaMax, min rdmaMax (n - i * rdmaMax))

/-- Start a copy (R314); e is what the reading of its panel side reports (R157, R239). -/
def startCopy (ring : Nat) (e : EccObs) (s : State) (c : Cmd) : State :=
  let r := c.rec_
  let p := some (ringPart s ring)
  let h := ring / 64
  let parts := rdmaParts (copyLen r)
  let ready : Bool := match findQp s h (copyQpn r) with
    | some q => q.st == .ready
    | none => false
  if copySrcHost r then
    if ready then
      let s := modCmd s ring c.idx fun c => { c with left := List.range parts.length }
      parts.foldl (fun t x => sendOutOp t h (copyQpn r) (.cmdRead ring c.idx (copyDst r + BitVec.ofNat 64 x.1))
        (.rdmaRead h (copyQpn r) (copySrc r + BitVec.ofNat 64 x.1) (copyRkey r) x.2)) s
    else finishCmd s ring c.idx 6
  else
    let x := readRangeObs s p (copySrc r) (copyLen r) e
    let s := x.1
    match x.2 with
    | none => finishCmd s ring c.idx 6
    | some bs =>
      if copyDstHost r then
        if ready then
          let s := modCmd s ring c.idx fun c => { c with left := List.range parts.length }
          parts.foldl (fun t x => sendOutOp t h (copyQpn r) (.cmdWrite ring c.idx)
            (.rdmaWrite h (copyQpn r) (copyDst r + BitVec.ofNat 64 x.1) (copyRkey r) ((bs.drop x.1).take x.2) none)) s
        else finishCmd s ring c.idx 6
      else
        let w := writeRange s p (copyDst r) bs
        finishCmd w.1 ring c.idx (if w.2 then 0 else 6)

/-- COPY (R314). -/
def execCopy (r : CopyStart) (s : State) : Host.Outcome State Fault Refusal :=
  .next (startNext s r.ring 2 (fun _ => true) (startCopy r.ring r.ecc))

/-- Start a collective or a reshard: its entries are submitted as the queues have room (R315). -/
def startList (ring : Nat) (s : State) (c : Cmd) : State :=
  let n := recField c.rec_ 139 128
  hostSubmit n (modCmd s ring c.idx fun c => { c with left := List.range n, todo := List.range n }) ring c.idx

/-- COLLECTIVE (R315). -/
def execCollective (r : RingNo) (s : State) : Host.Outcome State Fault Refusal :=
  .next (startNext s r 3 (fun _ => true) (startList r))

/-- RESHARD (R315). -/
def execReshard (r : RingNo) (s : State) : Host.Outcome State Fault Refusal :=
  .next (startNext s r 4 (fun _ => true) (startList r))

/-- Start a barrier: the members of its context are recorded (R316). -/
def startBarrier (ring : Nat) (s : State) (c : Cmd) : State :=
  let g := (recField c.rec_ 120 96, recField c.rec_ 152 128, recField c.rec_ 175 160)
  finishCmd { s with host := { s.host with groups := aput (4 * ring + recField c.rec_ 65 64) g s.host.groups } }
    ring c.idx 0

/-- BARRIER (R316). -/
def execBarrier (r : RingNo) (s : State) : Host.Outcome State Fault Refusal :=
  .next (startNext s r 5 (fun _ => true) (startBarrier r))

/-- A fence covers a command (R317). -/
def covers (s : State) (f : Cmd) (ring idx : Nat) : Bool :=
  decide (idx < f.idx) && (ring == f.ring || (recField f.rec_ 64 64 == 1 && ringPart s ring == ringPart s f.ring))

/-- A WRITE to host memory of a covered command waits for its acknowledgement. -/
def writeWaits (s : State) (f : Cmd) : Bool :=
  s.host.qps.any fun q => q.outs.any fun o => match o.for_ with
    | .cmdWrite ring idx => covers s f ring idx
    | _ => false

/-- Every command that a fence covers has committed, and every write of theirs to host memory is acknowledged (R317). -/
def fenceDone (s : State) (f : Cmd) : Bool :=
  (s.host.cmds.all fun c => committed c || !covers s f c.ring c.idx) && !writeWaits s f

/-- A started fence of a ring commits when its condition holds. -/
def settleFence (s : State) (ring : Nat) : State :=
  match s.host.cmds.find? fun c => c.ring == ring && c.st == .started && cmdOp c.rec_ == 6 with
  | some f => if fenceDone s f then finishCmd s ring f.idx 0 else s
  | none => s

/-- FENCE (R317): the fence starts, and commits once its condition holds. -/
def execFence (r : RingNo) (s : State) : Host.Outcome State Fault Refusal :=
  .next (settleFence (startNext s r 6 (fun _ => true) (fun t _ => t)) r)

/-- Regions that a pitch covers: those of its ranks' cores on this panel, or of the whole partition (R376). -/
def pitchRegions (s : State) (ring : Nat) (r : List Byte) : List Nat :=
  let p := ringPart s ring
  let cs := if recField r 120 96 = 0 then coresOfPart s p else (ranksHere s p (pitchRanks r)).map Prod.snd
  ((cs.filter fun c => partOfCore s c == p).map fun c => c / 16).eraseDups

/-- Start a pitch: the hint reaches the power manager, which ignores it in a quench (R318, R376, Table 11.8). -/
def startPitch (ring : Nat) (s : State) (c : Cmd) : State :=
  let r := c.rec_
  let start := s.prc + usTicks (recField r 159 144)
  let dur := if recField r 191 160 = 0 then 10000 else recField r 191 160
  let h : Hint := ⟨s.pwr.nextHint, ring, pitchRegions s ring r, recField r 129 128, start, start + usTicks dur, false, none, []⟩
  let s := if s.pwr.quench.isSome then s
    else { s with pwr := { s.pwr with hints := s.pwr.hints ++ [h], nextHint := s.pwr.nextHint + 1 } }
  finishCmd s ring c.idx 0

/-- PITCH (R318). -/
def execPitch (r : RingNo) (s : State) : Host.Outcome State Fault Refusal :=
  .next (startNext s r 7 (fun _ => true) (startPitch r))

/-! ## Partition reset -/

/-- Complete the records of a ring up to its tail with partition-reset (R324). -/
def flushRing : Nat → State → Nat → State
  | 0, s, _ => s
  | fuel + 1, s, r =>
    let c := cring s r
    if c.head = c.tail then s
    else
      let rec_ := ringRec s r c.head.toNat
      let s := setCring s r { c with head := c.head + 1 }
      flushRing fuel (finishCmd (addCmd s r rec_) r s.host.nextCmd 7) r

/-- A partition reset completes every open command of the partition's rings, and every record up to each tail (R324,
Table 12.7). -/
def ringsReset (s : State) (p : Nat) : State :=
  let mine := (s.host.cmds.filter fun c => ringPart s c.ring == p && c.st != .done && c.st != .committed)
  let s := mine.foldl (fun t c => finishCmd t c.ring c.idx 7) s
  (s.host.crings.map Prod.fst).foldl (fun t r =>
    if ringPart t r == p && (cring t r).state != 0 then
      let t := if (cring t r).state = 3 then setCring t r { cring t r with state := 1 } else t
      flushRing (min (ringDue t r) (ringSize t r)) t r
    else t) s

/-! ## Enabling rings -/

/-- Two command rings of one host die share slots. -/
def ringsOverlap (s : State) (r q : Nat) : Bool :=
  r / 64 == q / 64 && decide (ringBase s r < ringBase s q + 64 * ringSize s q)
    && decide (ringBase s q < ringBase s r + 64 * ringSize s r)

/-- A ring's configuration may be enabled (R305). -/
def ringCfgValid (s : State) (r : Nat) : Bool :=
  let e := complRing s r
  ringBase s r % 64 == 0 && decide (0x4000 ≤ ringBase s r) && decide (ringBase s r + 64 * ringSize s r ≤ 0x100000)
    && (s.host.crings.all fun c => c.1 == r || c.2.state == 0 || !ringsOverlap s r c.1)
    && (ering s e).state != 0 && dget s (0x6900 + e) 1 == ringPart s r && e / 64 == r / 64

/-- Enable or disable a command ring: tail, head and resv become 0 (R305). -/
def cringEnable (s : State) (r : Nat) (on_ : Bool) : State :=
  let s := dset s (0x6880 + r) 5 (boolBit on_)
  if on_ then
    setCring { s with host := { s.host with cmds := s.host.cmds.filter fun c => !(c.ring == r && c.st == .done) } }
      r ⟨0, 0, 0, 1⟩
  else setCring s r { cring s r with state := 0 }

/-- An event ring's configuration may be enabled: its QP works, on its own host die and of its owner (R325, R328). -/
def eringCfgValid (s : State) (r : Nat) : Bool :=
  match findQp s (r / 64) (BitVec.ofNat 24 (dget s (0x6900 + r) 2)) with
  | some q => q.st == .ready && q.part == dget s (0x6900 + r) 1 && dget s (0x6900 + r) 2 < 2 ^ 24
      && dget s (0x6900 + r) 3 % 32 == 0
  | none => false

/-- Write again the records that no acknowledgement covered, each with its pidx (R324, R328). -/
def eringAgain (s : State) (r : Nat) : State :=
  (ering s r).again.foldl (fun t x => eringSend t r x.1 x.2) (setEring s r { ering s r with again := [] })

/-- Enable or disable an event ring: records that wait are written first, pidx going on from prod (R328). -/
def eringEnable (s : State) (r : Nat) (on_ : Bool) : State :=
  let s := dset s (0x6900 + r) 9 (boolBit on_)
  if on_ then eringGo (eringAgain (setEring s r { ering s r with state := 1, lost := 0 }) r) r
  else setEring s r { ering s r with state := 0 }

end Sys2Proof.Machine
end

