-- ==== Sys2Proof/Machine/Clocking.lean ====
section
/-!
DEFINITION. Clocking.lean: the reference (R336, R337), the comparison of PRCs (R342) and changes of step (R346 to R352,
Tables 10.2 and 10.3).
-/
namespace Sys2Proof.Machine

open Sys2Proof

/-! ## The reference -/

/-- 0x4000.05: 0 locked; 1 holding; 2 relocking. -/
def refState (s : State) : Nat := dget s 0x4000 5

/-- REF_CHECK (R336): bad for 10 us (1,562.5 ticks), missing or more than 200 ppm off, the reference is lost and the mesh holds; a good one
that returns starts the slew back into lock. -/
def execRefCheck (present : Bool) (ppm : Int) (s : State) : Host.Outcome State Fault Refusal :=
  .next
    (let good : Bool := present && decide (-200 ≤ ppm) && decide (ppm ≤ 200)
     let last : Int := if present then ppm else s.clk.refPpm
     if good then
       let s := { s with clk := { s.clk with refBadAt := none, refPpm := last, refOk := true } }
       if refState s = 1 then dset s 0x4000 5 2 else s
     else
       let t := s.clk.refBadAt.getD s.prc
       let s := { s with clk := { s.clk with refBadAt := some t, refPpm := last, refOk := false } }
       if refState s ≠ 1 ∧ 3125 ≤ 2 * (s.prc - t) then
         let s := { s with clk := { s.clk with refLostAt := some (s.clk.refLostAt.getD s.prc) } }
         let s := dset s 0x4000 5 1
         if firmwareUp s then raise s 0x0604 0xFF (pf 16 16 (BitVec.ofInt 16 last).toNat) else s
       else s)

/-- Milliseconds of a number of ticks. -/
def ticksMs (t : Nat) : Nat := ticksUs t / 1000

/-- REF_RESTORED (R337): lock is regained. -/
def execRefRestored (s : State) : Host.Outcome State Fault Refusal :=
  .next
    (if refState s = 2 then
       let ms := ticksMs (s.prc - s.clk.refLostAt.getD s.prc)
       let s := dset { s with clk := { s.clk with refLostAt := none } } 0x4000 5 0
       if firmwareUp s then raise s 0x0605 0xFF (pf 32 32 ms) else s
     else s)

/-- A die is recommended for fencing: each of its routers where it has them, else the panel's return (R342, Table 13.8). DESIGN
CHOICE (log 84): the codes that say so. -/
def recommendDie (s : State) (d : Nat) : State :=
  if 240 ≤ d then recommend s 0xFF 4 0 6
  else (List.range (if isMemSite d then 1 else 4)).foldl (fun t q => recommend t 0xFF 2 (d + 256 * q) 4) s

/-- PRC_SKEW_CHECK (R342): more than one tick away raises prc-skew and recommends the die for fencing; the count is never
corrected. Base-camp firmware makes the comparison. -/
def execPrcSkewCheck (d : DieNo) (skew : Int) (s : State) : Host.Outcome State Fault Refusal :=
  .next
    (if firmwareUp s then
       let s := { s with clk := { s.clk with skew := aput d skew s.clk.skew } }
       if -1 ≤ skew ∧ skew ≤ 1 then s
       else recommendDie (raise s 0x0606 0xFF (pf 0 9 d ||| pf 32 32 (BitVec.ofInt 32 skew).toNat)) d
     else s)

/-! ## Steps -/

/-- A die is to be pinned: for heat, for phases, or by a failed re-lock (R346, R351, R370, R382). -/
def pinWanted (s : State) (d : Nat) : Bool := (rail s d).hotPin || (rail s d).phasePin || s.clk.lockPin.contains d

/-- Dies that a change is sent to: those of the set that answer; the base-camp die sends it. -/
def changeDies (s : State) (g : Change) : List Nat :=
  match g.die with
  | some d => [d]
  | none => (List.range 266).filter fun d => !s.health.lostDies.contains d

/-- First die of a change that has not acknowledged. -/
def firstMissing (s : State) (g : Change) : Option Nat := (changeDies s g).find? fun d => !g.acks.contains d

/-- The change raises the step. -/
def rises (s : State) (g : Change) : Bool :=
  match g.die with
  | some d => decide (dieStep s d < g.step)
  | none => decide (s.clk.step < g.step)

/-- Step that a change leaves or goes back to on its dies. -/
def stepBefore (s : State) (g : Change) : Nat := match g.die with
  | some d => dieStep s d
  | none => s.clk.step

/-- A change of step may be armed now (R347). -/
def mayArm (s : State) : Bool :=
  panelReady s && s.clk.change.isNone && s.clk.quench.isNone && (match s.clk.lastResume with
    | some r => decide (r + usTicks 50 < s.prc)
    | none => true)

/-- Arm a change at a count no sooner than the lead of 0x4000.04 allows; a rise orders the voltage up first (R347, R348). -/
def armAt (s : State) (die : Option Nat) (step at_ : Nat) : State :=
  let pin : Bool := match die with
    | some d => pinWanted s d
    | none => false
  let g : Change := ⟨die, step, max at_ (s.prc + dget s 0x4000 4), [], false, pin⟩
  let t := { s with clk := { s.clk with change := some g, cancelled := none } }
  if rises s g then orderRails t die step else t

/-- Arm a change with the least lead. -/
def armChange (s : State) (die : Option Nat) (step : Nat) : State := armAt s die step 0

/-- After a quench the step rises only once flow has been at or above 80 % for 10 s, a step a second at most (R353, R386). -/
def slowOk (s : State) : Bool :=
  !s.pwr.slowRise || ((match s.pwr.riseSince with
    | some t => decide (t + 10 * secTicks ≤ s.prc)
    | none => false) && decide (s.pwr.lastRise + secTicks ≤ s.prc))

/-- Arm a rise of the panel step: its time is kept, and the last one to the highest step ends the slow rise (R386). -/
def armRise (s : State) (k : Nat) : State :=
  armChange { s with pwr := { s.pwr with lastRise := s.prc, slowRise := s.pwr.slowRise && decide (k < s.pwr.limits.step) } }
    none k

/-- A change of the panel step to k is permitted: up to 0x4000.03, none in a quench, and after one only as R386 lets it rise
(R346, R353). -/
def panelStepOk (s : State) (k : Nat) : Bool :=
  s.pwr.quench.isNone && k != s.clk.step && decide (k ≤ s.pwr.limits.step)
    && (decide (k ≤ s.clk.step) || (slowOk s && (!s.pwr.slowRise || k == s.clk.step + 1)))

/-- CHANGE_ARM (R346 to R348, R353): a change of the panel step, or a pin or unpin of one die; unpins wait for the end of a
quench (Table 11.8). -/
def execChangeArm (die : Option DieNo) (step : BitVec 4) (s : State) : Host.Outcome State Fault Refusal :=
  .next
    (let k := step.toNat
     let fine : Bool := match die with
       | none => panelStepOk s k
       | some d =>
         if pinWanted s d then k == 0 && !s.clk.pinned.contains d.val
         else s.pwr.quench.isNone && s.clk.pinned.contains d.val && k == s.clk.step
     if mayArm s && fine then
       (if die.isNone && decide (s.clk.step < k) then armRise s k else armChange s (die.map Fin.val) k)
     else s)

/-- Take an acknowledgement. -/
def Change.ack (g : Change) (d : Nat) : Change := if g.acks.contains d then g else { g with acks := g.acks ++ [d] }

/-- A die belongs to a change. -/
def Change.covers (g : Change) (d : Nat) : Bool := g.die == none || g.die == some d

/-- CHANGE_ACK (R348). -/
def execChangeAck (d : DieNo) (s : State) : Host.Outcome State Fault Refusal :=
  .next
    (let f (g : Option Change) : Option Change := g.map fun x => if x.covers d && !x.stopped then x.ack d else x
     { s with clk := { s.clk with change := f s.clk.change, quench := f s.clk.quench } })

/-- Send cancel: the voltage is reversed, and clk-cancel names the cause and the first die that did not acknowledge (R350). -/
def cancelChange (s : State) (g : Change) (cause : Nat) : State :=
  let die := match firstMissing s g with
    | some d => d
    | none => match g.die with
      | some d => d
      | none => Config.cancelDie.toNat
  let t := if rises s g then orderRails s g.die (stepBefore s g) else s
  raise { t with clk := { t.clk with change := none, cancelled := some { g with acks := [] } } } 0x0602 0xFF
    (pf 0 4 cause ||| pf 16 9 die)

/-- CHANGE_DEADLINE (R348, Table 10.2 step 4): at C - 5 us, a missing acknowledgement or a rise that is not settled cancels. -/
def execChangeDeadline (settled : Bool) (s : State) : Host.Outcome State Fault Refusal :=
  .next
    (match s.clk.change with
     | none => s
     | some g =>
       if g.stopped ∨ s.prc + usTicks 5 < g.at_ then s
       else if (firstMissing s g).isSome then cancelChange s g 1
       else if rises s g && !settled then cancelChange s g 3
       else s)

/-- CHANGE_CANCEL (R350): the cancel reaches a die, which disarms. -/
def execChangeCancel (d : DieNo) (s : State) : Host.Outcome State Fault Refusal :=
  .next
    { s with clk := { s.clk with cancelled := s.clk.cancelled.bind fun g =>
        let g' := if g.covers d then g.ack d else g
        if (firstMissing s g').isSome then some g' else none } }

/-- CHANGE_STOP (R349): at C the step clocks of the set stop. Every acknowledgement of an ordinary change is held by then. -/
def execChangeStop (s : State) : Host.Outcome State Fault Refusal :=
  .next
    (match s.clk.change with
     | some g =>
       if g.stopped = false ∧ g.at_ ≤ s.prc ∧ firstMissing s g = none then
         { s with clk := { s.clk with change := some { g with stopped := true } } }
       else s
     | none =>
       match s.clk.quench with
       | some q =>
         if q.stopped = false ∧ q.at_ ≤ s.prc then { s with clk := { s.clk with quench := some { q with stopped := true } } }
         else s
       | none => s)

/-- The event of a completed change. -/
def stepEv (s : State) (old new : Nat) (die : Option Nat) (c : Nat) : State :=
  raise s 0x0601 0xFF (pf 0 4 old ||| pf 4 4 new ||| pf 16 9 (die.getD 0x1FF) ||| pf 64 64 c)

/-- A change is done at its resume count: the dies run at the new step, those that have not re-locked wait (R348, R351); for
a fall the voltage comes down, and falls of tempering offsets apply (R361, R373). A change of one die pins or unpins it as it
was armed to. -/
def finishChange (s : State) (g : Change) (unlocked : List Nat) : State :=
  let old := stepBefore s g
  let late := (unlocked.filter fun d => g.covers d).map fun d => (d, g.at_)
  let clk := match g.die with
    | some d =>
      { s.clk with pinned := if g.pin then d :: s.clk.pinned.filter (fun x => x != d)
                     else s.clk.pinned.filter fun x => x != d,
                   changes := aput d (agetD d 0 s.clk.changes + 1) s.clk.changes }
    | none => { s.clk with step := g.step, changesAll := s.clk.changesAll + 1 }
  let t := { s with clk := { clk with late := clk.late ++ late, lastResume := some (g.at_ + 320) } }
  let t := stepEv t old g.step g.die g.at_
  let t := (changeRegions t g.die).foldl applyFalls t
  orderRails t g.die g.step

/-- CHANGE_RESUME (R348): at C + 320 ticks. -/
def execChangeResume (unlocked : List DieNo) (s : State) : Host.Outcome State Fault Refusal :=
  .next
    (let u := unlocked.map Fin.val
     match s.clk.change with
     | some g =>
       if g.stopped ∧ g.at_ + 320 ≤ s.prc then finishChange { s with clk := { s.clk with change := none } } g u else s
     | none =>
       match s.clk.quench with
       | some q =>
         if q.stopped ∧ q.at_ + 320 ≤ s.prc then finishChange { s with clk := { s.clk with quench := none } } q u else s
       | none => s)

/-- RELOCK_FALLBACK (R351): at C + 640 ticks the die starts at step 0, pinned from then on. -/
def execRelockFallback (d : DieNo) (s : State) : Host.Outcome State Fault Refusal :=
  .next
    (match s.clk.late.find? fun x => x.1 == d.val with
     | some (_, c) =>
       if s.prc < c + 640 then s
       else
         let n := agetD d 0 s.clk.lockFail
         raise { s with clk := { s.clk with
             late := s.clk.late.filter (fun x => x.1 != d.val), pinned := d.val :: s.clk.pinned.filter (fun x => x != d.val),
             lockPin := d.val :: s.clk.lockPin.filter (fun x => x != d.val),
             lockFail := aput d (min 0xFFFF (n + 1)) s.clk.lockFail } }
           0x0603 0xFF (pf 0 9 d ||| pf 64 64 c)
     | none => s)

/-- Arm the change of a quench (R352, Table 10.3). -/
def armQuench (s : State) : State :=
  if s.clk.quench.isSome then s
  else
    let q (c : Nat) : Change := ⟨none, 0, c, [], false, false⟩
    let c := s.prc + 625
    match s.clk.change with
    | none => { s with clk := { s.clk with quench := some (q c) } }
    | some g =>
      if g.stopped = false ∧ c < g.at_ then
        let s := cancelChange s g 2
        { s with clk := { s.clk with quench := some (q c) } }
      else { s with clk := { s.clk with quench := some (q (g.at_ + 320 + 625)) } }

/-- CLK_STATE (Table 10.5). -/
def clkStateReg (s : State) (d : Nat) : Nat :=
  let armed (g : Option Change) : Bool := match g with
    | some x => x.covers d && !x.stopped
    | none => false
  let left : Bool := match s.clk.cancelled with
    | some x => x.covers d && !x.acks.contains d
    | none => false
  fld 0 4 (dieStep s d) ||| fld 4 1 (boolBit (s.clk.pinned.contains d))
    ||| fld 5 1 (boolBit (armed s.clk.change || armed s.clk.quench || left))
    ||| fld 6 1 (boolBit (holdsClock s.clk.change d || holdsClock s.clk.quench d))
    ||| fld 7 1 (boolBit (s.clk.mesh && !s.health.lostDies.contains d)) ||| fld 8 1 (boolBit (refState s == 1)) ||| fld 16 16 (agetD d 0 s.clk.lockFail)
    ||| fld 32 32 (s.clk.changesAll + agetD d 0 s.clk.changes)

/-- A write to CLK_STATE sets lock_fail, its one RW field (R11, Table 10.5). -/
def clkStateWrite (s : State) (d v : Nat) : State :=
  { s with clk := { s.clk with lockFail := aput d (bits v 31 16) s.clk.lockFail } }

/-- CLK_EDGE (Table 10.6). -/
def clkEdgeReg (s : State) (site : Nat) : Nat :=
  fld 0 24 (agetD site 0 s.clk.edgeDepth) ||| fld 24 8 (agetD site 0 s.clk.edgeFailed)

end Sys2Proof.Machine
end

