-- ==== Sys2Proof/Machine/RankMaps.lean ====
section
/-!
DEFINITION. RankMaps.lean: loads of rank maps (R227 to R229, Table 6.8).
-/
namespace Sys2Proof.Machine

open Sys2Proof

/-- Status of a rank map: 0 idle, 1 loading, 2 loaded, 3 refused (Table 6.10). -/
def rmapStatus (s : State) (p v : Nat) : State := dset s (0x6100 + p) 0x0E v

/-- A core of the partition is outside IDLE; a GATED core holds no task and does not count (R228). -/
def partBusy (s : State) (p : Nat) : Bool :=
  s.cores.any fun e => partOfCore s e.1 == p && e.2.st != .idle && e.2.st != .gated

/-- RMAP_COMMIT (R228): a load starts unless a core of the partition is outside IDLE or a load runs. -/
def execRmapCommit (p : PartNo) (s : State) : Host.Outcome State Fault Refusal :=
  .next
    (if partSt s p = 0 ∨ partBusy s p = true ∨ s.fab.loads.contains p.val = true then s
     else rmapStatus { s with fab := { s.fab with loads := s.fab.loads ++ [p.val] } } p 1)

/-- A write of 1 to the commit entry, and its status (R228, R485). -/
def askCommit (s : State) (p : Nat) : State × Nat :=
  if partSt s p = 0 then (s, 3)
  else if partBusy s p = true ∨ s.fab.loads.contains p = true then (s, 4)
  else (rmapStatus { s with fab := { s.fab with loads := s.fab.loads ++ [p] } } p 1, 0)

/-- A load is abandoned and the previous map stays (R404, Table 12.7). -/
def abandonLoad (s : State) (p : Nat) : State :=
  if s.fab.loads.contains p then
    rmapStatus { s with fab := { s.fab with loads := s.fab.loads.filter fun q => q != p } } p
      (if (agetD p [] s.fab.rmaps).isEmpty then 0 else 2)
  else s

/-- Entries of an image. -/
def entriesOf : Nat → List Byte → List Word
  | 0, _ => []
  | n + 1, bs => BitVec.ofNat 64 (leNat (bs.take 8)) :: entriesOf n (bs.drop 8)

/-- The condition of R229 that an entry meets, by its place in the list: 1 version, 2 coordinate, 3 core outside the
partition. -/
def entryFault (s : State) (p : Nat) (w : Word) : Option Nat :=
  let e := w.toNat
  if bits e 63 60 ≠ 1 then some 1
  else if bit e 40 = false then none
  else if 15 < bits e 23 16 ∨ 15 < bits e 31 24 ∨ 15 < bits e 39 32 then some 2
  else match entryHere s e with
    | some c => if c < 7168 ∧ partOfCore s c = p then none else some 3
    | none => none

/-- First bad rank of an image, with its condition and entry. -/
def firstBad (s : State) (p : Nat) : Nat → List Word → Option (Nat × Nat × Word)
  | _, [] => none
  | r, w :: ws => match entryFault s p w with
    | some k => some (r, k, w)
    | none => firstBad s p (r + 1) ws

/-- A refused load: the previous map stays in force, and the rank-map event names the rank and the cause (R229). -/
def refuseMap (s : State) (p k rank : Nat) : State :=
  raise (rmapStatus s p 3) 0x0303 p (pf 0 4 p ||| pf 4 4 (Config.rankCause k).toNat ||| pf 32 25 rank)

/-- RANK_MAP_LOADED (R229). -/
def execRankMapLoaded (p : PartNo) (s : State) : Host.Outcome State Fault Refusal :=
  .next
    (if s.fab.loads.contains p.val then
       let s := { s with fab := { s.fab with loads := s.fab.loads.filter fun q => q != p.val } }
       let n := dget s (0x6100 + p) 0x0B
       let a := BitVec.ofNat 64 (dget s (0x6100 + p) 0x0A)
       if n = 0 ∨ 65536 < n then refuseMap s p 4 0
       else if spaceOf a ≠ 0 then refuseMap s p 5 0
       else
         let x := readRangeObs s (some p.val) a (8 * n) .clean
         let s := x.1
         match x.2 with
         | none => refuseMap s p 5 0
         | some bs =>
           let ws := entriesOf n bs
           match firstBad s p 0 ws with
           | some (r, k, w) =>
             let s := refuseMap s p k r
             if k = 1 then
               raise s 0x0015 p (pf 0 16 epBase ||| pf 16 8 2 ||| pf 24 4 (bits w.toNat 63 60))
             else s
           | none =>
             let s := rmapStatus { s with fab := { s.fab with rmaps := aput p ws s.fab.rmaps } } p 2
             dset s (0x6100 + p) 0x0D ((dget s (0x6100 + p) 0x0D + 1) % 2 ^ 32)
     else s)

end Sys2Proof.Machine
end

