-- ==== Sys2Proof/Machine/Resets.lean ====
section
/-!
DEFINITION. Resets.lean: contents after a core reset (R110, R179, Tables 3.10 and 5.8), the switch-in of spares (R416), and
the resets below the panel (R402 to R406, Tables 12.6 and 12.7). A row ends a reset that runs; where none runs it begins
one, and ends it at once unless time must pass first (log 12).
-/
namespace Sys2Proof.Machine

open Sys2Proof

/-! ## A core after reset -/

/-- A core after core reset (Table 3.10): what it calls undefined is free, under draw n; the LFSRs are not named. -/
def afterReset (k : Core) (n : Nat) : Core :=
  { Core.reset with mat := { MatSt.reset with free := some n, lfsr := k.mat.lfsr },
                    vec := { VecSt.reset with free := some n, lfsr := k.vec.lfsr } }

/-- Core reset of one logical core: its moves and accesses are abandoned, responses to them find no message (R109, R110).
A core without architectural state has none to set. -/
def resetCore (s : State) (c : Nat) : State :=
  if coreGated s c then s
  else
    let t := setCore s c (afterReset (core s c) s.fresh)
    abandon { t with fresh := t.fresh + 1 } (epCore c)

/-- A scrubbed core: scratchpad and state are zero (R179, R180). -/
def scrubCore (s : State) (c : Nat) : State :=
  let t := abandon { s with spm := memZero s.spm (spmKey c 0) spmSize } (epCore c)
  if coreGated s c then t else setCore t c Core.reset

/-! ## Spares -/

/-- Holes: those of the repair map on dies that answer, and the cores of the others (Table 12.3 item 1). -/
def holeCount (s : State) : Nat :=
  let lost := s.health.lostDies.filter fun t => decide (t < 240) && !isMemSite t
  ((s.health.repair.filter fun e => !lost.contains (siteOfDie (e.1 / 4))).map fun e =>
    ((List.range 8).filter fun j => e.2 / 16 ^ j % 16 == 15).length).sum + 32 * lost.length

/-- Working logical cores (Table 12.4). -/
def workingCores (s : State) : Nat := 7168 - holeCount s

/-- A hole sits below the highest logical number of its cluster (Table 13.8, code 8). -/
def holeBelow (w : Nat) : Bool :=
  (List.range 7).any fun j => w / 16 ^ j % 16 == 15 && (List.range 8).any fun i => decide (j < i) && w / 16 ^ i % 16 != 15

/-- The logical core's position is fenced, or a drill has lost it, so its cluster's next reset moves it (R416). -/
def needsSwitch (s : State) (c : Nat) : Bool :=
  posOfCore s c != 15
    && (bit (repairWord s (c / 8)) (40 + posOfCore s c) || s.health.exchange.contains (pcidOf s c))

/-- Put a logical core on its cluster's spare, which starts scrubbed, or make it a hole (R414, R416, Table 13.5 step 5). After
a drill of kind 3 the drilled position becomes the spare (Table 13.10). -/
def switchCore (s : State) (c : Nat) : State :=
  let k := c / 8
  let j := c % 8
  let w := repairWord s k
  let p := posOfCore s c
  let pc := pcidOf s c
  let sp := bits w 35 32
  let cause := bits (healthRec s pc) 7 4
  let drill := s.health.exchange.contains pc
  let part := partOfCore s c
  let s := { s with health := { s.health with exchange := s.health.exchange.filter fun x => x != pc } }
  if sp = 15 then
    let w' := setBits w (4 * j + 3) (4 * j) 15
    let s := setCore (setRepair s k w') c { Core.reset with st := .gated }
    let s := raiseD s drill 0x0907 part (pf 0 13 c ||| pf 13 4 p ||| pf 17 4 15 ||| pf 21 1 1)
    let s := if !drill && holeBelow w' then recommend s 0xFF 4 0 8 else s
    if !drill && decide (workingCores s < coreFloor s) then recommend s 0xFF 4 0 6 else s
  else
    let w' := setBits (setBits w (4 * j + 3) (4 * j) sp) 35 32 (if drill then p else 15)
    let s := setRepair s k w'
    let s := setCondD s drill (k * 16 + sp) 0 (if drill then 5 else cause)
    let s := if drill then setCondD s drill pc 3 5 else s
    let s := scrubCore (setCore s c Core.reset) c
    raiseD s drill 0x0907 part (pf 0 13 c ||| pf 13 4 p ||| pf 17 4 sp)

/-- The logical cores of a cluster that must move do so (R416). -/
def switchIn (s : State) (k : Nat) : State :=
  (List.range 8).foldl (fun t j => if needsSwitch t (8 * k + j) then switchCore t (8 * k + j) else t) s

/-! ## Core, cluster and region resets -/

/-- Logical cores of a unit of level 1 to 3. -/
def unitCores (level unit : Nat) : List Nat :=
  match level with
  | 1 => [unit]
  | 2 => (List.range 8).map fun j => 8 * unit + j
  | 3 => (List.range 16).map fun j => 16 * unit + j
  | _ => []

/-- First logical core of a unit. -/
def unitCore (level unit : Nat) : Nat := (unitCores level unit).headD 0

/-- A running reset of the same or a higher level covers a unit: a request joins it (R406). -/
def joins (s : State) (level unit : Nat) : Bool :=
  let p := partSt s (partOfCore s (unitCore level unit))
  p == 4 || p == 5 || s.parts.resets.any fun r => decide (level ≤ r.level) && resetCovers s r (unitCore level unit)

/-- A reset begins: lower ones inside it are taken over, its cores enter RESET and absorb (R109, R403, R406). -/
def beginReset (s : State) (level unit lcid : Nat) : State :=
  if joins s level unit then s
  else
    let cs := unitCores level unit
    let rs := s.parts.resets.filter fun r => !(decide (r.level < level) && cs.contains (unitCore r.level r.unit))
    let s := { s with parts := { s.parts with resets := rs ++ [⟨level, unit, lcid, s.prc, none⟩] } }
    cs.foldl (fun t c => if coreGated t c then t else modCore t c fun k => { k with st := .reset, hold := .none }) s

/-- The event and the entry of a reset that has ended (R402, Table 12.10). -/
def resetDone (s : State) (drill : Bool) (part : Nat) (r : RunReset) : State :=
  let us := ticksUs (s.prc - r.start)
  let s := if part < 16 then dset s (0x6100 + part) 0x11 (r.level + 256 * min us (2 ^ 24 - 1)) else s
  raiseD s drill 0x0805 part (pf 0 4 r.level ||| pf 16 13 r.lcid ||| pf 32 32 (min us (2 ^ 32 - 1)))

/-- The running reset of a unit. -/
def runReset (s : State) (level unit : Nat) : Option RunReset :=
  s.parts.resets.find? fun r => r.level == level && r.unit == unit

/-- A reset of a unit ends: its cores are as after core reset, and a cluster's spares are switched in (Table 12.6). -/
def endReset (s : State) (level unit : Nat) : State :=
  match runReset s level unit with
  | none => s
  | some r =>
    let drill := level == 2 && (unitCores 2 unit).any fun c => s.health.exchange.contains (pcidOf s c)
    let s := (unitCores level unit).foldl resetCore s
    let s := if level = 2 then switchIn s unit else s
    let s := { s with parts := { s.parts with resets := s.parts.resets.filter fun x => !(x.level == level && x.unit == unit) } }
    resetDone s drill (partOfCore s (unitCore level unit)) r

/-- A reset row of level 1 to 3. -/
def resetRow (s : State) (level unit : Nat) : State :=
  if panelReady s then endReset (if (runReset s level unit).isSome then s else beginReset s level unit (unitCore level unit)) level unit
  else s

/-- CORE_RESET (R109). -/
def execCoreReset (c : CoreId) (s : State) : Host.Outcome State Fault Refusal := .next (resetRow s 1 c)

/-- CLUSTER_RESET (R403, R416). -/
def execClusterReset (k : ClusterNo) (s : State) : Host.Outcome State Fault Refusal := .next (resetRow s 2 k)

/-- REGION_RESET (R403). -/
def execRegionReset (r : RegionNo) (s : State) : Host.Outcome State Fault Refusal := .next (resetRow s 3 r)

/-- Every core of a cluster is IDLE, or has no state (R416). -/
def clusterIdle (s : State) (k : Nat) : Bool :=
  (unitCores 2 k).all fun c => (core s c).st == .idle || coreGated s c

/-- SPARE_SWITCH_IN (R416): base-camp firmware orders the cluster reset once the cluster is IDLE. -/
def execSpareSwitchIn (k : ClusterNo) (s : State) : Host.Outcome State Fault Refusal :=
  .next (if (unitCores 2 k).any (needsSwitch s) && clusterIdle s k then resetRow s 2 k else s)

/-! ## Partition reset -/

/-- A partition changes state (R398, Table 12.5). -/
def setPart (s : State) (p new : Nat) : State :=
  let old := partSt s p
  if old = new then s
  else
    raise { s with parts := { s.parts with st := if new = 0 then adel p s.parts.st else aput p new s.parts.st } } 0x0804 p
      (pf 0 4 p ||| pf 4 4 old ||| pf 8 4 new)

/-- Dies and regions of a partition. -/
def diesOfPart (s : State) (p : Nat) : List Nat := (List.range 224).filter fun d => partOfDie s d == p
def regionsOfPart (s : State) (p : Nat) : List Nat := (diesOfPart s p).flatMap fun d => [2 * d, 2 * d + 1]

/-- A memory site under a reset of its owner: streams and descriptors end with status reset and no done_mode, logs and
lock-outs are cleared (R246, R264). -/
def siteReset (s : State) (m : Nat) : State :=
  let x := msite s m
  let s := x.streams.foldl (fun t e => engineFault t m 0 8 (descTag e.2.desc)) s
  let s := x.gatq.foldl (fun t q => engineFault t m 1 8 (descTag q.desc)) s
  let s := x.relq.foldl (fun t q => engineFault t m 2 8 (descTag q.desc)) s
  let s := modMsite s m fun y => { y with streams := [], gatq := [], relq := [], logs := [], locks := [], signals := [] }
  abandon s (epMem m)

/-- A partition reset, or a switch-off, begins: steps 1 to 3 of Table 12.7 (R399, R404, R406). -/
def beginPart (s : State) (p lcid : Nat) (off : Bool) : State :=
  let cs := coresOfPart s p
  let rs := s.parts.resets.filter fun r => !(decide (r.level < 4) && cs.contains (unitCore r.level r.unit))
  let s := { s with parts := { s.parts with resets := rs ++ [⟨4, p, lcid, s.prc, none⟩] } }
  let s := setPart s p (if off then 5 else 4)
  let s := partitionStopAll s p
  let s := { s with host := { s.host with belay := s.host.belay.filter fun x => !cs.contains x.1 } }
  let s := (sitesOf s p).foldl siteReset s
  qpsFail (ringsReset (abandonLoad s p) p) p

/-- A region of a partition that is switched off: unpowered unless dark (R399). -/
def regionOff (s : State) (r : Nat) : State :=
  if (region s r).pstate = 3 then s else modRegion s r fun x => { x with pstate := 2, wake := false, head := .none }

/-- Steps 4 and 5 of Table 12.7: cores and regions are reset; absorbing goes on (R404). -/
def sweepPart (s : State) (p : Nat) : State :=
  let s := (coresOfPart s p).foldl resetCore s
  let mark (x : RunReset) : RunReset := if x.level = 4 ∧ x.unit = p then { x with swept := some s.prc } else x
  { s with parts := { s.parts with resets := s.parts.resets.map mark } }

/-- Step 7 of Table 12.7: absorbing ends, and the partition is on again, or off with its regions off (R399, R404). -/
def endPart (s : State) (p : Nat) (r : RunReset) : State :=
  let off := partSt s p == 5
  let s := { s with parts := { s.parts with resets := s.parts.resets.filter fun x => !(x.level == 4 && x.unit == p) } }
  if off then
    let s := setPart ((regionsOfPart s p).foldl regionOff s) p 1
    { s with parts := { s.parts with waiting := adel p s.parts.waiting } }
  else resetDone (setPart s p 3) false p r

/-- A partition that has been reset drains stray responses for twice the reassembly timeout after step 5 (Table 12.7 step
6). -/
def partDrained (s : State) (swept : Nat) : Bool := decide (swept + twiceTimeout s ≤ s.prc)

/-- Ask for a partition reset (R402, R406): on begins it, starting and stopping make it wait, resetting is joined. -/
def askPartReset (s : State) (p lcid : Nat) : State :=
  match partSt s p with
  | 3 => beginPart s p lcid false
  | 2 => { s with parts := { s.parts with waiting := aput p lcid s.parts.waiting } }
  | 5 => { s with parts := { s.parts with waiting := aput p lcid s.parts.waiting } }
  | _ => s

/-- A row of a partition's reset or switch-off: it begins one, or takes the one that runs to its next stage of Table 12.7. -/
def partRow (s : State) (p : Nat) (ask : State → State) (st : Nat) : State :=
  match runReset s 4 p with
  | some r =>
    if partSt s p = st then
      match r.swept with
      | none => sweepPart s p
      | some t => if partDrained s t then endPart s p r else s
    else s
  | none => ask s

/-- First logical core of a partition: a reset that base-camp firmware orders names it. DESIGN CHOICE (log 85). -/
def firstCore (s : State) (p : Nat) : Nat := (coresOfPart s p).headD 0

/-- PARTITION_RESET (R404). -/
def execPartitionReset (p : PartNo) (s : State) : Host.Outcome State Fault Refusal :=
  .next (if panelReady s then partRow s p (fun t => askPartReset t p (firstCore t p)) 4 else s)

/-- Ask for a switch-off (R398, R399). -/
def askOff (s : State) (p : Nat) : State := if partSt s p = 3 then beginPart s p 0 true else s

/-- A partition reset that waited for starting to end begins (R406). -/
def startWaiting (s : State) (p : Nat) : State :=
  match aget p s.parts.waiting with
  | some lcid =>
    let s := { s with parts := { s.parts with waiting := adel p s.parts.waiting } }
    if partSt s p = 3 then beginPart s p lcid false else s
  | none => s

/-- SWITCH_OFF (R399). -/
def execSwitchOff (p : PartNo) (s : State) : Host.Outcome State Fault Refusal :=
  .next (if panelReady s then partRow s p (fun t => askOff t p) 5 else s)

end Sys2Proof.Machine
end

