-- ==== Sys2Proof/Machine/Power.lean ====
section
/-!
DEFINITION. Power.lean: the power controllers of the dies: current limits and throttling (R366 to R368), droop (R369), slices
(R364, R365), modules and bumps (R370, R371), headroom and region states (R362, R363, R372), tempering (R373, R374), domain
reports (R375) and pitch phases (R376, R377).
-/
namespace Sys2Proof.Machine

open Sys2Proof

/-! ## Current limits -/

/-- Samples of the sliding mean: 5 us at 0.25 us each (R366). -/
def meanSamples : Nat := 20

/-- Take a sample into a window. -/
def sampleIn (w : List Nat) (x : Nat) : List Nat := lastN meanSamples (w ++ [x])

/-- Mean of a window. -/
def meanOf (w : List Nat) : Nat := w.sum / w.length

/-- A current limit of a cell die: 0 and 1 its regions, 2 its rail. -/
structure Limiter where
  win : List Nat
  thr : Nat
  thrAt : Nat
  limit : Nat

/-- The limiter of a scope of cell die d (R364, R366, R367). -/
def limiter (s : State) (d scope : Nat) : Limiter :=
  if scope = 2 then
    let r := rail s (siteOfDie d)
    ⟨r.win, r.thr, r.thrAt, railLimit s (siteOfDie d)⟩
  else
    let x := region s (2 * d + scope)
    ⟨x.win, x.thr, x.thrAt, regionLimit x⟩

/-- The mean exceeds the limit, or lies below 95 % of it (R367). -/
def Limiter.isOver (l : Limiter) : Bool := decide (l.limit < meanOf l.win)
def Limiter.below (l : Limiter) : Bool := decide (100 * meanOf l.win < 95 * l.limit)

/-- Set the withheld cycles of a scope. -/
def setThr (s : State) (d scope n : Nat) : State :=
  if scope = 2 then modRail s (siteOfDie d) fun r => { r with thr := n, thrAt := s.prc }
  else modRegion s (2 * d + scope) fun x => { x with thr := n, thrAt := s.prc }

/-- Throttling of a scope starts with n = 2; it is an episode, and the first since the count was zero raises pwr-limit (R367,
R368). -/
def startThrottle (s : State) (d scope : Nat) : State :=
  let l := limiter s d scope
  if l.thr ≠ 0 then s
  else
    let site := siteOfDie d
    let first : Bool := (rail s site).throttleCnt == 0
    let s := setThr s d scope 2
    let s := modRail s site fun r => { r with throttleCnt := min 0xFFFF (r.throttleCnt + 1) }
    if first then
      raise s 0x0701 (partOfDie s d) (pf 0 9 site ||| pf 9 2 (if scope = 2 then 3 else scope) ||| pf 16 16 (l.limit / 1000))
    else s

/-! ## Headroom -/

/-- Ramp allowance in mA (0x2000.06). -/
def rampAllow (s : State) : Nat := 1000 * dget s 0x2000 6

/-- An active pitch phase covers a region (R376). -/
def hinted (s : State) (r : Nat) : Bool := s.pwr.hints.any fun h => h.active && h.regions.contains r

/-- The allowance of a region is reserved: a grant or a pitch phase (R372, R376). -/
def reservedFor (s : State) (r : Nat) : Bool :=
  hinted s r || match (region s r).head with
    | .granted _ => true
    | _ => false

/-- The other region of the die. -/
def twin (r : Nat) : Nat := r / 2 * 2 + (1 - r % 2)

/-- A request fits: mean rail current, what is reserved for the other region and the ramp allowance are within the rail limit
(R372). -/
def headFits (s : State) (r : Nat) : Bool :=
  let site := siteOfRegion r
  decide (meanOf (rail s site).win + (if reservedFor s (twin r) then rampAllow s else 0) + rampAllow s ≤ railLimit s site)

/-- Grant a waiting request that fits, outside a quench (R372). -/
def grantHead (s : State) (r : Nat) : State :=
  match (region s r).head with
  | .waiting _ _ =>
    if s.pwr.quench.isNone && headFits s r then modRegion s r fun x => { x with head := .granted none } else s
  | _ => s

/-- The other region of the die waits past 200 us (R372). -/
def forced (s : State) (r : Nat) : Bool :=
  match (region s (twin r)).head with
  | .waiting _ ov => ov
  | _ => false

/-- CURRENT_SAMPLE (R366, R367): currents of the rail and the regions in mA. -/
def execCurrentSample (d : CellDie) (rail_ r0 r1 : Nat) (s : State) : Host.Outcome State Fault Refusal :=
  .next
    (let s := modRail s (siteOfDie d) fun r => { r with win := sampleIn r.win rail_ }
     let s := modRegion s (2 * d.val) fun x => { x with win := sampleIn x.win r0 }
     let s := modRegion s (2 * d.val + 1) fun x => { x with win := sampleIn x.win r1 }
     let s := [2, 0, 1].foldl (fun t k => if (limiter t d k).isOver then startThrottle t d k else t) s
     grantHead (grantHead s (2 * d.val)) (2 * d.val + 1))

/-- THROTTLE_STEP (R367): n rises every 1 us above the limit, to 7, and falls every 5 us below 95 % of it; a region whose twin
waits past 200 us is throttled on (R372). -/
def execThrottleStep (d : CellDie) (scope : Fin 3) (s : State) : Host.Outcome State Fault Refusal :=
  .next
    (let l := limiter s d scope
     let f : Bool := scope.val != 2 && forced s (2 * d.val + scope.val)
     if l.thr = 0 then s
     else if l.isOver || f then
       if l.thrAt + usTicks 1 ≤ s.prc then setThr s d scope (min 7 (l.thr + 1)) else s
     else if l.below && decide (l.thrAt + usTicks 5 ≤ s.prc) then setThr s d scope (l.thr - 1)
     else s)

/-- HEADROOM_REQUEST (R372): before its ramp a region that is to be woken asks its die's power controller. -/
def execHeadroomRequest (r : RegionNo) (s : State) : Host.Outcome State Fault Refusal :=
  .next
    (let x := region s r
     if x.wake && (x.pstate == 1 || x.pstate == 2) && x.head == .none && powered s then
       if s.pwr.quench.isNone && headFits s r then setRegion s r { x with head := .granted none }
       else
         modRail (setRegion s r { x with head := .waiting s.prc false }) (siteOfRegion r) fun y =>
           { y with deferCnt := min 0xFFFF (y.deferCnt + 1) }
     else s)

/-- HEADROOM_DEFER_TIMEOUT (R372): after 200 us the die's other region is throttled until the request fits; not in a quench. -/
def execHeadroomDeferTimeout (r : RegionNo) (s : State) : Host.Outcome State Fault Refusal :=
  .next
    (match (region s r).head with
     | .waiting t false =>
       if s.pwr.quench.isNone && decide (t + usTicks 200 ≤ s.prc) then
         let s := modRegion s r fun x => { x with head := .waiting t true }
         let s := raise s 0x0707 (partOfRegion s r) (pf 0 9 (siteOfRegion r) ||| pf 9 1 (r % 2))
         grantHead (startThrottle s (dieOfRegion r) (twin r % 2)) r
       else s
     | _ => s)

/-- HEADROOM_RELEASE (R372): 20 us after the ramp the allowance is free. -/
def execHeadroomRelease (r : RegionNo) (s : State) : Host.Outcome State Fault Refusal :=
  .next
    (match (region s r).head with
     | .granted (some t) =>
       if t + usTicks 20 ≤ s.prc then modRegion s r fun x => { x with head := .none } else s
     | _ => s)

/-- REGION_ON (R362, R372, R373): the ramp of a granted region ends and it is on. -/
def execRegionOn (r : RegionNo) (s : State) : Host.Outcome State Fault Refusal :=
  .next
    (match (region s r).head with
     | .granted none =>
       if (region s r).pstate = 1 ∨ (region s r).pstate = 2 then
         refitRail (applyFalls (modRegion s r fun x => { x with pstate := 0, wake := false, head := .granted (some s.prc) }) r)
         (siteOfRegion r)
       else s
     | _ => s)

/-! ## Leaving the on state -/

/-- Every core of a region is IDLE, without state, or has nothing on its way to it (R362, R363). -/
def regionIdle (s : State) (r : Nat) : Bool :=
  (coresOfRegion r).all fun c =>
    ((core s c).st == .idle || coreGated s c) && !(s.host.belay.any fun b => b.1 == c)

/-- A region leaves the on state: gatherers drain; off loses what Table 11.3 says is lost. Scratchpads and ring registers
stay (Table 5.8). -/
def sleepRegion (s : State) (r pstate : Nat) : State :=
  let s := modRegion s r fun x => { x with pstate := pstate, wake := false, head := .none }
  (coresOfRegion r).foldl (fun t c =>
    if coreGated t c then t
    else if pstate = 2 then
      let k := core t c
      { setCore t c { afterReset k t.fresh with rings := k.rings, eccCorr := k.eccCorr, eccLine := k.eccLine,
                                                eccUncorr := k.eccUncorr, merged := k.merged } with fresh := t.fresh + 1 }
    else modCore t c fun k => { k with gath := [] }) s

/-- RETENTION_HOLD (R363): the partition's hold, which is not 0, has passed with every core of the region IDLE. -/
def execRetentionHold (r : RegionNo) (s : State) : Host.Outcome State Fault Refusal :=
  .next
    (let p := partOfRegion s r
     if p < 16 ∧ dget s (0x6100 + p) 0x10 ≠ 0 ∧ (region s r).pstate = 0 ∧ regionIdle s r = true ∧ hinted s r = false then
       sleepRegion s r 1
     else s)

/-! ## Droop -/

/-- A drill of kind 6 has its window open on a region (Table 13.10). -/
def ldoDrill (s : State) (r : Nat) : Bool := drillWith s 6 (siteOfRegion r + 512 * (r % 2))

/-- DROOP_DETECT (R369): an episode begins; one that a drill causes does not count toward tempering (R433). -/
def execDroopDetect (r : RegionNo) (s : State) : Host.Outcome State Fault Refusal :=
  .next
    (let x := region s r
     if x.pstate = 0 ∧ x.skipping = false then
       setRegion s r { x with skipping := true, droopCnt := min 0xFFFF (x.droopCnt + 1),
                              droopMark := x.droopMark || !ldoDrill s r }
     else s)

/-- DROOP_RECOVER (R369): skipping ends after a number of skipped edges. -/
def execDroopRecover (r : RegionNo) (skipped : Nat) (s : State) : Host.Outcome State Fault Refusal :=
  .next
    (let x := region s r
     if x.skipping then setRegion s r { x with skipping := false, skipped := min (2 ^ 26 - 1) (x.skipped + skipped) } else s)

/-! ## Slices -/

/-- Isolate a slice, with the ldo-fail event (R364). -/
def isolate (s : State) (drill : Bool) (r slice : Nat) : State :=
  let s := modRegion s r fun x => { x with failed := slice :: x.failed }
  raiseD s drill 0x0702 (partOfRegion s r)
    (pf 0 9 (siteOfRegion r) ||| pf 9 1 (r % 2) ||| pf 10 4 slice ||| pf 14 5 (slicesOf (region s r)))

/-- The slice that the open drill has isolated is restored (Table 13.10). -/
def restoreSlice (s : State) : State :=
  match openDrill s, s.health.slice with
  | some (_, d), some n =>
    match drillRegion d.rec_ with
    | some r =>
      modRegion { s with health := { s.health with slice := none } } r fun x => { x with failed := x.failed.filter fun y => y != n }
    | none => s
  | _, _ => s

/-- A region goes dark: unpowered, its cores lost with cause 2 and every other position of it fenced (R365). -/
def darken (s : State) (r : Nat) : State :=
  let s := modRegion s r fun x => { x with pstate := 3, wake := false, head := .none }
  let s := raise s 0x0703 (partOfRegion s r) (pf 0 9 (siteOfRegion r) ||| pf 9 1 (r % 2))
  let s := (coresOfRegion r).foldl (fun t c => if coreGated t c then t else coreLost t c 2) s
  [2 * r, 2 * r + 1].foldl (fun t k =>
    (List.range 9).foldl (fun u p => if condOf u (16 * k + p) = 4 then u else fencePcid u (16 * k + p) 5) t) s

/-- LDO_SLICE_FAIL (R364, R365). -/
def execLdoSliceFail (r : RegionNo) (slice : Fin 16) (s : State) : Host.Outcome State Fault Refusal :=
  .next
    (if (region s r).failed.contains slice.val then s
     else
       let s := isolate s false r slice
       if slicesOf (region s r) < 12 ∧ (region s r).pstate ≠ 3 then darken s r else s)

/-! ## Modules and bumps -/

/-- A warning channel of Table 11.5 crosses its threshold, or has returned far enough: the row's number is kept while it is
raised (R378). -/
def thermalWarn (s : State) (row die : Nat) (value : Int) : State :=
  raise s 0x0709 0xFF (pf 0 4 (Config.warnChannel row).toNat ||| pf 16 9 die ||| pf 32 32 (BitVec.ofInt 32 value).toNat)

/-- A poll found phases newly out of service (R370). -/
def phaseEvents (s : State) (site old new : Nat) : State :=
  (List.range 8).foldl (fun t p =>
    if bit new p && !bit old p then
      raise t 0x0704 0xFF (pf 0 9 site ||| pf 9 3 p ||| pf 12 4 (rail t site).phases)
    else t) s

/-- A phase is newly out of service. -/
def newPhase (old new : Nat) : Bool := (List.range 8).any fun p => bit new p && !bit old p

/-- PMBUS_POLL (R370, R378, Tables 16.2 and 16.3): a reported fault is logged, then cleared at the module. The temperature is in
units of 0.125 C. -/
def execPmbusPoll (site : SiteNo) (v : PmbusReading) (s : State) : Host.Outcome State Fault Refusal :=
  .next
    (if firmwareUp s then
       let r := rail s site
       let warn : Bool := decide (880 < v.temp)
       let r' : Rail := { r with silent := false, phaseMask := v.phaseFail.toNat, modFault := v.statusFault,
                                 modWarned := if warn then true else r.modWarned && decide (864 < v.temp) }
       let s := setRail s site { r' with phasePin := decide (r'.phases ≤ 5) }
       let s := phaseEvents s site r.phaseMask v.phaseFail.toNat
       let newFault : Bool := v.statusFault && !r.modFault
       let s := if newFault then raise s 0x0705 0xFF (pf 0 9 site ||| pf 16 4 2) else s
       let s := if newFault || newPhase r.phaseMask v.phaseFail.toNat then emit s (toModule site 0x03 0) else s
       if warn && !r.modWarned then thermalWarn s 6 site v.temp else s
     else s)

/-- MODULE_TIMEOUT (R370): no answer for 100 ms; the die is treated as having 5 phases. -/
def execModuleTimeout (site : SiteNo) (s : State) : Host.Outcome State Fault Refusal :=
  .next
    (if firmwareUp s && !(rail s site).silent then
       raise (modRail s site fun r => { r with silent := true, phasePin := true }) 0x0705 0xFF (pf 0 9 site ||| pf 16 4 1)
     else s)

/-- BUMP_DROP (R371): a group's drop has exceeded twice the median for 1 s; ratio in units of 1/256. -/
def execBumpDrop (site : SiteNo) (group : Fin 64) (ratio : BitVec 16) (s : State) : Host.Outcome State Fault Refusal :=
  .next
    (let r := rail s site
     if (isMemSite site && decide (32 ≤ group.val)) || r.bumps.contains group.val || decide (ratio.toNat ≤ 512) then s
     else
       let s := setRail s site { r with bumps := r.bumps ++ [group.val] }
       recommend (raise s 0x0706 0xFF (pf 0 9 site ||| pf 9 7 group ||| pf 16 16 ratio.toNat)) 0xFF 4 0 6)

/-! ## Tempering -/

/-- Tempering is enabled, and no quench pauses it (R374, Table 11.8). -/
def tempers (s : State) : Bool := dget s 0x2000 7 == 1 && s.pwr.quench.isNone

/-- A drill runs on a region, or ended on it less than 1 s ago (Table 12.9, pair 3 x 7). -/
def drilledRegion (s : State) (r : Nat) : Bool :=
  ldoDrill s r || match aget r s.health.drillAt with
    | some t => decide (s.prc < t + secTicks)
    | none => false

/-- SLACK_SAMPLE (R373, R374): units of 0.25 % of the clock period. -/
def execSlackSample (r : RegionNo) (slack : Byte) (s : State) : Host.Outcome State Fault Refusal :=
  .next
    (let x := region s r
     if tempers s && x.pstate == 0 && !s.clk.pinned.contains (siteOfRegion r) && perturbed s r == 0 && !drilledRegion s r
       && powered s then
       setRegion s r { x with slack := some (min slack.toNat (x.slack.getD 255)) }
     else s)

/-- What the end of a period does to a region (R373): slack below 8 % or a droop raises the offset at once; above 15 % and no
droop, a fall waits for a change of step or a move to on, one for each such period. -/
def temperRegion (s : State) (r : Nat) : State :=
  let x := region s r
  let low : Bool := match x.slack with
    | some v => decide (v < 32)
    | none => false
  let high : Bool := match x.slack with
    | some v => decide (60 < v)
    | none => false
  let s := setRegion s r { x with slack := none, droopMark := false }
  if low || x.droopMark then
    if x.offset < 20 then
      let s := temperEv (modRegion s r fun y => { y with offset := y.offset + 1 }) r
      refitRail s (siteOfRegion r)
    else s
  else if high && decide (-10 < x.offset - x.falls) then modRegion s r fun y => { y with falls := y.falls + 1 }
  else s

/-- TEMPERING_PERIOD_END (R373): the period is 0x2000.08 hours of powered time. -/
def execTemperingPeriodEnd (s : State) : Host.Outcome State Fault Refusal :=
  .next
    (if tempers s && decide (s.pwr.temperEnd ≤ s.prc) && panelReady s then
       let s := (s.pwr.regions.map Prod.fst).foldl temperRegion s
       { s with pwr := { s.pwr with temperEnd := s.prc + 3600 * secTicks * dget s 0x2000 8 } }
     else s)

/-! ## Domain reports -/

/-- DOMAIN_REPORT (R375, Table 11.4): mean and highest current of the ms in mA, or the minimum voltage in 0.1 mV. -/
def execDomainReport (d : Fin 720) (mean peak : BitVec 32) (mv10 : BitVec 32) (s : State) :
    Host.Outcome State Fault Refusal :=
  .next
    (let set (r : Report) : State := { s with pwr := { s.pwr with reports := aput d r s.pwr.reports } }
     if dget s (0x2400 + d) 1 = 0 then set ⟨mean.toNat, peak.toNat, s.prc⟩
     else match aget d.val s.pwr.reports with
       | some r => if mv10.toNat < r.val then set ⟨mv10.toNat, 0, s.prc⟩ else s
       | none => set ⟨mv10.toNat, 0, s.prc⟩)

/-- The minimum of a domain starts again (R375). -/
def rearm (s : State) (d : Nat) : State := { s with pwr := { s.pwr with reports := adel d s.pwr.reports } }

/-- REPORT_REARM (R375). -/
def execReportRearm (d : Fin 720) (s : State) : Host.Outcome State Fault Refusal :=
  .next (if dget s (0x2400 + d) 1 = 1 then rearm s d else s)

/-! ## Pitch phases -/

/-- A pitch hint. -/
def findHint (s : State) (id : Nat) : Option Hint := s.pwr.hints.find? fun h => h.id == id

def modHint (s : State) (id : Nat) (f : Hint → Hint) : State :=
  { s with pwr := { s.pwr with hints := replaceFirst (fun h => h.id == id) f s.pwr.hints } }

/-- Sites of the dies of a hint's regions. -/
def hintSites (h : Hint) : List Nat := (h.regions.map siteOfRegion).eraseDups

/-- Forecast of panel power in units of 1e-7 W (R377): each covered die counts as rail limit times setpoint, times 25 to 100 %;
the others as the power given, in W. -/
def forecast (s : State) (h : Hint) (power : Nat) : Nat :=
  ((hintSites h).map fun d => railLimit s d * Rail.vset (rail s d)).sum * (h.level + 1) / 4 + power * 10 ^ 7

/-- Cap in force, in W (0x2000.02). -/
def capNow (s : State) : Nat := dget s 0x2000 2

/-- The highest step, no higher than k, at which a power scaled by the ratio of frequencies is within the cap; 0 when none is
(R377). -/
def stepWithin (f cap k0 : Nat) : Nat → Nat
  | 0 => 0
  | k + 1 => if f * stepMHz (k + 1) ≤ cap * 10 ^ 7 * stepMHz k0 then k + 1 else stepWithin f cap k0 k

/-- The forecast exceeds the cap by more than 5 %: the step falls before the phase, at 5 us before its start where the lead
allows (R377). -/
def forecastStep (s : State) (h : Hint) (power : Nat) : State :=
  let f := forecast s h power
  if f * 100 ≤ capNow s * 10 ^ 7 * 105 then s
  else
    let k := stepWithin f (capNow s) s.clk.step s.clk.step
    let s := modHint s h.id fun x => { x with ceil := some k }
    if mayArm s && decide (k < s.clk.step) then armAt s none k (h.start - usTicks 5) else s

/-- The regions of a hint that sleep are woken, and remembered (R376). -/
def wakeHint (s : State) (h : Hint) : State :=
  let asleep := h.regions.filterMap fun r =>
    if (region s r).pstate = 1 ∨ (region s r).pstate = 2 then some (r, (region s r).pstate) else none
  asleep.foldl (fun t x => wakeRegion t x.1) (modHint s h.id fun x => { x with active := true, woken := asleep })

/-- PITCH_PHASE_START (R376, R377): from 50 us before the phase; power is the present power of the dies not covered, in W. -/
def execPitchPhaseStart (hint : Nat) (power : Nat) (s : State) : Host.Outcome State Fault Refusal :=
  .next
    (match findHint s hint with
     | some h =>
       if h.active = false ∧ h.start ≤ s.prc + usTicks 50 ∧ s.pwr.quench = none ∧ powered s = true then
         let s := wakeHint s h
         let s := (hintSites h).foldl (fun t d =>
           refitRail (setShed t d true) d) s
         forecastStep s h power
       else s
     | none => s)

/-- A region that a hint woke goes back to its state, once idle and covered by no other hint (R362, R376). -/
def unwake (s : State) (x : Nat × Nat) : State :=
  if (region s x.1).pstate = 0 then (if regionIdle s x.1 && !hinted s x.1 then sleepRegion s x.1 x.2 else s)
  else if hinted s x.1 then s
  else modRegion s x.1 fun y => { y with wake := false, head := .none }

/-- PITCH_PHASE_END (R376): the four things are undone. -/
def execPitchPhaseEnd (hint : Nat) (s : State) : Host.Outcome State Fault Refusal :=
  .next
    (match findHint s hint with
     | some h =>
       if h.stop ≤ s.prc then
         let s := { s with pwr := { s.pwr with hints := s.pwr.hints.filter fun x => x.id != hint } }
         let s := (hintSites h).foldl (fun t d =>
           if t.pwr.hints.any (fun x => x.active && (hintSites x).contains d) then t
           else refitRail (setShed t d false) d) s
         h.woken.foldl unwake s
       else s
     | none => s)

end Sys2Proof.Machine
end

