-- ==== Sys2Proof/Machine/Thermal.lean ====
section
/-!
DEFINITION. Thermal.lean: the tray hub and its channels (R378, R379, R500 to R502), the panel cap and step control (R380, R381),
heartbeats (R381, R425, R426), the dies' ladder and the trip (R382, R383), the quench (R384 to R386), and the loss of power
(R495, R498).
-/
namespace Sys2Proof.Machine

open Sys2Proof

/-! ## Perturbation registers return to neutral -/

/-- Sub-index of a perturbation register: 1 RTR_PERT, 2 PWR_PERT, 3 LNK_PERT (Table 13.15). -/
def pertSub (reg : Nat) : Nat := reg + 1

/-- The perturb event (Table 13.13). -/
def perturbEv (s : State) (drill : Bool) (die reg : Nat) (active : Bool) : State :=
  raiseD s drill 0x090B 0xFF (pf 0 9 die ||| pf 9 2 reg ||| pf 11 1 (boolBit active))

/-- A perturbation register returns to neutral, with its event when it was away (R434). -/
def neutral (s : State) (drill : Bool) (die reg : Nat) : State :=
  let s := { s with health := { s.health with pertAt := adel (3 * die + reg) s.health.pertAt } }
  if dget s (0x7800 + die) (pertSub reg) = 0 then s
  else
    let s := perturbEv (dset s (0x7800 + die) (pertSub reg) 0) drill die reg false
    if reg = 1 then refitRail s die else s

/-- Every perturbation register returns to neutral (R434). -/
def neutralAll (s : State) (drill : Bool) : State :=
  (s.health.pertAt.map Prod.fst).foldl (fun t k => neutral t drill (k / 3) (k % 3)) s

/-! ## The quench -/

/-- Nominal flow in force, in units of 2^-23 L/min: the entry lies between 12 and 30 (Table 11.12). -/
def nominalFlow (s : State) : Nat :=
  let v := s.pwr.limits.flow.toNat
  (2 ^ 23 + bits v 22 0) * 2 ^ (bits v 30 23 - 127)

/-- A flow in 0.01 L/min lies below a percentage of nominal flow. -/
def belowPct (s : State) (flow pct : Nat) : Bool := decide (flow * 2 ^ 23 < pct * nominalFlow s)

/-- Hottest die sensor, in 0.125 C (R380). -/
def hottest (s : State) : Int := s.pwr.rails.foldl (fun m e => max m e.2.temp) 0

/-- Since when the conditions of R386 for lifting a quench, and for raising the step after it, have held. -/
def quenchWatch (s : State) : State :=
  let at_ (ok : Bool) (t : Option Nat) : Option Nat := if ok then some (t.getD s.prc) else none
  let lift : Bool := match s.pwr.flow with
    | some f => !belowPct s f 50 && decide (hottest s < 720)
    | none => false
  let rise : Bool := match s.pwr.flow with
    | some f => !belowPct s f 80
    | none => false
  { s with pwr := { s.pwr with liftSince := at_ lift s.pwr.liftSince, riseSince := at_ rise s.pwr.riseSince } }

/-- A quench starts (R385, Table 11.7): its change is armed, matrix issue pauses, the quench event is raised, and every
perturbation register returns to neutral (R434). -/
def startQuench (s : State) (drill : Bool) (cause : Nat) : State :=
  if s.pwr.quench.isSome then s
  else
    let s := { s with pwr := { s.pwr with quench := some s.prc, quenchDrill := drill, liftSince := none, riseSince := none } }
    let s := armQuench s
    let s := { s with clk := { s.clk with paused := true } }
    let s := raiseD s drill 0x070D 0xFF (pf 0 2 cause ||| pf 32 32 (s.pwr.flow.getD 0))
    quenchWatch (neutralAll s drill)

/-- Deferred headroom requests wait from now on (R372). -/
def headsFrom (s : State) : State :=
  { s with pwr := { s.pwr with regions := s.pwr.regions.map fun e => match e.2.head with
      | .waiting _ o => (e.1, { e.2 with head := .waiting s.prc o })
      | _ => e } }

/-- QUENCH_LIFTED (R386): after 5 s of flow at or above 50 % and every die below 90 C, matrix issue resumes at once. -/
def execQuenchLifted (s : State) : Host.Outcome State Fault Refusal :=
  .next
    (match s.pwr.quench, s.pwr.liftSince with
     | some t, some l =>
       if l + 5 * secTicks ≤ s.prc then
         let d := s.pwr.quenchDrill
         let s := { s with pwr := { s.pwr with quench := none, quenchDrill := false, slowRise := true, lastRise := s.prc },
                           clk := { s.clk with paused := false } }
         let s := (s.cores.map Prod.fst).foldl (fun u c => runMatrix (core u c).mat.queue.length u c) (headsFrom s)
         raiseD s d 0x070E 0xFF (pf 32 32 (ticksMs (s.prc - t)))
       else s
     | _, _ => s)

/-! ## The tray hub -/

/-- A reading of the hub's four. -/
def hubFresh (s : State) (b : HubBlock) : Bool :=
  b.seq.toNat != s.tray.seq || decide (s.prc < s.tray.seqAt + usTicks 50000)

/-- Warning of a hub channel: raised once above its threshold, again only after the value has come back (R378). Rows 0 inlet,
1 outlet, 3 plate of Table 11.5. -/
def hubWarn (s : State) (row : Nat) (v : Option Int) (limit : Int) : State :=
  match v with
  | none => s
  | some t =>
    if limit < t then
      if s.pwr.warned.contains row then s
      else thermalWarn { s with pwr := { s.pwr with warned := row :: s.pwr.warned } } row (Config.warnDie row).toNat t
    else if t ≤ limit - 16 then { s with pwr := { s.pwr with warned := s.pwr.warned.filter fun x => x != row } }
    else s

/-- Coolant warning below 80 % of nominal flow, again only after 85 % (R378, R384). -/
def flowWarn (s : State) : State :=
  match s.pwr.flow with
  | none => s
  | some f =>
    if belowPct s f 80 then
      if s.pwr.warned.contains 2 then s
      else raise { s with pwr := { s.pwr with warned := 2 :: s.pwr.warned } } 0x070C 0xFF (pf 0 32 f)
    else if belowPct s f 85 then s
    else { s with pwr := { s.pwr with warned := s.pwr.warned.filter fun x => x != 2 } }

/-- Flow has fallen by more than 3 % of nominal within the last 100 ms (R384). -/
def fastFall (s : State) (f : Nat) : Bool :=
  s.pwr.flowHist.any fun e => decide (s.prc ≤ e.1 + usTicks 100000) && decide (3 * nominalFlow s < (e.2 - f) * 2 ^ 23)

/-- The quench triggers of R384 at a sample. -/
def flowTriggers (s : State) : State :=
  match s.pwr.flow with
  | none => s
  | some f =>
    if powered s = false then s
    else if belowPct s f 20 then startQuench s false 0
    else if fastFall s f then startQuench s false 1
    else s

/-- Since when a reading has been invalid (R502). -/
def badSince (s : State) (ok : Bool) (t : Option Nat) : Option Nat := if ok then none else some (t.getD s.prc)

/-- What the readings of a sample change: entries, invalid spans, the end of tray-lost (R379, R502). -/
def takeReadings (s : State) (i o p : Option Int) (f : Option Nat) : State :=
  let s := { s with
    tray := { s.tray with valid := i.isSome && o.isSome && p.isSome && f.isSome,
                          outletBad := badSince s o.isSome s.tray.outletBad, plateBad := badSince s p.isSome s.tray.plateBad,
                          flowBad := badSince s f.isSome s.tray.flowBad },
    pwr := { s.pwr with inlet := i, outlet := o, plate := p, flow := f, hubPrc := s.prc,
                        trayLost := s.pwr.trayLost && !(o.isSome && p.isSome && f.isSome) } }
  let s := hubWarn s 0 i 320
  let s := hubWarn s 1 o (8 * s.pwr.limits.outlet)
  let s := flowWarn (hubWarn s 3 p (8 * s.pwr.limits.plate))
  let s := quenchWatch (flowTriggers s)
  match f with
  | some v =>
    { s with pwr := { s.pwr with
        flowHist := (s.pwr.flowHist.filter fun e => decide (s.prc ≤ e.1 + usTicks 100000)) ++ [(s.prc, v)] } }
  | none => s

/-- A reading that counts. -/
def reading {α : Type} (ok : Bool) (v : α) : Option α := if ok then some v else none

/-- HUB_SAMPLE (R501, R502): base-camp firmware reads the block; none is a read that fails. A locked-out tray-bus master gets no
reading (Table 14.12), and one whose turn the monitor has taken waits (R471). -/
def execHubSample (b : Option HubBlock) (s : State) : Host.Outcome State Fault Refusal :=
  .next
    (if firmwareUp s && s.tray.assigned then
       if s.mgmt.bus.taken then waitBus s 4
       else if bit (dget s 0x8030 2) 4 then takeReadings s none none none none
       else match b with
         | none => takeReadings { s with tray := { s.tray with errs := min 255 (s.tray.errs + 1) } } none none none none
         | some x =>
           if x.ver ≠ 1 then takeReadings s none none none none
           else
             let live := hubFresh s x
             let s := if x.seq.toNat = s.tray.seq then s
               else { s with tray := { s.tray with seq := x.seq.toNat, seqAt := s.prc } }
             takeReadings s (reading (x.inletOk && live) x.inlet.toInt) (reading (x.outletOk && live) x.outlet.toInt)
               (reading (x.plateOk && live) x.plate.toInt) (reading (x.flowOk && live) x.flow.toNat)
     else s)

/-! ## The cap -/

/-- A new cap; a change of more than 2 % raises cap-change with its cause (R380, Table 11.9). -/
def setCap (s : State) (cap cause : Nat) : State :=
  let s := dset s 0x2000 2 cap
  let o := s.pwr.capReported
  if 2 * o < 100 * (cap - o) + 100 * (o - cap) then
    raise { s with pwr := { s.pwr with capReported := cap } } 0x070B 0xFF (pf 0 32 cap ||| pf 32 4 cause)
  else s

/-- TRAY_LOST (R379, R502): outlet, flow or plate invalid for 1 s puts the cap at half the power limit. -/
def execTrayLost (s : State) : Host.Outcome State Fault Refusal :=
  .next
    (let due (t : Option Nat) : Bool := match t with
       | some x => decide (x + secTicks ≤ s.prc)
       | none => false
     if !s.pwr.trayLost && (due s.tray.outletBad || due s.tray.flowBad || due s.tray.plateBad) then
       let s := raise { s with pwr := { s.pwr with trayLost := true } } 0x0710 0xFF 0
       setCap s (s.pwr.limits.power / 2) 5
     else s)

/-- Settings of Table 15.4 that act at a cap update. -/
def takeLimits (s : State) : State :=
  { s with pwr := { s.pwr with limits := { s.pwr.limits with
      power := dget s 0x2000 1, flow := BitVec.ofNat 32 (dget s 0x3010 1), outlet := dget s 0x3010 5,
      plate := dget s 0x3010 6, target := dget s 0x3010 7 } } }

/-- A fraction in lowest terms. -/
def lowest (n : Int) (d : Nat) : Int × Nat := (n / (Nat.gcd n.natAbs d : Nat), d / Nat.gcd n.natAbs d)

/-- The estimate moves toward the sample (Tmax - Tinlet) / P by 1 % of the difference; without an inlet reading it stays
(R380, R502). -/
def nextRth (s : State) (power : Nat) : Int × Nat :=
  match s.pwr.inlet with
  | none => s.pwr.rth
  | some t =>
    let x : Int × Nat := if power = 0 then ((Config.rthAtZero s.fresh).toNat, 10 ^ 6) else (hottest s - t, 8 * power)
    lowest (99 * s.pwr.rth.1 * x.2 + x.1 * s.pwr.rth.2) (100 * s.pwr.rth.2 * x.2)

/-- Thermal cap in W: (Ttarget - Tinlet) / estimate, with an inlet of 40 C when it has no reading (R380, R502). The manual gives
no value for an estimate of zero or less. -/
def thermalCap (s : State) : Nat :=
  if s.pwr.rth.1 ≤ 0 then (Config.capAtZero s.fresh).toNat
  else ((8 * (s.pwr.limits.target : Int) - s.pwr.inlet.getD 320) * s.pwr.rth.2 / (8 * s.pwr.rth.1)).toNat

/-- Flow cap in W: power limit x min(1, flow / (0.8 x nominal)); without a reading, the newest of the last 100 ms, else no
bound (R380). -/
def flowCap (s : State) : Nat :=
  match s.pwr.flow <|> (s.pwr.flowHist.getLast?.map Prod.snd) with
  | none => s.pwr.limits.power
  | some f => min s.pwr.limits.power (s.pwr.limits.power * f * 2 ^ 23 / (80 * nominalFlow s))

/-- Outlet or plate cap after 100 ms, in mW: 2 % of the power limit a second down while above the limit, 1 % up while at least
2 C below it (R380). -/
def nextSideCap (cap power : Nat) (v : Option Int) (limit : Int) : Nat :=
  match v with
  | none => cap
  | some t =>
    if limit < t then cap - 2 * power
    else if t ≤ limit - 16 then min (1000 * power) (cap + power)
    else cap

/-- The cap of R380 with its cause: the power limit when nothing lies below it, else the first of the least. -/
def capOf (s : State) (th : Nat) : Nat × Nat :=
  let fl := flowCap s
  let ou := s.pwr.outletCap / 1000
  let pl := s.pwr.plateCap / 1000
  let m := min (min th fl) (min ou pl)
  if s.pwr.limits.power ≤ m then (s.pwr.limits.power, 4)
  else (m, if th = m then 0 else if fl = m then 1 else if ou = m then 2 else 3)

/-- CAP_UPDATE (R380): every 100 ms, with the panel power of the last 100 ms in W. -/
def execCapUpdate (power : Nat) (s : State) : Host.Outcome State Fault Refusal :=
  .next
    (if firmwareUp s && powered s then
       let s := dset (takeLimits s) 0x2000 3 power
       let pw := s.pwr.limits.power
       let s := { s with pwr := { s.pwr with
         rth := nextRth s power,
         outletCap := nextSideCap (min s.pwr.outletCap (1000 * pw)) pw s.pwr.outlet (8 * s.pwr.limits.outlet),
         plateCap := nextSideCap (min s.pwr.plateCap (1000 * pw)) pw s.pwr.plate (8 * s.pwr.limits.plate) } }
       let th := thermalCap s
       let s := { dset s 0x3000 6 (min th (2 ^ 32 - 1)) with fresh := s.fresh + 1 }
       if s.pwr.trayLost then setCap s (pw / 2) 5 else setCap s (capOf s th).1 (capOf s th).2
     else s)

/-! ## Step control -/

/-- Highest step that settings and pitch phases allow (R377, R381, Table 11.8). -/
def stepCeil (s : State) : Nat := s.pwr.hints.foldl (fun n h => min n (h.ceil.getD n)) s.pwr.limits.step

/-- The step may rise by one: power below 90 % of the cap and, scaled by the ratio of frequencies, below 97 % (R381). -/
def mayRise (s : State) (power : Nat) : Bool :=
  let k := s.clk.step
  let cap := capNow s
  decide (k < stepCeil s) && decide (100 * power < 90 * cap)
    && decide (100 * power * stepMHz (k + 1) < 97 * cap * stepMHz k)

/-- STEP_CONTROL (R381): every 100 ms, with the panel power in W. -/
def execStepControl (power : Nat) (s : State) : Host.Outcome State Fault Refusal :=
  .next
    (if firmwareUp s && powered s then
       let s := { s with pwr := { s.pwr with limits := { s.pwr.limits with step := dget s 0x4000 3 } } }
       let k := s.clk.step
       if mayArm s = false ∨ s.pwr.quench.isSome = true then s
       else if stepCeil s < k then armChange s none (stepCeil s)
       else if capNow s < power then (if k = 0 then s else armChange s none (k - 1))
       else if mayRise s power && slowOk s then
         armRise s (k + 1)
       else s
     else s)

/-! ## Heartbeats -/

/-- Cores of a die that a heartbeat reports as not answering, counted in a row (R426). -/
def countSilent (s : State) (d : Nat) (silent : List Nat) : State :=
  let old := s.health.silent
  let rest := old.filter fun e => e.1 / 64 != d
  let new := (silent.filter fun p => p / 64 == d).eraseDups
  { s with health := { s.health with silent := new.foldl (fun t p => aput p (agetD p 0 old + 1) t) rest } }

/-- Count that a core's progress bit watches (R425): the event counter that its partition names, or with 0xFF the dispatching
cycles. -/
def progressCount (s : State) (c : Nat) : Nat :=
  let k := core s c
  let n := dget s (0x7100 + partOfCore s c) 1
  if partOfCore s c = 0xFF ∨ n = 0xFF then k.cyc - k.stall else (k.ev n).toNat

/-- The progress bit of a core in a heartbeat: set, the core's count has changed, and its episode of no progress is over (R425,
R427). -/
def takeProgress (s : State) (c : Nat) : State :=
  let n := progressCount s c
  let same : Bool := match aget c s.health.progress with
    | some x => x.1 == n
    | none => false
  if same then s
  else { s with health := { s.health with progress := aput c (n, s.prc) s.health.progress,
                                          episodes := s.health.episodes.filter fun e => e != c } }

/-- Cores of a die that its heartbeat carries in a task. -/
def beatCores (s : State) (site : Nat) (silent : List Nat) : List Nat :=
  (s.cores.map Prod.fst).filter fun c =>
    siteOfDie (dieOfCore c) == site && inTask (core s c) && !silent.contains (pcidOf s c)

/-- A heartbeat has come: what was missing answers, and its probes are over (R426); an episode of kind 2 ends. -/
def takeBeat (s : State) (site : Nat) (silent : List Nat) : State :=
  let still (k : Nat) : Bool := silent.contains k || !(k == 16384 + site || (decide (k < 16384) && siteOfDie (k / 64) == site))
  { s with health := { s.health with
      missed := adel site s.health.missed, beatAt := aput site s.prc s.health.beatAt,
      probes := s.health.probes.filter (fun e => still e.1),
      episodes := s.health.episodes.filter fun e => e != 8192 + site } }

/-- HEARTBEAT (R381, R425, R426): of any die; a cell die's carries the mean rail power of the millisecond in mW, and for each
core its task state and progress, or that it does not answer. -/
def execHeartbeat (d : DieNo) (milliwatts : Nat) (silent : List (BitVec 14)) (s : State) :
    Host.Outcome State Fault Refusal :=
  .next
    (let site := d.val
     if powered s && !s.health.lostDies.contains site then
       let mute := silent.map BitVec.toNat
       let s := if site < 240 then modRail s site fun r => { r with beat := milliwatts } else s
       let s := takeBeat s site mute
       let s := (beatCores s site mute).foldl takeProgress s
       let s := if decide (site < 240) && !isMemSite site then countSilent s (dieOfSite site) mute else s
       let sum := (s.pwr.rails.map fun e => if isMemSite e.1 then 0 else e.2.beat).sum
       let cap := 1000 * capNow s
       { s with pwr := { s.pwr with share := if cap < sum then 120000 * cap / sum else 120000 } }
     else s)

/-! ## Die temperature -/

/-- The die-pin event (Table 11.9). -/
def diePinEv (s : State) (site : Nat) (pinned : Bool) (temp : Int) : State :=
  raise s 0x070A 0xFF (pf 0 9 site ||| pf 9 1 (boolBit pinned) ||| pf 16 16 (BitVec.ofInt 16 temp).toNat)

/-- Regions of a die. -/
def regionsOfSite (site : Nat) : List Nat :=
  if isMemSite site then [] else [2 * dieOfSite site, 2 * dieOfSite site + 1]

/-- Idle regions of a pinned die go to off (Table 11.6). -/
def coolRegions (s : State) (site : Nat) : State :=
  (regionsOfSite site).foldl (fun t r =>
    if decide ((region t r).pstate ≤ 1) && regionIdle t r then sleepRegion t r 2 else t) s

/-- DIE_SENSOR_SAMPLE (R382, Table 11.6): hottest sensor of a die, in 0.125 C. -/
def execDieSensorSample (site : SiteNo) (temp : Int) (s : State) : Host.Outcome State Fault Refusal :=
  .next
    (if powered s then
       let r := rail s site
       let hot : Option Nat := if 800 < temp then some (r.hotSince.getD s.prc) else none
       let pin : Bool := match hot with
         | some t => !r.hotPin && decide (t + usTicks 1000 ≤ s.prc)
         | none => false
       let pinned : Bool := r.hotPin || pin || s.clk.pinned.contains site.val
       let warn : Bool := decide (760 < temp)
       let r' : Rail := { r with
         temp := temp, warned := if warn then true else r.warned && decide (744 < temp), hotSince := hot,
         hotPin := r.hotPin || pin, hotThr := if 840 < temp then pinned else r.hotThr && decide (800 ≤ temp),
         coolSince := if temp < 736 ∧ (r.hotPin || pin) = true then some (r.coolSince.getD s.prc) else none }
       let s := setRail s site r'
       let s := if warn && !r.warned then thermalWarn s 4 site temp else s
       let s := if pin then diePinEv (coolRegions s site) site true temp else s
       quenchWatch s
     else s)

/-- DIE_UNPIN (R382): after 1 s below 92 C; not in a quench (Table 11.8). -/
def execDieUnpin (site : SiteNo) (s : State) : Host.Outcome State Fault Refusal :=
  .next
    (let r := rail s site
     match r.coolSince with
     | some t =>
       if r.hotPin && s.pwr.quench.isNone && decide (t + secTicks ≤ s.prc) then
         diePinEv (setRail s site { r with hotPin := false, hotThr := false, coolSince := none }) site false r.temp
       else s
     | none => s)

/-! ## Loss of power -/

/-- Every module enable and rim rail drops: what the grid and the rim held in flight is gone (R383, R495, R498). -/
def dropPower (s : State) : State :=
  { s with tray := { s.tray with latch := true },
           fab := { s.fab with net := [], slots := [], mslots := [], tombs := [], msgs := [], closed := [], drilled := [] },
           links := { s.links with links := [] },
           host := { s.host with qps := [], ins := [], crings := [], erings := [], cmds := [], belay := [] } }

/-- THERMAL_TRIP (R383, R498): a comparator above 115 C pulls TRIP_N low; base-camp firmware records the die. -/
def execThermalTrip (d : DieNo) (temp : Int) (s : State) : Host.Outcome State Fault Refusal :=
  .next
    (if powered s && decide (920 < temp) then
       let t := dropPower s
       { t with tray := { t.tray with tripN := false, tripSeen := true }, pwr := { t.pwr with trip := some (d.val, temp) } }
     else s)

/-- STBY_OK_FALL (R498): the latch is set and the enables drop. -/
def execStbyOkFall (s : State) : Host.Outcome State Fault Refusal :=
  .next (let t := dropPower s; { t with tray := { t.tray with stbyOk := false } })

/-- Module-fault kind 2 for every module, each logged and its faults cleared (R495, Table 16.2). -/
def undervoltEvents (s : State) : State :=
  (List.range 240).foldl (fun t m =>
    emit (raise (modRail t m fun r => { r with modFault := true }) 0x0705 0xFF (pf 0 9 m ||| pf 16 4 2)) (toModule m 0x03 0)) s

/-- BUS_UNDERVOLTAGE (R495): the bus has stayed below 46 V for 100 us. -/
def execBusUndervoltage (s : State) : Host.Outcome State Fault Refusal :=
  .next (let t := dropPower s; if firmwareUp s then undervoltEvents t else t)

end Sys2Proof.Machine
end

