-- ==== Sys2Proof/Machine/Parts.lean ====
section
/-!
DEFINITION. Parts.lean: partitions (R397 to R400, Table 12.5): definition, switching on with scrub and fill (R180, R237), and
deletion.
-/
namespace Sys2Proof.Machine

open Sys2Proof

/-! ## Definition -/

/-- Columns and rows of a rectangle word (Table 12.11). -/
def rectC0 (v : Nat) : Nat := bits v 7 0
def rectR0 (v : Nat) : Nat := bits v 15 8
def rectC1 (v : Nat) : Nat := bits v 23 16
def rectR1 (v : Nat) : Nat := bits v 31 24

/-- Two rectangles share a place. -/
def rectsMeet (a b : Nat) : Bool :=
  decide (rectC0 a ≤ rectC1 b) && decide (rectC0 b ≤ rectC1 a) && decide (rectR0 a ≤ rectR1 b)
    && decide (rectR0 b ≤ rectR1 a)

/-- The rectangle holds a cell die. -/
def rectHasDie (v : Nat) : Bool :=
  (List.range 240).any fun t => !isMemSite t && decide (rectC0 v ≤ siteCol t) && decide (siteCol t ≤ rectC1 v)
    && decide (rectR0 v ≤ siteRow t) && decide (siteRow t ≤ rectR1 v)

/-- Partitions that are defined. -/
def definedParts (s : State) : List Nat := (List.range 16).filter fun p => partSt s p != 0

/-- The rules of R397 for a rectangle. -/
def rectOk (s : State) (p v : Nat) : Bool :=
  decide (rectC0 v ≤ rectC1 v) && decide (rectR0 v ≤ rectR1 v) && decide (rectC1 v ≤ 19) && decide (rectR1 v ≤ 11)
    && rectHasDie v
    && (definedParts s).all fun q => q == p || !hasRect s q || !rectsMeet v (dget s (0x6100 + q) 2)

/-- The rules of R397 for a site mask: not zero, no site owned by another partition or failed. -/
def sitesOk (s : State) (p v : Nat) : Bool :=
  v != 0 && (List.range 16).all fun m =>
    !bit v m || ((ownerOfSite s m == p || ownerOfSite s m == 0xFF) && !s.health.lostSites.contains m)

/-- A definition write is accepted (R397, R398, R451): undefined or off, within the licence's partitions. -/
def defineOk (s : State) (p : Nat) (f : PartField) : Bool :=
  decide (partSt s p ≤ 1) && (partSt s p == 1 || decide ((definedParts s).length < partsMax s))
    && match f with
      | .rect v => rectOk s p v.toNat
      | .sites v => sitesOk s p v.toNat
      | .owner _ => true

/-- Memory sites take their owner from the mask (R236). -/
def setOwners (s : State) (p mask : Nat) : State :=
  (List.range 16).foldl (fun t m =>
    if bit mask m then dset t (0xA100 + m) 3 p
    else if ownerOfSite t m = p then dset t (0xA100 + m) 3 0xFF
    else t) s

/-- An accepted definition write; the first takes the partition to off (R398). -/
def define (s : State) (p : Nat) (f : PartField) : State :=
  let s := match f with
    | .rect v => dset s (0x6100 + p) 2 v.toNat
    | .sites v => setOwners (dset s (0x6100 + p) 3 v.toNat) p v.toNat
    | .owner v => dset s (0x6100 + p) 4 v.toNat
  if partSt s p = 0 then setPart s p 1 else s

/-- PARTITION_DEFINE (R397). -/
def execPartitionDefine (p : PartNo) (f : PartField) (s : State) : Host.Outcome State Fault Refusal :=
  .next (if defineOk s p f then define s p f else s)

/-! ## Switching on -/

/-- Dies, and sites under 256 + m, of a partition whose last owner differs (R399). -/
def handedOver (s : State) (p : Nat) : List Nat :=
  (diesOfPart s p ++ (sitesOf s p).map (256 + ·)).filter fun k => aget k s.parts.owners != some (ownerKey s p)

/-- A partition may be switched on: off, defined whole, with no failed site (R397, Tables 12.3 and 12.5). -/
def mayStart (s : State) (p : Nat) : Bool :=
  partSt s p == 1 && hasRect s p && !(sitesOf s p).isEmpty && (sitesOf s p).all fun m => !s.health.lostSites.contains m

/-- Switching on begins: what changes owner is scrubbed or filled, the salt is new and the QPs fail when anything does, and
regions that are off are woken (R295, R298, R399). -/
def startPart (s : State) (p : Nat) : State :=
  let h := handedOver s p
  let s := setPart s p 2
  let s := if h.isEmpty then s
    else qpsFail { s with parts := { s.parts with scrub := s.parts.scrub ++ h },
                          host := { s.host with salts := aput p (s.fresh + 16) s.host.salts }, fresh := s.fresh + 1 } p
  (regionsOfPart s p).foldl wakeRegion s

/-- Switch-on in bivouac state is refused with mode-conflict (Table 12.9, pair 1 x 6). -/
def askOn (s : State) (p : Nat) : State :=
  if mayStart s p then (if inBivouac s then modeConflict s 6 1 p else if panelReady s then startPart s p else s) else s

/-- SWITCH_ON (R399). -/
def execSwitchOn (p : PartNo) (s : State) : Host.Outcome State Fault Refusal := .next (askOn s p)

/-- A position whose scrub fails its read-back check is fenced, with the core-lost event of cause 4 (R180, R415). -/
def scrubLost (s : State) (pcid : Nat) : State :=
  if condOf s pcid = 4 then s
  else match coreOfPcid s pcid with
    | some c => coreLost s c 4
    | none =>
      let t := raise s 0x0901 (partOfPcid s pcid)
        (pf 0 13 (Config.spareLcid pcid).toNat ||| pf 13 4 (pcid % 16) ||| pf 20 4 4)
      fencePcid t pcid 5

/-- A die is scrubbed (R179, R180). -/
def scrubDie (s : State) (d : Nat) : State := (List.range 32).foldl (fun t k => scrubCore t (32 * d + k)) s

/-- A stack is filled with zeros (R237). -/
def fillSite (s : State) (m : Nat) : State := { s with hbm := memZero s.hbm (m * 2 ^ 36) (2 ^ 36) }

/-- PARTITION_STARTED (R180, R237, R398, R399): scrubs and fills are done; the partition is on, and a reset that waits for it
begins (R406). -/
def execPartitionStarted (p : PartNo) (scrubFailed : List (BitVec 14)) (s : State) : Host.Outcome State Fault Refusal :=
  .next
    (if partSt s p = 2 then
       let ds := (diesOfPart s p).filter fun d => s.parts.scrub.contains d
       let ms := (sitesOf s p).filter fun m => s.parts.scrub.contains (256 + m)
       let s := ms.foldl fillSite (ds.foldl scrubDie s)
       let s := { s with parts := { s.parts with scrub := s.parts.scrub.filter fun k =>
           !(ds.contains k || ms.contains (k - 256) && decide (256 ≤ k)) } }
       let s := (scrubFailed.filter fun x => ds.contains (x.toNat / 64)).foldl (fun t x => scrubLost t x.toNat) s
       let s := { s with parts := { s.parts with
         owners := (diesOfPart s p ++ (sitesOf s p).map (256 + ·)).foldl (fun t k => aput k (ownerKey s p) t) s.parts.owners } }
       startWaiting (setPart s p 3) p
     else s)

/-! ## Deletion -/

/-- A partition that is off becomes undefined: dies and sites have owner none (R398, R400). -/
def deletePart (s : State) (p : Nat) : State :=
  if partSt s p ≠ 1 then s
  else
    let keys := diesOfPart s p ++ (sitesOf s p).map (256 + ·)
    let s := setOwners (qpsFail s p) p 0
    let s := { s with parts := { s.parts with owners := s.parts.owners.filter fun e => !keys.contains e.1 },
                      dict := adel (cairnSlot (0x6100 + p) 2) (adel (cairnSlot (0x6100 + p) 3)
                        (adel (cairnSlot (0x6100 + p) 4) s.dict)) }
    setPart s p 0

/-- DELETE (R400). -/
def execDelete (p : PartNo) (s : State) : Host.Outcome State Fault Refusal := .next (deletePart s p)

end Sys2Proof.Machine
end

