-- ==== Sys2Proof/Machine/Boot.lean ====
section
/-!
DEFINITION. Boot.lean: the full panel resets: cold boot (R390 to R393, R441 to R446, R454, Table 12.1), warm panel reset (R394,
Table 12.2), and the topology check (R395, R396, Tables 12.3 and 12.4). One command runs the steps up to the training of
the links; where links train, the next one of its kind runs the rest (log 12).
-/
namespace Sys2Proof.Machine

open Sys2Proof

/-! ## Keeping classes (R482, Table 15.3) -/

/-- Entries restored at every full panel reset. -/
def resetClass (slot : Nat) : Bool :=
  let i := slot / 256
  let j := slot % 256
  let fam (b n : Nat) : Bool := decide (b ≤ i) && decide (i < b + n)
  fam 0x2100 240 || fam 0x4100 267 || fam 0x5300 240 || fam 0x5400 27 || (fam 0x5900 96 && j == 2)
    || (fam 0x5A00 24 && j == 1) || (fam 0x6100 16 && (j == 13 || j == 14)) || (fam 0x6880 128 && j == 5)
    || (fam 0x6900 128 && j == 9) || fam 0x7080 8 || fam 0x7800 267 || (fam 0xA100 16 && (j == 2 || j == 4))

/-- Entries restored at a cold boot only. -/
def baseClass (slot : Nat) : Bool :=
  let i := slot / 256
  let j := slot % 256
  i == 0x7010 || (i == 0x8000 && decide (6 ≤ j)) || (i == 0x8030 && (j == 2 || j == 3)) || i == 0x8100 || i == 0x8200
    || (i == 0x9000 && (j == 1 || j == 3 || j == 6))

/-- Entries that report live values restart at a cold boot; the owners of memory sites are of the saved partition table. -/
def liveEntry (slot : Nat) : Bool :=
  match cairnRow (slot / 256) (slot % 256) with
  | some r => r.acc == .ro && !(slot / 4096 == 0xA10 && slot % 256 == 3)
  | none => true

/-- Entries kept by a warm panel reset, and by a cold boot. -/
def warmDict (t : Assoc Nat) : Assoc Nat := t.filter fun e => !resetClass e.1
def coldDict (t : Assoc Nat) : Assoc Nat := t.filter fun e => !resetClass e.1 && !baseClass e.1 && !liveEntry e.1

/-! ## Steps -/

/-- The panel stops short of ready: the ROM has started nothing, boot halt, or bivouac (R391, R442, R444). -/
def bootStopped (s : State) : Bool := s.mgmt.romHalt.isSome || s.parts.halt || inBivouac s

/-- Run a step unless the sequence has stopped. -/
def bootThen (s : State) (f : State → State) : State := if bootStopped s then s else f s

/-- A step of Table 12.1 or 12.2 is complete (R390). -/
def stage (warm : Bool) (n : Nat) (s : State) : State :=
  if bootStopped s then s
  else raise (dset s 0x6000 2 n) 0x0801 0xFF (pf 0 4 n ||| pf 4 1 (boolBit warm))

/-- Stop with a cause of R442: 1 both slots, 2 the PUF secret, 3 a floor. -/
def romStop (s : State) (o : BootObs) (cause : Nat) : State :=
  { s with mgmt := { s.mgmt with romHalt := some cause, running := [] }, parts := { s.parts with booting := some (false, o) } }

/-- The anvil ROM starts base-camp firmware, from the other slot when the active one fails (R441, R442). -/
def romStart (o : BootObs) (s : State) : State :=
  let a := activeSlot s 0
  if o.pufOk = false then romStop s o 2
  else if o.floorsOk = false then romStop s o 3
  else if slotFault s 0 a = none then runSlot s 0 a
  else if slotFault s 0 (1 - a) = none then fallbackEv (runSlot s 0 (1 - a)) 0 (1 - a)
  else romStop s o 1

/-- The trip recorded before the boot raises its event now (R383); trip_seen is then cleared (Table 14.17). -/
def tripEvent (s : State) : State :=
  match s.pwr.trip with
  | some (d, t) =>
    raise { s with pwr := { s.pwr with trip := none }, tray := { s.tray with tripSeen := false } } 0x070F 0xFF
      (pf 0 9 d ||| pf 16 16 (BitVec.ofInt 16 t).toNat)
  | none => s

/-- Boot halt leaves every region off (R444). -/
def haltOff (s : State) : State := (List.range 448).foldl regionOff (bootHalt s)

/-- Step 4: licences in force, and the identity with its fault (R446, R450). -/
def identify (fault : Nat) (s : State) : State :=
  let s := takeLicences { s with tray := { s.tray with assigned := true }, mgmt := { s.mgmt with identified := true } }
  if fault = 0 then s else haltOff (raise s 0x0A04 0xFF (pf 0 4 fault))

/-- Shape, sizes, coordinate, rappel and doubling that take effect (R276); a single panel where the licence's ceiling is
exceeded (Table 12.3 item 6). -/
def configTopo (s : State) : Topo :=
  let c := dget s 0x5800 5
  ⟨dget s 0x5800 1, dget s 0x5800 2, dget s 0x5800 3, dget s 0x5800 4, bits c 7 0, bits c 15 8, bits c 23 16,
    dget s 0x5800 6 == 1, dget s 0x5800 7⟩

/-- Panels of a topology (Table 8.4). -/
def topoPanels (t : Topo) : Nat := match t.shape with
  | 1 => t.nx
  | 2 => t.nx * t.ny
  | 3 => t.nx * t.ny * t.nz
  | _ => 1

/-- The configured shape and size exceed the licence. -/
def topoRefused (s : State) : Bool :=
  decide (shapeMax s < (configTopo s).shape) || decide (panelsMax s < topoPanels (configTopo s))

def takeTopo (s : State) : State :=
  let t := configTopo s
  { s with links := { LinksSt.reset with exitMap := s.links.exitMap, topo := if topoRefused s then LinksSt.reset.topo else t } }

/-- Regions come on at a boot, but for dark ones, with the falls of offset that waited (R373). -/
def bootRegions (s : State) : State :=
  (s.pwr.regions.map Prod.fst).foldl (fun t r => if (region t r).pstate = 3 then t else applyFalls t r) s

/-- Step 5: setpoints written, modules on, rails at the step 0 voltage (R360, R494). -/
def raiseRails (s : State) : State := writePoints (bootRegions s)

/-- Version of a member of a pair that is firmware. -/
def pairSides (s : State) : List (Nat × Nat × Nat) :=
  let f := fwVer s
  let hw (code k : Nat) : List (Nat × Nat × Nat) :=
    (s.mgmt.revisions.filter fun r => r.1 == code).map fun r => (code, f k, r.2)
  [(1, f 0, f 1), (2, f 0, f 2), (3, f 0, f 3), (4, f 1, f 2), (5, f 1, f 3), (6, f 2, f 3)] ++ hw 0x11 0 ++ hw 0x12 0
    ++ hw 0x13 1 ++ hw 0x14 2 ++ hw 0x15 2 ++ hw 0x16 3

/-- Every saved partition comes back off, but for those that are undefined (R391, Table 12.1 step 13). -/
def restoreParts (s : State) : State :=
  (s.parts.st.map Prod.fst).foldl (fun t p => setPart t p 1) s

/-- Host ports come up (step 11). -/
def portsUp (o : BootObs) (s : State) : State :=
  (List.range 4).foldl (fun t p =>
    let up := (o.portsUp.map Fin.val).contains p
    let t := dset t (0x6810 + p) 2 (boolBit up)
    takePort t p) s

/-- Bivouac state (R391, R454). -/
def enterBivouac (o : BootObs) (s : State) (x : Nat × Nat × Nat) : State :=
  let s := restoreParts s
  let s := (List.range 448).foldl regionOff s
  let s := portsUp o s
  raise (dset s 0x6000 1 1) 0x0807 0xFF (pf 0 8 x.1 ||| pf 32 16 x.2.1 ||| pf 48 16 x.2.2)

/-- Step 6: die firmware, then the compatibility manifest in code order (R443, R454). -/
def loadFirmware (o : BootObs) (s : State) : State :=
  let s := { s with mgmt := { s.mgmt with running := s.mgmt.running.filter (fun e => e.1 == 0),
                                          revisions := o.revisions.map fun r => (r.1.toNat, r.2.toNat) } }
  let s := bootThen (bootThen (bootThen s (fun t => loadComp t 1)) (fun t => loadComp t 2)) (fun t => loadComp t 3)
  if s.parts.halt then haltOff s
  else match (pairSides s).find? fun x => !pairListed s x.1 x.2.1 x.2.2 with
    | some x => enterBivouac o s x
    | none => s

/-- Depth that gives a half its latency of 2 ticks (R343). -/
def halfDepth (o : BootObs) (site k : Nat) : Nat :=
  match o.depths.find? fun e => e.1.1.val == site && e.1.2.val == k with
  | some e => e.2
  | none => o.depth

/-- A receive FIFO can have the depth (R343). -/
def depthFits (n : Nat) : Bool := decide (2 ≤ n) && decide (n ≤ 7)

/-- Halves of which the boot finds no depth from 2 to 7, or no depth at all (R343, R344). -/
def namedHalves (o : BootObs) : List (Nat × Nat) :=
  o.badEdges.map (fun e => (e.1.val, e.2.val)) ++ (o.depths.filter fun e => !depthFits e.2).map (fun e => (e.1.1.val, e.1.2.val))
    ++ (if depthFits o.depth then []
        else (List.range 240).flatMap fun t => ((List.range 8).filter fun k => !depthFits (halfDepth o t k)).map fun k => (t, k))

/-- Connected edge halves that fail calibration (R344). -/
def badHalves (o : BootObs) : List (Nat × Nat) :=
  ((namedHalves o).filter fun e => hasNeighbour e.1 (dirOfCode (e.2 / 2))).eraseDups

/-- Depth word and failed bits of a site (Table 10.6). -/
def edgeWords (bad : List (Nat × Nat)) (o : BootObs) (site : Nat) : Nat × Nat :=
  (List.range 8).foldl (fun w k =>
    if !hasNeighbour site (dirOfCode (k / 2)) then w
    else if bad.contains (site, k) then (w.1, w.2 + 2 ^ k)
    else (w.1 + halfDepth o site k % 8 * 8 ^ k, w.2)) (0, 0)

/-- Step 7: edge FIFOs calibrated, with edge-cal for each half that fails (R343, R344). -/
def calibrate (o : BootObs) (s : State) : State :=
  let bad := badHalves o
  let ws := (List.range 240).map fun t => (t, edgeWords bad o t)
  let s := { s with clk := { s.clk with
    edgeDepth := ws.filterMap fun e => if e.2.1 = 0 then none else some (e.1, e.2.1),
    edgeFailed := ws.filterMap fun e => if e.2.2 = 0 then none else some (e.1, e.2.2) } }
  bad.foldl (fun t e => raise t 0x0607 0xFF (pf 0 9 e.1 ||| pf 9 2 (e.2 / 2) ||| pf 11 1 (e.2 % 2))) s

/-! ## The repair map at a full panel reset -/

/-- Fields of the logical cores of a repair word. -/
def lmap (w : Nat) : List Nat := (List.range 8).map fun j => w / 16 ^ j % 16

/-- A repair word with other fields of the logical cores. -/
def setLmap (w : Nat) (fs : List Nat) : Nat :=
  (List.range 8).foldl (fun u j => setBits u (4 * j + 3) (4 * j) (fs.getD j 15)) w

/-- Compaction of a cluster: working positions in rising order of their logical numbers, then the holes (R417). Fenced positions
have left the fields before it. -/
def compactCluster (s : State) (k : Nat) : State :=
  let w := repairWord s k
  let old := lmap w
  let new := (old.filter fun p => p != 15) ++ List.replicate (old.filter fun p => p == 15).length 15
  if old = new then s
  else
    (List.range 8).foldl (fun t j =>
      let a := old.getD j 15
      let b := new.getD j 15
      if a = b then t
      else raise t 0x0907 (partOfCore t (8 * k + j))
        (pf 0 13 (8 * k + j) ||| pf 13 4 a ||| pf 17 4 b ||| pf 21 1 (boolBit (b == 15)))) (setRepair s k (setLmap w new))

/-- Step 8: a requested compaction; the entry then returns to 0 (R417). A position that is fenced does not work: the switch-ins
that still wait come first (R416). -/
def compactAll (s : State) : State :=
  if dget s 0x7000 5 = 1 then
    (s.health.repair.map Prod.fst).foldl (fun t k => compactCluster (switchIn t k) k) (dset s 0x7000 5 0)
  else s

/-- Route holes are lifted at a full panel reset (Table 13.3). -/
def clearHoles (s : State) : State :=
  if s.fab.holes.isEmpty then s
  else bumpGen { s with fab := { s.fab with holes := [], holesPrc := s.prc, holeMaps := [] } } 0x5020 1

/-- The action-done event and its status: 2 done, 3 refused (Tables 13.13 and 13.15). -/
def actionDone (s : State) (w status : Nat) : State :=
  let s := dset { s with health := { s.health with action := none } } 0x7010 2 status
  raise s 0x090C 0xFF (pf 0 4 w ||| pf 4 4 status ||| pf 16 16 (bits w 17 4))

/-- A fenced position that passes its test goes on serving a logical core that no reset has moved off it; else it serves the
lowest hole of its cluster, else becomes the spare (R411, Table 13.2). -/
def unfencePcid (s : State) (p : Nat) : State :=
  let k := p / 16
  let w := repairWord s k
  let w := if bit w (40 + p % 16) then w - 2 ^ (40 + p % 16) else w
  if (coreOfPcid s p).isSome then setCond (setRepair s k w) p 0 4
  else match (List.range 8).find? fun j => w / 16 ^ j % 16 == 15 with
  | some j => setCond (setRepair s k (setBits w (4 * j + 3) (4 * j) (p % 16))) p 0 4
  | none => setCond (setRepair s k (setBits w 35 32 (p % 16))) p 3 4

/-- Fleet actions that wait for a full panel reset: unfence, with its test, and retire site (Table 13.7). -/
def resetActions (o : BootObs) (s : State) : State :=
  match s.health.action with
  | some w =>
    let p := bits w 17 4
    if w % 16 = 6 then
      let fails : Bool := (o.badCores.map BitVec.toNat).contains p || s.health.lostDies.contains (siteOfDie (p / 64))
      actionDone (if fails then s else unfencePcid s p) w 2
    else if w % 16 = 8 then
      actionDone { s with health := { s.health with retired := (p % 16) :: s.health.retired } } w 2
    else s
  | none => s

/-- Positions that fail their known-answer test, on dies that answer. -/
def badPositions (s : State) (o : BootObs) : List Nat :=
  ((o.badCores.map BitVec.toNat).filter fun p => decide (p < 224 * 64) && decide (p % 16 < 9)
    && !s.health.lostDies.contains (siteOfDie (p / 64))).eraseDups

/-- The cores of quarantined positions stay GATED through every reset (R410, Table 13.1). -/
def gateQuarantined (s : State) : State :=
  (s.health.recs.map Prod.fst).foldl (fun t p =>
    if condOf t p = 2 then
      match coreOfPcid t p with
      | some c => setCore t c { Core.reset with st := .gated }
      | none => t
    else t) s

/-- Step 9: the known-answer test fences what fails, and the spare of a cluster serves the logical core of a fenced position
(R392, R416); memory sites not trained are lost, and the PHY trainings' lane repairs are kept (Table 7.1); the counts of sweeps restart
(Table 13.14). -/
def testCores (o : BootObs) (s : State) : State :=
  let s := resetActions o s
  let bad := badPositions s o
  let s := (bad.filter fun p => condOf s p != 4).foldl (fun t p => fencePcid t p 6) s
  let s := gateQuarantined ((s.health.repair.map Prod.fst).foldl switchIn s)
  let dead := (s.health.lostDies.filter fun t => decide (t < 240) && isMemSite t).map memOfSite
  { s with mgmt := { s.mgmt with lanes := o.lanes }, health := { s.health with
      recs := s.health.recs.map (fun e => (e.1, setBits e.2 31 16 0)),
      lostSites := (List.range 16).filter fun m =>
        (o.badSites.map Fin.val).contains m || s.health.retired.contains m || dead.contains m } }

/-- Step 10: links of the shape in force are released (R279). -/
def releaseLinks (s : State) : State :=
  (List.range 96).foldl (fun t l =>
    if linkServes t l && !t.health.lostDies.contains (240 + l / 4) then release t l Link.reset else t) s

/-! ## The topology check -/

/-- The topology event of an item (Table 12.10). -/
def topoEv (s : State) (item die : Nat) : State := raise s 0x0803 0xFF (pf 0 4 item ||| pf 8 9 die)

/-- Items of the check that name no die. -/
def topoEvNone (s : State) (item k : Nat) : State := topoEv s item (Config.topoDie (8 * item + k)).toNat

/-- Links up in a direction. -/
def dirUp (s : State) (k : Nat) : Nat := ((dirDies s.links.topo k).map fun d => (upLinks s d).length).sum

/-- Working memory sites. -/
def workingSites (s : State) : Nat := 16 - s.health.lostSites.length

/-- The routers on both sides of an edge half that fails are fenced (Table 12.3 item 2). -/
def fenceHalf (s : State) (e : Nat × Nat) : State :=
  let d := dirOfCode (e.2 / 2)
  let half : Bool := e.2 % 2 == 1
  let s := fenceRouter s e.1 (edgeRouter e.1 d half) 3
  match siteOfPlace (stepDir d (placeOfSite e.1)) with
  | some t => fenceRouter s t (edgeRouter t (dirBack d) half) 3
  | none => s

/-- Routers of a site. -/
def sitesRouters (site : Nat) : List Nat := if isMemSite site then [0] else [0, 1, 2, 3]

/-- A port is configured: it has an address (Table 12.3 item 8). -/
def portConfigured (s : State) (p : Nat) : Bool := dget s (0x6810 + p) 4 != 0 || dget s (0x6810 + p) 5 != 0

/-- A partition has a working core. -/
def partWorks (s : State) (p : Nat) : Bool := (coresOfPart s p).any fun c => !isHole s c && (core s c).st != .gated

/-- Partitions with no working core (Table 12.3 item 9). -/
def idleParts (s : State) : List Nat := (s.parts.st.map Prod.fst).filter fun p => !partWorks s p

/-- Items 1 to 9 in order, with their events and effects; the highest result (R395, Table 12.3). -/
def topoCheck (o : BootObs) (s : State) : State × Nat :=
  let dead := s.health.lostDies.filter fun t => decide (t < 240)
  let s := dead.foldl (fun t x => (sitesRouters x).foldl (fun u q => fenceRouter u x q 1) (topoEv t 1 x)) s
  let bad := badHalves o
  let s := bad.foldl (fun t e => fenceHalf (topoEv t 2 e.1) e) s
  let cores := badPositions s o
  let s := cores.foldl (fun t p => topoEv t 3 (siteOfDie (p / 64))) s
  let s := s.health.lostSites.foldl (fun t m => topoEv t 4 (siteOfMem m)) s
  let short := decide (workingCores s < coreFloor s)
  let few := decide (workingSites s < siteFloor s)
  let s := if short || few then topoEvNone s 5 0 else s
  let s := if short then recommend s 0xFF 4 0 6 else s
  let refused := topoRefused s
  let s := if refused then topoEvNone s 6 0 else s
  let down := (List.range 6).filter fun k => decide (dirUp s k < 16 * (dirGroups s.links.topo k).length)
  let s := down.foldl (fun t k => topoEvNone t 7 k) s
  let ports := (List.range 4).filter fun p => portConfigured s p && dget s (0x6810 + p) 2 == 0
  let s := ports.foldl (fun t p => topoEv t 8 (264 + p / 2)) s
  let ps := idleParts s
  let s := ps.foldl (fun t p => topoEvNone t 9 (p % 8)) s
  let degraded := !(dead.isEmpty && bad.isEmpty && cores.isEmpty && s.health.lostSites.isEmpty && down.isEmpty
    && ports.isEmpty && ps.isEmpty)
  (s, if refused then 3 else if short || few then 2 else if degraded then 1 else 0)

/-- Link dies that answer (Table 12.4). -/
def linkDiesUp (s : State) : Nat := 24 - (s.health.lostDies.filter fun t => decide (240 ≤ t)).length

/-- The topology record (Table 12.4); at its reset values before the first check. -/
def topoRec (s : State) : Nat :=
  match s.parts.topo with
  | none => fld 64 4 1
  | some x =>
    let cellDies := 224 - (s.health.lostDies.filter fun t => decide (t < 240) && !isMemSite t).length
    let sites := (List.range 16).foldl (fun n m => if s.health.lostSites.contains m then n else n + 2 ^ m) 0
    let up := (List.range 6).foldl (fun n k => n + dirUp s k % 64 * 2 ^ (6 * k)) 0
    fld 0 64 x.prc + fld 64 4 1 + fld 68 4 x.result + fld 72 8 cellDies + fld 80 13 (workingCores s) + fld 93 13 (holeCount s)
      + fld 106 16 sites + fld 122 5 x.linkDies + fld 128 36 up + fld 164 4 x.ports + fld 168 10 x.edges

/-- Every die holds the maps, and the transit tables and hop distances follow (R31, R231, R282, R285). -/
def publishMaps (s : State) : State :=
  let hm := s.fab.holes
  let hops := hopTable hm
  let s := { s with fab := { s.fab with
    holeMaps := if hm.isEmpty then [] else (List.range 267).map fun d => (d, hm), transit := some hm, hops := hops,
    hopsGen := if hops = s.fab.hops then s.fab.hopsGen else (s.fab.hopsGen + 2) % 2 ^ 32 } }
  let m := exitBits s
  if m = s.links.exitMap then s
  else bumpGen (dset { s with links := { s.links with exitMap := m } } 0x5810 0 m) 0x5810 1

/-- Partitions with autostart are switched on (Table 12.1 step 13, Table 12.3 items 4 and 9). -/
def autostart (s : State) : State :=
  let idle := idleParts s
  (s.parts.st.map Prod.fst).foldl (fun t p =>
    if dget t (0x6100 + p) 15 = 1 ∧ mayStart t p = true ∧ idle.contains p = false then startPart t p else t) s

/-- The check, the partitions and ready (steps 12 to 14 of Table 12.1, 7 and 8 of Table 12.2). -/
def bootEnd (warm : Bool) (o : BootObs) (s : State) : State :=
  let s := { s with parts := { s.parts with booting := none } }
  let s := if warm then stage warm 6 s else s
  let x := topoCheck o s
  let s := publishMaps x.1
  let s := bumpGen { s with parts := { s.parts with topo := some ⟨s.prc, x.2, portBits s, linkDiesUp s, (badHalves o).length⟩ } } 0x6010 1
  let s := if warm then s else stage warm 12 s
  let s := autostart (restoreParts s)
  let s := stage warm (if warm then 7 else 13) s
  let s := raiseFloors s
  let s := dset (dset s 0x6000 1 2) 0x6000 4 o.durationMs.toNat
  let s := if warm then s
    else
      let pw := dget s 0x2000 1
      let t := takeLimits s
      { dset t 0x2000 2 pw with
        pwr := { t.pwr with limits := { t.pwr.limits with step := dget s 0x4000 3 }, outletCap := 1000 * pw, plateCap := 1000 * pw,
                            capReported := pw, temperEnd := s.prc + 3600 * secTicks * dget s 0x2000 8 } }
  let s := stage warm (if warm then 8 else 14) s
  let s := { s with parts := { s.parts with topoReady := topoRec s } }
  raise s 0x0802 0xFF (pf 0 1 (boolBit warm) ||| pf 4 4 x.2 ||| pf 32 32 o.durationMs.toNat)

/-- A released link trains. -/
def linksTrain (s : State) : Bool := s.links.links.any fun e => e.2.state == 1

/-- What comes after the links' release: with links in training, the boot waits for them. -/
def awaitLinks (warm : Bool) (o : BootObs) (s : State) : State :=
  if bootStopped s then s
  else if linksTrain s then { s with parts := { s.parts with booting := some (warm, o) } }
  else bootEnd warm o s

/-! ## Cold boot -/

/-- Regions through the loss of power: offsets, isolated slices and dark regions stay (R365, R373, Table 15.3). -/
def regionKept (x : RegionPwr) : RegionPwr :=
  { RegionPwr.reset with pstate := if x.pstate = 3 then 3 else 0, failed := x.failed, offset := x.offset, falls := x.falls }

/-- Dies that do not answer at a full panel reset. -/
def deadDies (o : BootObs) : List Nat := (o.deadSites.map Fin.val).eraseDups ++ (o.deadLinks.map fun d => 240 + d.val).eraseDups

/-- What a cold boot finds: the flash classes, and nothing else (Tables 12.6 and 15.3); TRIP_CLR clears the latch only while
TRIP_N is high (R498). -/
def coldClear (o : BootObs) (s : State) : State :=
  let s := restoreSlice s
  { s with
    prc := 0, spm := [], hbm := [], sram := [], cores := [], msites := [], dict := coldDict s.dict,
    fab := Fab.reset, links := LinksSt.reset,
    host := { HostSt.reset with salts := s.host.salts, nextOp := s.host.nextOp, nextCmd := s.host.nextCmd },
    clk := ClkSt.reset,
    pwr := { PwrSt.reset with
      rails := s.pwr.rails.filterMap (fun e => if e.2.bumps.isEmpty then none else some (e.1, { Rail.reset with bumps := e.2.bumps })),
      regions := s.pwr.regions.map (fun e => (e.1, regionKept e.2)), trip := s.pwr.trip },
    parts := { PartSt.reset with st := s.parts.st, rappel := dget s 0x5800 6 == 1 },
    health := { HealthSt.reset with
      repair := s.health.repair, repairGen := s.health.repairGen, recs := s.health.recs, retired := s.health.retired,
      action := s.health.action.filter (fun w => w % 16 == 6 || w % 16 == 8), lostDies := deadDies o },
    mgmt := { MgmtSt.reset with
      kept := s.mgmt.kept, keepNext := s.mgmt.keepNext, slots := s.mgmt.slots, active := s.mgmt.active, floors := s.mgmt.floors,
      licences := s.mgmt.licences },
    tray := { TraySt.reset with stbyOk := true, menReq := false, tripN := o.tripHigh, latch := !o.tripHigh,
                                tripSeen := s.tray.tripSeen || !o.tripHigh } }

/-- The rest of step 5 to step 11 of Table 12.1, with the modules on. -/
def coldPowered (o : BootObs) (s : State) : State :=
  let s := bootThen (stage false 5 s) fun t => loadFirmware o t
  let s := bootThen (stage false 6 s) (calibrate o)
  let s := bootThen (stage false 7 s) fun t => clearHoles (compactAll t)
  let s := bootThen (stage false 8 s) (testCores o)
  let s := bootThen (stage false 9 s) fun t => releaseLinks (takeTopo t)
  let s := bootThen (stage false 10 s) (portsUp o)
  awaitLinks false o (stage false 11 s)

/-- Steps 3 to 11 of Table 12.1, once base-camp firmware runs and the mesh has its reference (R335); fault is the identity's.
While the trip latch stays set the modules are off, and step 5 does not end (R497, R498). -/
def coldLocked (o : BootObs) (fault : Nat) (s : State) : State :=
  let s := stage false 3 { s with clk := { s.clk with mesh := true } }
  let s := stage false 4 (identify fault s)
  let s := bootThen s fun t => emit (raiseRails { t with tray := { t.tray with menReq := true } }) (.pins 0 1)
  if s.tray.latch then s else coldPowered o s

/-- Steps 1 to 11 of Table 12.1: without a reference the sequence does not pass step 2. DESIGN CHOICE (log 86). -/
def coldSteps (o : BootObs) (s : State) : State :=
  let s := stage false 2 (stage false 1 (tripEvent s))
  if o.refPresent then coldLocked o Config.identFault s else s

/-- A cold boot from the arrival of the standby rail (R390). -/
def coldStart (o : BootObs) (s : State) : State :=
  let s := romStart o (emit (coldClear o s) (.pins 1 1))
  if s.mgmt.romHalt.isSome then s else coldSteps o s

/-- COLD_BOOT (R390). -/
def execColdBoot (o : BootObs) (s : State) : Host.Outcome State Fault Refusal :=
  .next
    (match s.parts.booting with
     | some (false, o') => if s.mgmt.romHalt.isNone && powered s then bootEnd false o' s else coldStart o s
     | _ => coldStart o s)

/-! ## Warm panel reset -/

/-- A warm panel reset may be asked for: ready or in bivouac (R391, R394, R444). -/
def mayWarm (s : State) : Bool := (panelReady s || inBivouac s) && !s.parts.halt && powered s

/-- Step 1 of Table 12.2: panel state warm-reset, every open command completed, every QP moved to error; resets and loads are
taken over (R406). -/
def askWarm (s : State) : State :=
  if mayWarm s then
    let s := dset s 0x6000 1 3
    let s := (List.range 16).foldl (fun t p => qpsFail (ringsReset (abandonLoad t p) p) p) s
    let s := { s with parts := { s.parts with resets := [], waiting := [] } }
    stage true 1 s
  else s

/-- Memory sites through a warm panel reset: the refresh goes on (R247). -/
def refreshKept (l : Assoc MSite) : Assoc MSite :=
  l.filterMap fun e => if e.2.refWait.isEmpty then none else some (e.1, { MSite.reset with refWait := e.2.refWait })

/-- Step 2 of Table 12.2: every die but the base-camp die held in reset; HBM is kept, drills and perturbations are cleared
(R394, R407, R434). -/
def warmClear (o : BootObs) (s : State) : State :=
  let s := restoreSlice (neutralAll s false)
  { s with
    spm := [], cores := [], msites := refreshKept s.msites, dict := warmDict s.dict,
    fab := { Fab.reset with cmap := s.fab.cmap, holes := s.fab.holes, holesPrc := s.fab.holesPrc, hops := s.fab.hops, hopsGen := s.fab.hopsGen },
    links := { s.links with links := [] },
    host := { HostSt.reset with salts := s.host.salts, nextOp := s.host.nextOp, nextCmd := s.host.nextCmd },
    clk := { ClkSt.reset with
      refBadAt := s.clk.refBadAt, refLostAt := s.clk.refLostAt, refPpm := s.clk.refPpm, refOk := s.clk.refOk,
      paused := s.pwr.quench.isSome, mesh := true, changes := s.clk.changes, changesAll := s.clk.changesAll },
    pwr := { s.pwr with
      rails := s.pwr.rails.map (fun e => (e.1, { Rail.reset with
        phaseMask := e.2.phaseMask, silent := e.2.silent, modFault := e.2.modFault, modWarned := e.2.modWarned,
        bumps := e.2.bumps, phasePin := e.2.phasePin, temp := e.2.temp, warned := e.2.warned })),
      regions := s.pwr.regions.map (fun e => (e.1, { regionKept e.2 with slack := e.2.slack, droopMark := e.2.droopMark })),
      hints := [], share := 120000 },
    parts := { s.parts with topo := none, scrub := [], rappel := dget s 0x5800 6 == 1 },
    health := { s.health with
      drills := [], window := none, slice := none, exchange := [], pertAt := [], missed := [], silent := [], beatAt := [], progress := [], probes := [], episodes := [],
      lostDies := deadDies o },
    mgmt := { s.mgmt with bus := { s.mgmt.bus with taken := false, waiting := [] },
                          mon := { s.mgmt.mon with unlocked := none, challenge := none, baud := 115200 } } }

/-- The steps of Table 12.2 from step 2 on. -/
def warmSteps (o : BootObs) (s : State) : State :=
  let s := takeLicences (raiseRails (warmClear o s))
  let s := bootThen (stage true 2 s) fun t => loadFirmware o t
  let s := bootThen (stage true 3 s) (calibrate o)
  let s := bootThen (stage true 4 s) fun t => testCores o (clearHoles (compactAll t))
  let s := bootThen (stage true 5 s) fun t => portsUp o (releaseLinks (takeTopo t))
  awaitLinks true o s

/-- WARM_PANEL_RESET (R394): it runs once it has been accepted, and is asked for where it has not. -/
def execWarmPanelReset (o : BootObs) (s : State) : Host.Outcome State Fault Refusal :=
  .next
    (match s.parts.booting with
     | some (true, o') => bootEnd true o' s
     | some (false, _) => s
     | none =>
       let s := if dget s 0x6000 1 = 3 then s else askWarm s
       if dget s 0x6000 1 = 3 then warmSteps o s else s)

end Sys2Proof.Machine
end

