-- ==== Sys2Proof/Machine/Health.lean ====
section
/-!
DEFINITION. Health.lean: what spec/13_dependability.md orders beside the loss of a core: the powered hour and the sweeps (R418,
R420 to R424), liveness (R425 to R427), fleet actions (R428, R429), drills (R431 to R433) and the perturbation registers
(R434). A row that a Cairn entry also starts is written over a function that answers the Cairn status (Table 14.10).
-/
namespace Sys2Proof.Machine

open Sys2Proof

/-! ## The powered hour and compaction -/

/-- UNCHECKED_HOUR (R418, Table 13.14): more than 1 % of the hour's tiles unchecked recommends a review; the hour's counts
restart. -/
def execUncheckedHour (pcid : BitVec 14) (s : State) : Host.Outcome State Fault Refusal :=
  .next
    (let p := pcid.toNat
     let t := agetD p (0, 0) s.health.hourTiles
     let s := { s with health := { s.health with hourTiles := adel p s.health.hourTiles } }
     let s := if bits (healthRec s p) 55 40 = 0 then s else setHealthRec s p (setBits (healthRec s p) 55 40 0)
     if t.1 + t.2 < 100 * t.2 then recommend s (partOfPcid s p) 1 p 7 else s)

/-- COMPACT (R417): a write of 1 to 0x7000.05. -/
def execCompact (s : State) : Host.Outcome State Fault Refusal := .next (dset s 0x7000 5 1)

/-! ## Sweeps -/

/-- The open drill is one on a core's position. -/
def drillOnCore (s : State) (c : Nat) : Bool :=
  match openDrill s with
  | some (_, d) =>
    (decide (1 ≤ d.rec_.kind.toNat) && decide (d.rec_.kind.toNat ≤ 3) && d.rec_.target.toNat == pcidOf s c)
      || (d.rec_.kind == 4 && d.rec_.target.toNat % 2 ^ 13 == c) || (d.rec_.kind == 6 && drillRegion d.rec_ == some (c / 16))
  | none => false

/-- What R420 asks of the panel and of the core's region and drills. -/
def sweepOpen (s : State) (c : Nat) : Bool :=
  regionState s (c / 16) == 0 && dget s 0x7000 1 == 1 && panelReady s && s.pwr.quench.isNone && !drillOnCore s c && powered s

/-- A core may be swept (R420): it is IDLE, and its position is healthy or suspect. -/
def maySweep (s : State) (c : Nat) : Bool :=
  (core s c).st == .idle && !isHole s c && decide (condOf s (pcidOf s c) ≤ 1) && sweepOpen s c

/-- What a sweep leaves undefined (R421). -/
def sweepTrace (s : State) (c : Nat) : State :=
  let t := modCore s c fun k =>
    { k with ibuf := [], mat := { MatSt.reset with free := some s.fresh, lfsr := k.mat.lfsr },
             vec := { VecSt.reset with free := some s.fresh, lfsr := k.vec.lfsr } }
  { t with fresh := t.fresh + 1 }

/-- The sweep-fail event (Table 13.13), with the failure counted. -/
def sweepFail (s : State) (p : Nat) (pushed : Bool) (temp unit_ : Nat) : State :=
  let s := healthBump s p 39 32
  let m := if pushed then dget s 0x7000 4 else 0
  raise s 0x0903 (partOfPcid s p) (pf 0 14 p ||| pf 14 1 (boolBit pushed) ||| pf 16 8 m ||| pf 32 16 temp ||| pf 48 4 unit_)

/-- A task start is on its way to a core: a sweep of it is abandoned at once, and records no result (R422). -/
def startComes (s : State) (c : Nat) : Bool :=
  s.host.belay.any fun b => b.1 == c && match b.2 with
    | .start _ => true
    | .stop => false

/-- SWEEP (R420 to R422, R424). -/
def execSweep (pcid : BitVec 14) (pass : Bool) (temp : BitVec 16) (unit_ : BitVec 4) (s : State) :
    Host.Outcome State Fault Refusal :=
  .next
    (let p := pcid.toNat
     match coreOfPcid s p with
     | some c =>
       if maySweep s c then
         let s := sweepTrace s c
         if startComes s c then s
         else if pass then healthBump s p 31 16 else makeSuspect (sweepFail s p false temp.toNat unit_.toNat) p 3
       else s
     | none => s)

/-- A perturbation register of a die is away from neutral. -/
def diePerturbed (s : State) (die : Nat) : Bool := [1, 2, 3].any fun j => dget s (0x7800 + die) j != 0

/-- A failure with margin pushed sets the marginal flag (R424). -/
def pushedFail (s : State) (p temp unit_ : Nat) : State :=
  let v := healthRec s p
  sweepFail (setHealthRec s p (setBits v 3 3 1)) p true temp unit_

/-- PUSHED_SWEEP (R423, R424): every core of the region is IDLE, the die is not perturbed, and there is a margin. A task start
for any core of the region abandons it. -/
def execPushedSweep (r : RegionNo) (failed : List (BitVec 14)) (temp : BitVec 16) (unit_ : BitVec 4) (s : State) :
    Host.Outcome State Fault Refusal :=
  .next
    (let cs := (coresOfRegion r).filter fun c => !coreGated s c
     if cs.all (fun c => (core s c).st == .idle && sweepOpen s c) && !diePerturbed s (siteOfRegion r)
         && decide (0 < dget s 0x7000 4) then
       (cs.filter (maySweep s)).foldl (fun t c =>
         let t := sweepTrace t c
         let p := pcidOf t c
         if cs.any (startComes s) then t
         else if (failed.map BitVec.toNat).contains p then pushedFail t p temp.toNat unit_.toNat else healthBump t p 31 16) s
     else s)

/-! ## Liveness -/

/-- HEARTBEAT_MISSING (R426): a die's heartbeat does not come, or comes and reports a core as not answering; three in a row
start the probes. -/
def execHeartbeatMissing (d : DieNo) (pcid : Option (BitVec 14)) (s : State) : Host.Outcome State Fault Refusal :=
  .next
    (let site := d.val
     if powered s && !s.health.lostDies.contains site then
       match pcid with
       | none => { s with health := { s.health with missed := aput site (agetD site 0 s.health.missed + 1) s.health.missed } }
       | some p =>
         if siteOfDie (p.toNat / 64) = site then
           { s with health := { s.health with silent := aput p.toNat (agetD p.toNat 0 s.health.silent + 1) s.health.silent } }
         else s
     else s)

/-- Probes of a core of a cell die, or of a position, have started. -/
def probesCore (s : State) (p : Nat) : Bool :=
  decide (3 ≤ agetD (siteOfDie (p / 64)) 0 s.health.missed) || decide (3 ≤ agetD p 0 s.health.silent)

/-- Probes missed by a core, and by a transit domain under 16,384 + site. -/
def probesOf (s : State) (k : Nat) : Nat := agetD k 0 s.health.probes

def addProbe (s : State) (k : Nat) : State :=
  { s with health := { s.health with probes := aput k (min 3 (probesOf s k + 1)) s.health.probes } }

/-- Every core of a site and its transit domain have missed their probes. -/
def siteSilent (s : State) (site : Nat) : Bool :=
  decide (3 ≤ probesOf s (16384 + site))
    && (isMemSite site || (List.range 32).all fun k =>
      let c := 32 * dieOfSite site + k
      isHole s c || decide (3 ≤ probesOf s (pcidOf s c)))

/-- A die is lost (R412, R426, Table 13.3): its running cores with cause 3, its routers fenced; a crucible's partition is
stopped and its site cannot be switched on again. A lost die recommends the panel's return (Table 13.8). -/
def dieLost (s : State) (site : Nat) : State :=
  let s := raise s 0x0908 0xFF (pf 0 9 site)
  let s := if isMemSite site then s
    else (List.range 32).foldl (fun t k =>
      let c := 32 * dieOfSite site + k
      if inTask (core t c) then coreLost t c 3 else t) s
  let s := (sitesRouters site).foldl (fun t q => fenceRouter t site q 1) s
  let s := if isMemSite site then
      let m := memOfSite site
      let p := ownerOfSite s m
      let s := if p < 16 then partitionStopAll s p else s
      { s with health := { s.health with lostSites := m :: s.health.lostSites.filter fun x => x != m } }
    else s
  recommend (touchTopo { s with health := { s.health with lostDies := site :: s.health.lostDies } }) 0xFF 4 0 6

/-- PROBE_TIMEOUT (R426): a core, or the transit domain of a site, misses a probe. A position that serves no logical core is
fenced. -/
def execProbeTimeout (site : SiteNo) (pcid : Option (BitVec 14)) (s : State) : Host.Outcome State Fault Refusal :=
  .next
    (let t := site.val
     if s.health.lostDies.contains t || !powered s then s
     else
       let s' := match pcid with
         | some x =>
           let p := x.toNat
           if isMemSite t ∨ dieOfSite t ≠ p / 64 ∨ probesCore s p = false then s
           else
             let u := addProbe s p
             if probesOf s p = 2 then
               (match coreOfPcid s p with
                | some c => if coreGated u c then u else coreLost u c 3
                | none => if condOf u p = 4 then u else fencePcid u p 5)
             else u
         | none =>
           if 3 ≤ agetD t 0 s.health.missed then addProbe s (16384 + t) else s
       if siteSilent s' t then dieLost s' t else s')

/-- The liveness event (Table 13.13). -/
def livenessEv (s : State) (c kind beat progress : Nat) : State :=
  raise s 0x0904 (partOfCore s c) (pf 0 13 c ||| pf 13 3 kind ||| pf 32 16 beat ||| pf 48 16 progress)

/-- Milliseconds since a PRC, as the event carries them; one that began before State saw a heartbeat or progress is the
finding old (log 88). -/
def ageMs (s : State) (old : BitVec 16) (t : Option Nat) : Nat :=
  match t with
  | some t => min 0xFFFF (ticksMs (s.prc - t))
  | none => old.toNat

/-- Ages of the last heartbeat of a core's die, and of the core's progress. -/
def beatAge (s : State) (c : Nat) (old : BitVec 16) : Nat := ageMs s old (aget (siteOfDie (dieOfCore c)) s.health.beatAt)
def progressAge (s : State) (c : Nat) (old : BitVec 16) : Nat := ageMs s old ((aget c s.health.progress).map Prod.snd)

/-- A core in RUN has shown no progress for the liveness window, while its heartbeat goes on (R427). -/
def noProgress (s : State) (c : Nat) : Bool :=
  (core s c).st == .run && agetD (siteOfDie (dieOfCore c)) 0 s.health.missed == 0
    && match aget c s.health.progress with
      | some x => decide (x.2 + usTicks (1000 * dget s 0x7000 6) ≤ s.prc)
      | none => false

/-- A cell die's heartbeat is missing, and every core of it still answers its probes (R427). -/
def beatlessDie (s : State) (d : Nat) : Bool :=
  decide (3 ≤ agetD (siteOfDie d) 0 s.health.missed)
    && (List.range 32).all fun i => isHole s (32 * d + i) || probesOf s (pcidOf s (32 * d + i)) == 0

/-- LIVENESS (R427): once for each episode. One of kind 1 ends when progress is seen again, or at the core's next task; one of
kind 2 at the die's next heartbeat. -/
def execLiveness (c : CoreId) (kind : BitVec 3) (oldBeat oldProgress : BitVec 16) (s : State) :
    Host.Outcome State Fault Refusal :=
  .next
    (let site := siteOfDie (dieOfCore c)
     let add (k : Nat) : State := { s with health := { s.health with episodes := k :: s.health.episodes } }
     let key : Nat := if kind = 1 then c.val else 8192 + site
     let met : Bool := (kind == 1 && noProgress s c) || (kind == 2 && beatlessDie s (dieOfCore c))
     if met && !s.health.episodes.contains key then
       livenessEv (add key) c kind.toNat (beatAge s c oldBeat) (progressAge s c oldProgress)
     else s)

/-! ## Fleet actions -/

/-- The position exists. -/
def pcidOk (p : Nat) : Bool := decide (p < 224 * 64) && decide (p % 16 < 9)

/-- An action's subject is in a condition that the action allows (R429, Table 13.7). -/
def actionAllowed (s : State) (w : Nat) : Bool :=
  let p := bits w 17 4
  let k := condOf s p
  match w % 16 with
  | 1 => pcidOk p && k == 1
  | 2 => pcidOk p && decide (k ≤ 1)
  | 3 => pcidOk p && k == 2
  | 4 => pcidOk p && (k == 1 || k == 2) && bits (repairWord s (p / 16)) 35 32 != 15
  | 5 => pcidOk p && k != 4
  | 6 => pcidOk p && k == 4
  | 7 =>
    let site := p % 256
    let q := p / 256 % 4
    decide (site < 240) && (!isMemSite site || q == 0) && !fenced s site q
  | 8 => !s.health.lostSites.contains (p % 16) && !s.health.retired.contains (p % 16)
  | 9 => s.health.action.isSome
  | _ => false

/-- An accepted action word (R428): it reads back, and is pending. -/
def takeAction (s : State) (w : Nat) : State :=
  { dset (dset s 0x7010 1 w) 0x7010 2 1 with health := { s.health with action := some w } }

/-- A write of an action word, and its status (R428, R429, R485): one action at a time; clear, fence router and cancel act at
once. -/
def askAction (s : State) (v : Nat) : State × Nat :=
  let w := v % 2 ^ 18
  let p := bits w 17 4
  if s.health.action.isSome ∧ w % 16 ≠ 9 then (s, 4)
  else if actionAllowed s w = false then (actionDone { s with health := { s.health with action := none } } w 3, 3)
  else
    let t := takeAction s w
    match w % 16 with
    | 1 =>
      let t := setCond t p 0 4
      (actionDone (setHealthRec t p (setBits (healthRec t p) 3 3 0)) w 2, 0)
    | 7 => (actionDone (fenceRouter t (p % 256) (p / 256 % 4) 2) w 2, 0)
    | 9 => (actionDone t w 2, 0)
    | _ => (t, 0)

/-- The action word of a position. -/
def actionWord (action : Nat) (pcid : BitVec 14) : Nat := action + 16 * pcid.toNat

/-- CLEAR (R428). -/
def execClear (pcid : BitVec 14) (s : State) : Host.Outcome State Fault Refusal := .next (askAction s (actionWord 1 pcid)).1

/-- QUARANTINE (R428). -/
def execQuarantine (pcid : BitVec 14) (s : State) : Host.Outcome State Fault Refusal := .next (askAction s (actionWord 2 pcid)).1

/-- RETURN (R428). -/
def execReturnPos (pcid : BitVec 14) (s : State) : Host.Outcome State Fault Refusal := .next (askAction s (actionWord 3 pcid)).1

/-- REPLACE (R428). -/
def execReplace (pcid : BitVec 14) (s : State) : Host.Outcome State Fault Refusal := .next (askAction s (actionWord 4 pcid)).1

/-- RETIRE (R428). -/
def execRetire (pcid : BitVec 14) (s : State) : Host.Outcome State Fault Refusal := .next (askAction s (actionWord 5 pcid)).1

/-- UNFENCE (R428). -/
def execUnfence (pcid : BitVec 14) (s : State) : Host.Outcome State Fault Refusal := .next (askAction s (actionWord 6 pcid)).1

/-- FENCE_ROUTER (R428). -/
def execFenceRouter (site : SiteNo) (q : Fin 4) (s : State) : Host.Outcome State Fault Refusal :=
  .next (askAction s (7 + 16 * site.val + 4096 * q.val)).1

/-- RETIRE_SITE (R428). -/
def execRetireSite (m : MemSiteNo) (s : State) : Host.Outcome State Fault Refusal := .next (askAction s (8 + 16 * m.val)).1

/-- CANCEL (R428). -/
def execCancel (s : State) : Host.Outcome State Fault Refusal := .next (askAction s 9).1

/-- The cores that a pending action waits for are IDLE, or have no state (Table 13.7). -/
def actionIdle (s : State) : Bool := (actionCores s).all fun c => (core s c).st == .idle || coreGated s c

/-- A core without state gets one again, as after core reset. -/
def ungate (s : State) (c : Nat) : State := { setCore s c (afterReset (core s c) s.fresh) with fresh := s.fresh + 1 }

/-- A quarantined position leaves power (Table 13.1). -/
def doQuarantine (s : State) (p : Nat) : State :=
  let s := setCond s p 2 4
  match coreOfPcid s p with
  | some c => setCore s c { Core.reset with st := .gated }
  | none => s

/-- The sweep of a return: healthy on a pass; a failure is reported and recommends replacement (Tables 13.7 and 13.8). -/
def doReturn (s : State) (p : Nat) (pass : Bool) : State :=
  if pass then
    let s := healthBump (setCond s p 0 4) p 31 16
    match coreOfPcid s p with
    | some c => ungate s c
    | none => s
  else
    let temp := (BitVec.ofInt 16 (rail s (siteOfDie (p / 64))).temp).toNat
    recommend (sweepFail s p false temp (Config.returnUnit s.fresh).toNat) (partOfPcid s p) 1 p 2

/-- A position is fenced by replace or retire, and its cluster's reset moves the logical core (Table 13.7). -/
def doFence (s : State) (p : Nat) : State :=
  let serves := (coreOfPcid s p).isSome
  let s := fencePcid s p 4
  if serves then resetRow s 2 (p / 16) else s

/-- ACTION_PROCEED (R428, R429): the pending action runs once its cores are IDLE; one whose subject no longer allows it is
refused. -/
def execActionProceed (pass : Bool) (s : State) : Host.Outcome State Fault Refusal :=
  .next
    (match s.health.action with
     | none => s
     | some w =>
       let p := bits w 17 4
       if (w % 16 ≠ 2 ∧ w % 16 ≠ 3 ∧ w % 16 ≠ 4 ∧ w % 16 ≠ 5) ∨ actionIdle s = false ∨ panelReady s = false then s
       else if actionAllowed s w = false then actionDone s w 3
       else if w % 16 = 2 then actionDone (doQuarantine s p) w 2
       else if w % 16 = 3 then
         (match coreOfPcid s p with
          | some c => if sweepOpen s c then { actionDone (doReturn s p pass) w 2 with fresh := s.fresh + 1 } else s
          | none => s)
       else actionDone (doFence s p) w 2)

/-! ## Drills -/

/-- A perturbation register is away from neutral (Table 12.8, mode 4). -/
def perturbActive (s : State) : Bool := !s.health.pertAt.isEmpty

/-- A drill is scheduled and has not ended (mode 3). -/
def drillArmed (s : State) : Bool := s.health.drills.any fun d => d.2.st == 1 || d.2.st == 2

/-- The target of a drill exists (Table 13.10). -/
def targetOk (r : DrillRec) : Bool :=
  let t := r.target.toNat
  match r.kind.toNat with
  | 1 => pcidOk t
  | 2 => pcidOk t
  | 3 => pcidOk t
  | 4 => decide (t % 2 ^ 13 < 7168)
  | 5 => decide (t < 96)
  | 6 => decide (t % 512 < 240) && !isMemSite (t % 512)
  | 7 => true
  | 8 => true
  | _ => false

/-- Partitions whose cores or sites a drill targets: that of the target, and the one its record names. -/
def drillParts (s : State) (r : DrillRec) : List Nat :=
  let t := r.target.toNat
  let own : List Nat := match r.kind.toNat with
    | 1 => [partOfPcid s t]
    | 2 => [partOfPcid s t]
    | 3 => [partOfPcid s t]
    | 4 => [partOfCore s (t % 2 ^ 13)]
    | 7 => [ownerOfSite s (t % 16)]
    | _ => []
  if own.isEmpty then [] else (own ++ [if r.part = 0xF then 0xFF else r.part.toNat]).filter fun p => decide (p < 16)

/-- The record keeps the ranges of Table 13.9. -/
def drillRecOk (s : State) (r : DrillRec) : Bool :=
  r.ver == 1 && targetOk r && decide (100 ≤ r.window.toNat) && decide (r.window.toNat ≤ 600000) && decide (1 ≤ r.repeat_.toNat)
    && decide (r.repeat_.toNat ≤ 1000)
    && (r.interval == 0 || (decide (10 ≤ r.interval.toNat) && decide (r.interval.toNat ≤ 86400)))
    && decide (s.prc + secTicks ≤ r.trigger.toNat)

/-- A write of a drill record, and its status (R431, Tables 12.9 and 13.9). With the drill scheduler locked out, the slot goes
to ended (Table 14.12). -/
def armDrill (s : State) (slot : Nat) (r : DrillRec) : State × Nat :=
  let busy : Bool := match aget slot s.health.drills with
    | some d => d.st == 1 || d.st == 2
    | none => false
  let off := (drillParts s r).find? fun p => partOff s p
  let noAssay := (drillParts s r).find? fun p => r.kind == 1 && dget s (0x6100 + p) 5 == 0
  if busy then (s, 4)
  else if inBivouac s then (modeConflict s 3 6 0xFF, 3)
  else if perturbActive s then (modeConflict s 3 4 0xFF, 3)
  else if drillRecOk s r = false then (s, 3)
  else match off, noAssay with
    | some p, _ => (modeConflict s 3 1 p, 3)
    | none, some p => (modeConflict s 3 9 p, 3)
    | none, none =>
      let st := if bit (dget s 0x8030 2) 5 then 3 else 1
      ({ s with health := { s.health with
          drills := aput slot ⟨r, st, r.repeat_.toNat, r.trigger.toNat⟩ s.health.drills } }, 0)

/-- DRILL_ARM (R431). -/
def execDrillArm (slot : Fin 8) (rec_ : DrillRec) (s : State) : Host.Outcome State Fault Refusal :=
  .next (armDrill s slot rec_).1

/-- Open the window of a drill. -/
def openWindow (s : State) (slot : Nat) (d : DrillSlot) : State :=
  { s with health := { s.health with drills := aput slot { d with st := 2 } s.health.drills, window := some (slot, s.prc) } }

/-- Lowest working slice of a region. -/
def firstSlice (s : State) (r : Nat) : Nat := leastFree (region s r).failed 16 0

/-- Inject the fault of a drill (Table 13.10): kinds 1, 2, 4 and 7 wait for their condition in the window, kind 6 lasts for
it, and the others are over at once. -/
def injectDrill (s : State) (slot : Nat) (d : DrillSlot) : State :=
  let t := d.rec_.target.toNat
  match d.rec_.kind.toNat with
  | 3 =>
    match coreOfPcid s t with
    | some c =>
      if bits (repairWord s (t / 16)) 35 32 = 15 then endDrill s slot 1 4
      else if coreGated s c then endDrill s slot 1 1
      else endDrill (coreLostD s true c 3) slot 0 0
    | none => endDrill s slot 1 (if bits (repairWord s (t / 16)) 35 32 = 15 then 4 else 1)
  | 5 =>
    if (link s t).state = 2 then
      let s := leaveService s t Config.linkDrillReason.toNat
      endDrill (setLink s t { link s t with drilled := true }) slot 0 0
    else endDrill s slot 1 1
  | 6 =>
    match drillRegion d.rec_ with
    | some r =>
      let n := firstSlice s r
      let s := openWindow s slot d
      isolate { s with health := { s.health with slice := some n } } true r n
    | none => s
  | 8 => endDrill (startQuench s true Config.quenchCause.toNat) slot 0 0
  | _ => openWindow s slot d

/-- DRILL_TRIGGER (R431, R432, Table 12.9): drill-start; a quench or another drill's open window skips it. While
the monitor holds the service bus the scheduler waits (R471). -/
def execDrillTrigger (slot : Fin 8) (s : State) : Host.Outcome State Fault Refusal :=
  .next
    (match aget slot.val s.health.drills with
     | none => s
     | some d =>
       if d.st ≠ 1 ∨ s.prc < d.next ∨ panelReady s = false then s
       else if s.mgmt.bus.taken then waitBus s 5
       else
         let d := { d with left := d.left - 1, next := d.next + d.rec_.interval.toNat * secTicks }
         let s := { s with health := { s.health with drills := aput slot.val d s.health.drills } }
         let s := raiseD s true 0x0909 (drillPart d) (pf 0 3 slot.val ||| pf 4 4 d.rec_.kind.toNat ||| pf 16 16 d.rec_.target.toNat)
         if s.pwr.quench.isSome then endDrill s slot 1 2
         else if s.health.window.isSome then endDrill s slot 1 3
         else injectDrill (markDrill s d.rec_) slot d)

/-- DRILL_WINDOW_END (R432): the condition has not occurred in the window; the slice of kind 6 is restored and its drill
done. -/
def execDrillWindowEnd (slot : Fin 8) (s : State) : Host.Outcome State Fault Refusal :=
  .next
    (match s.health.window, aget slot.val s.health.drills with
     | some (k, t), some d =>
       if k ≠ slot.val ∨ s.prc < t + usTicks (1000 * d.rec_.window.toNat) then s
       else
         if d.rec_.kind = 6 then endDrill (restoreSlice s) slot 0 0 else endDrill s slot 1 1
     | _, _ => s)

/-! ## Perturbation registers -/

/-- The die has the register (Tables 13.11 and 13.12). -/
def hasPert (die : Nat) (reg : Nat) : Bool :=
  match reg with
  | 0 => decide (die < 240)
  | 1 => decide (die < 240) && !isMemSite die
  | _ => decide (240 ≤ die) && decide (die < 264)

/-- Fields of a register without its rsv bits (R9). -/
def pertMask (reg v : Nat) : Nat :=
  match reg with
  | 0 => bits v 10 0 + bits v 31 16 * 2 ^ 16
  | 1 => bits v 6 0
  | _ => bits v 15 0

/-- Change of FIFO depth of RTR_PERT, as a signed number of 3 bits. -/
def pertFifo (v : Nat) : Int := (BitVec.ofNat 3 (bits v 10 8)).toInt

/-- The fields are in their ranges (R434, Tables 13.11 and 13.12). -/
def pertOk (s : State) (die reg v : Nat) : Bool :=
  match reg with
  | 0 =>
    let f := pertFifo v
    decide (-3 ≤ f) && (List.range 8).all fun k =>
      let depth : Int := bits (agetD die 0 s.clk.edgeDepth) (3 * k + 2) (3 * k)
      !bit v k || depth == 0 || (decide (2 ≤ depth + f) && decide (depth + f ≤ 7))
  | 1 => decide (bits v 4 0 ≤ 20)
  | _ => true

/-- A partition with assay off that a margin perturbation would reach (Table 12.9, pair 4 x 9). -/
def marginBlocked (s : State) (die reg v : Nat) : Option Nat :=
  let p := partOfDie s (dieOfSite die)
  if reg = 1 ∧ bits v 4 0 ≠ 0 ∧ bits v 6 5 ≠ 0 ∧ p < 16 ∧ dget s (0x6100 + p) 5 = 0 then some p else none

/-- A write of a perturbation register, and its status (R434, Table 12.9). A move away from neutral, and the return to it,
raise the event. -/
def perturb (s : State) (die reg v0 : Nat) : State × Nat :=
  let v := pertMask reg v0
  if hasPert die reg = false then (s, 2)
  else if inBivouac s then (modeConflict s 4 6 0xFF, 3)
  else if drillArmed s then (modeConflict s 4 3 0xFF, 3)
  else if s.pwr.quench.isSome then (modeConflict s 4 5 0xFF, 3)
  else if pertOk s die reg v = false then (s, 3)
  else match marginBlocked s die reg v with
    | some p => (modeConflict s 4 9 p, 3)
    | none =>
      if v = 0 then (neutral s false die reg, 0)
      else
        let was := dget s (0x7800 + die) (pertSub reg)
        let s := dset s (0x7800 + die) (pertSub reg) v
        let s := { s with health := { s.health with pertAt := aput (3 * die + reg) s.prc s.health.pertAt } }
        let s := if was = 0 then perturbEv s false die reg true else s
        (if reg = 1 then refitRail s die else s, 0)

/-- Number of a perturbation register. -/
def pertNo : PertReg → Nat
  | .rtr => 0
  | .pwr => 1
  | .lnk => 2

/-- PERTURB_WRITE (R434). -/
def execPerturbWrite (d : DieNo) (reg : PertReg) (v : Word) (s : State) : Host.Outcome State Fault Refusal :=
  .next (perturb s d (pertNo reg) v.toNat).1

/-- PERTURB_TIMEOUT (R434): 0x7A00.01 seconds after the register's last write. -/
def execPerturbTimeout (d : DieNo) (reg : PertReg) (s : State) : Host.Outcome State Fault Refusal :=
  .next
    (match aget (3 * d.val + pertNo reg) s.health.pertAt with
     | some t => if t + dget s 0x7A00 1 * secTicks ≤ s.prc then neutral s false d (pertNo reg) else s
     | none => s)

end Sys2Proof.Machine
end

