-- ==== Sys2Proof/Machine/Mgmt.lean ====
section
/-!
DEFINITION. Mgmt.lean: licences (R448 to R451), firmware staging (R456, R457), the hallmark report (R458), the opening and ending
of Cairn sessions (R459 to R468), and the locks of the panel service bus (R469, R470).
-/
namespace Sys2Proof.Machine

open Sys2Proof

/-! ## Ending a session -/

/-- Session with an id. -/
def findSession (s : State) (sid : BitVec 16) : Option Session := s.mgmt.sessions.find? fun x => x.sid == sid

def modSession (s : State) (sid : BitVec 16) (f : Session → Session) : State :=
  { s with mgmt := { s.mgmt with sessions := replaceFirst (fun x => x.sid == sid) f s.mgmt.sessions } }

/-- Staging is idle (Table 14.15). -/
def stageIdle (s : State) : State :=
  dset (dset (dset { s with mgmt := { s.mgmt with stage := none } } 0x8200 1 0) 0x8200 4 0) 0x8200 5 0

/-- A session ends with a cause: 1 close, 2 idle, 3 bad tags, 4 sequence exhausted, 5 owner changed (R468); its staging is
discarded (R457). -/
def endSession (s : State) (sid : BitVec 16) (cause : Nat) : State :=
  match findSession s sid with
  | none => s
  | some _ =>
    let mine : Bool := match s.mgmt.stage with
      | some (w, _) => w == .session sid
      | none => false
    let s := if mine then stageIdle s else s
    raise { s with mgmt := { s.mgmt with sessions := s.mgmt.sessions.filter fun x => x.sid != sid } } 0x0A09 0xFF
      (pf 0 16 sid.toNat ||| pf 16 4 cause)

/-! ## Licences -/

/-- Licence signing key of the running base-camp firmware (R448). -/
def licKeyNow (s : State) : List Byte := match runningOf s 0 with
  | some b => Config.fwLicenceKey b.digest
  | none => []

/-- Two licences of a kind, for waivers also of a pair and its versions: one may supersede the other (R449). -/
def sameLic (a b : List Byte) : Bool := licKind a == licKind b && (licKind a != 2 || waiverOf a == waiverOf b)

/-- Lowest free licence slot: empty, or holding what the new licence supersedes (R449). -/
def licSlot (s : State) (l : List Byte) : Option Nat :=
  (List.range 16).find? fun k => match aget k s.mgmt.licences with
    | some x => sameLic x l
    | none => true

/-- First failing check of R449. -/
def licFault (s : State) (l : List Byte) : Option Nat :=
  if bits (leNat l) 3 0 ≠ 1 then some 1
  else if licKind l = 0 ∨ 3 < licKind l then some 2
  else if Config.ecdsaVerify (licKeyNow s) (l.take 148) ((l.drop 148).take 96) = false then some 3
  else if (l.drop 4).take 16 ≠ Config.deviceId then some 4
  else if (s.mgmt.licences.any fun e => sameLic e.2 l && decide (licSeq l ≤ licSeq e.2)) then some 5
  else if licSlot s l = none then some 6
  else none

/-- Owner key of the ownership licence in force (R450, Table 14.6). -/
def ownerKey48 (s : State) : Option (List Byte) := (newestLic s 3).map fun l => (l.drop 20).take 48

/-- Sessions of levels 1 and 2, whose certificates chain to the fleet root key that opened them. -/
def ownedSessions (s : State) : List (BitVec 16) := (s.mgmt.sessions.filter fun x => x.level != 0).map fun x => x.sid

/-- An ownership licence takes effect at once (R450). -/
def changeOwner (s : State) (old : Option (List Byte)) (l : List Byte) : State :=
  let s := if old = ownerKey48 s then s else (ownedSessions s).foldl (fun t sid => endSession t sid 5) s
  raise s 0x0A0E 0xFF (pf 16 16 (licSeq l))

/-- Install a licence, with the Cairn status (R449). The superseded licence leaves its slot. -/
def installLicence (s : State) (l : List Byte) : State × Nat :=
  if l.length ≠ 256 then (s, 5)
  else match licFault s l, licSlot s l with
    | none, some k =>
      let old := ownerKey48 s
      let rest := s.mgmt.licences.filter fun e => !sameLic e.2 l
      let s := bumpGen { s with mgmt := { s.mgmt with licences := aput k l rest } } 0x1100 0x11
      let s := raise s 0x0A05 0xFF (pf 0 4 (licKind l) ||| pf 4 4 k ||| pf 16 16 (licSeq l))
      (if licKind l = 3 then changeOwner s old l else s, 0)
    | some n, _ => (raise s 0x0A06 0xFF (pf 0 4 (licKind l) ||| pf 4 4 n), 3)
    | none, none => (s, 3)

/-- LICENCE_INSTALL (R449): while base-camp firmware runs. -/
def execLicenceInstall (rec_ : List Byte) (s : State) : Host.Outcome State Fault Refusal :=
  .next (if firmwareUp s then (installLicence s rec_).1 else s)

/-! ## Staging -/

/-- Longest bundle (R439). -/
def bundleMax : Nat := 2 ^ 23

/-- A staging write is refused with busy: another's staging, or a warm panel reset runs (R457). -/
def stageBusy (s : State) (who : Who) : Bool :=
  dget s 0x6000 1 == 3 || match s.mgmt.stage with
    | some (w, _) => w != who
    | none => false

/-- A write of a component to 0x8200.01 opens a staging (R456). -/
def stageBegin (s : State) (who : Who) (comp : Nat) : State × Nat :=
  if stageBusy s who then (s, 4)
  else if comp = 0 ∨ 4 < comp then (s, 3)
  else
    let s := { s with mgmt := { s.mgmt with stage := some (who, comp, []) } }
    (dset (dset (dset s 0x8200 1 comp) 0x8200 4 1) 0x8200 5 0, 0)

/-- A write to 0x8200.02 appends 8 bytes (R456). -/
def stageAppend (s : State) (who : Who) (v : Nat) : State × Nat :=
  if stageBusy s who then (s, 4)
  else match s.mgmt.stage with
    | none => (s, 3)
    | some (w, comp, bs) =>
      if bundleMax < bs.length + 8 then (s, 3)
      else
        (dset { s with mgmt := { s.mgmt with stage := some (w, comp, bs ++ leBytes 8 v) } } 0x8200 5 (bs.length + 8), 0)

/-- A bundle goes into the inactive slot of its component, and the slot becomes active when it passes (R456, R475). -/
def putBundle (s : State) (comp : Nat) (bs : List Byte) : State × Option Nat :=
  let k := comp - 1
  let slot := 1 - activeSlot s k
  let b := parseBundle bs comp
  let s := { s with mgmt := { s.mgmt with slots := aput (2 * k + slot) b s.mgmt.slots } }
  match checkBundle s k b with
  | none => ({ s with mgmt := { s.mgmt with active := aput k slot s.mgmt.active } }, none)
  | some n => (s, some n)

/-- A write of 1 to 0x8200.03 commits the staging (R456). -/
def stageEnd (s : State) (who : Who) : State × Nat :=
  if stageBusy s who then (s, 4)
  else match s.mgmt.stage with
    | none => (s, 3)
    | some (_, comp, bs) =>
      let x := putBundle { s with mgmt := { s.mgmt with stage := none } } comp bs
      match x.2 with
      | none => (raise (dset x.1 0x8200 4 2) 0x0A07 0xFF (pf 0 4 comp), 0)
      | some n => (raise (dset x.1 0x8200 4 3) 0x0A07 0xFF (pf 0 4 comp ||| pf 4 1 1 ||| pf 8 4 n), 0)

/-- A privileged session. -/
def privileged (s : State) (sid : BitVec 16) : Bool := match findSession s sid with
  | some x => x.level == 2
  | none => false

/-- A staging write of a privileged session: none while the management port is locked out, and it waits while the monitor
holds the service bus (R471, Table 14.12). -/
def stageWrite (s : State) (sid : BitVec 16) (f : State → Who → State × Nat) : State :=
  if privileged s sid = false ∨ bit (dget s 0x8030 2) 3 = true then s
  else if s.mgmt.bus.taken then waitBus s 3
  else (f s (.session sid)).1

/-- STAGE_OPEN (R456). -/
def execStageOpen (sid : BitVec 16) (comp : Byte) (s : State) : Host.Outcome State Fault Refusal :=
  .next (stageWrite s sid fun t who => stageBegin t who comp.toNat)

/-- STAGE_DATA (R456). -/
def execStageData (sid : BitVec 16) (v : Word) (s : State) : Host.Outcome State Fault Refusal :=
  .next (stageWrite s sid fun t who => stageAppend t who v.toNat)

/-- STAGE_COMMIT (R456). -/
def execStageCommit (sid : BitVec 16) (s : State) : Host.Outcome State Fault Refusal :=
  .next (stageWrite s sid stageEnd)

/-! ## The hallmark report -/

/-- The nonce as written (R458). -/
def reportNonce (s : State) : List Byte := [1, 2, 3, 4].flatMap fun j => leBytes 8 (dget s 0x8100 j)

/-- The repair map and the conditions of all positions, in the order of their entries. -/
def repairImage (s : State) : List Byte :=
  ((List.range 896).flatMap fun k => leBytes 8 (repairWord s k))
    ++ (List.range 896).flatMap fun k => (List.range 9).map fun p => BitVec.ofNat 8 (condOf s (16 * k + p))

/-- Report of Table 14.8 up to its signature. -/
def reportBody (s : State) : List Byte :=
  let run (f : Bundle → Nat) (k : Nat) : Nat := match runningOf s k with
    | some b => f b
    | none => 0
  let four := [0, 1, 2, 3]
  leBytes 4 1 ++ leBytes 4 s.health.repairGen ++ reportNonce s ++ leBytes 8 s.prc ++ Config.deviceId
    ++ leBytes 2 Config.romVer.toNat ++ four.flatMap (fun k => leBytes 2 (run (fun b => b.fwver) k))
    ++ four.flatMap (fun k => leBytes 2 (floorOf s k))
    ++ four.flatMap (fun k => match runningOf s k with
        | some b => b.digest
        | none => List.replicate 48 0)
    ++ Config.sha384 (s.mgmt.licences.flatMap Prod.snd) ++ Config.sha384 (repairImage s)
    ++ Config.sha384 ((List.range 448).map fun r => (BitVec.ofInt 8 (region s r).offset))
    ++ Config.sha384 s.mgmt.lanes
    ++ Config.sha384 (four.flatMap fun k => match runningOf s k with
        | some b => b.manifest
        | none => [])
    ++ leBytes 32 s.parts.topoReady ++ List.replicate 30 0

/-- Issue a report: it replaces the previous one (R458). -/
def issueReport (s : State) : State :=
  let b := reportBody s
  let s := dset { s with mgmt := { s.mgmt with report := b ++ Config.deviceSign b } } 0x8100 7 2
  raise s 0x0A0D 0xFF (pf 64 64 (dget s 0x8100 1))

/-- A write of 1 to 0x8100.05: the report is being signed (R458, R485). -/
def askReport (s : State) : State × Nat := if dget s 0x8100 7 = 1 then (s, 4) else (dset s 0x8100 7 1, 0)

/-- HALLMARK_ISSUE (R458). -/
def execHallmarkIssue (s : State) : Host.Outcome State Fault Refusal := .next (if firmwareUp s then issueReport s else s)

/-! ## Opening a session -/

/-- Header of a Cairn message (Table 14.9). -/
def cairnHeader (type : Nat) (sid : BitVec 16) (seq len : Nat) : List Byte :=
  leBytes 12 (fld 0 4 1 ||| fld 4 4 type ||| fld 16 16 sid.toNat ||| fld 32 32 seq ||| fld 64 16 len)

/-- Header and body of a message, and its tag (R460). -/
def cairnMsg (type : Nat) (sid : BitVec 16) (seq : Nat) (body : List Byte) : List Byte :=
  cairnHeader type sid seq body.length ++ body

def tagOf (key msg : List Byte) : List Byte := (Config.hmac key msg).take 16

/-- A message that is discarded and counted in 0x8000.08 (R467). -/
def dropFrame (s : State) : State := dbump s 0x8000 8 31 0

/-- A message whose tag does not verify (R460). -/
def dropTag (s : State) : State := dbump s 0x8000 7 31 0

/-- A source that is ignored after failed handshakes (Table 14.11). -/
def isBlocked (s : State) (mac : BitVec 48) : Bool := s.mgmt.blocked.any fun b => b.1 == mac

/-- Entries of the last n seconds. -/
def within (s : State) (sec : Nat) (l : List (BitVec 48 × Nat)) : List (BitVec 48 × Nat) :=
  l.filter fun e => decide (s.prc < e.2 + sec * secTicks)

/-- A handshake of a source has failed; the third in 60 s blocks it, with its event, the oldest of 64 giving way. -/
def failShake (s : State) (mac : BitVec 48) : State :=
  let fs := within s 60 s.mgmt.fails ++ [(mac, s.prc)]
  if 3 ≤ (fs.filter fun e => e.1 == mac).length then
    raise { s with mgmt := { s.mgmt with fails := fs.filter (fun e => e.1 != mac),
                                         blocked := lastN 64 (s.mgmt.blocked ++ [(mac, s.prc)]) } } 0x0A0A 0xFF
      (pf 64 48 mac.toNat)
  else { s with mgmt := { s.mgmt with fails := fs } }

/-- First number from n that no session uses; 0 is no session. -/
def freeSid (used : List Nat) : Nat → Nat → Nat
  | 0, n => n % 2 ^ 16
  | fuel + 1, n =>
    let m := n % 2 ^ 16
    if m = 0 ∨ used.contains m = true then freeSid used fuel (n + 1) else m

/-- Cause of a refuse message (R462); none when the hello is answered. -/
def helloFault (s : State) (m : HelloMsg) : Option Nat :=
  if s.mgmt.identified = false then some 4
  else if 1 < m.verLo.toNat ∨ m.verHi.toNat < 1 then some 1
  else if m.level = 3 then some 3
  else if m.level ≠ 0 then
    match ownerKey48 s with
    | none => some 3
    | some k =>
      if Config.certSignedBy m.cert k = false ∨ Config.certLevel m.cert < m.level.toNat then some 2
      else if 8 ≤ s.mgmt.sessions.length then some 5 else none
  else if 8 ≤ s.mgmt.sessions.length then some 5
  else none

/-- The hello's body in the order of R461. -/
def helloBody (m : HelloMsg) : List Byte :=
  [BitVec.ofNat 8 (m.verLo.toNat + 16 * m.verHi.toNat), BitVec.ofNat 8 m.level.toNat] ++ m.nonce ++ m.ephemeral ++ m.cert

/-- HELLO (R461, R462, R467). -/
def execHello (mac : BitVec 48) (m : HelloMsg) (s : State) : Host.Outcome State Fault Refusal :=
  .next
    (let hs := within s 1 s.mgmt.hellos
     if firmwareUp s = false ∨ isBlocked s mac = true then s
     else if 4 ≤ (hs.filter fun e => e.1 == mac).length ∨ 16 ≤ hs.length then dropFrame s
     else
       let s := { s with mgmt := { s.mgmt with hellos := hs ++ [(mac, s.prc)] } }
       if 8 ≤ s.mgmt.shakes.length then s
       else match helloFault s m with
         | some n => emit s (.frame mac (cairnMsg 7 0 0 [BitVec.ofNat 8 n]))
         | none =>
           let used := (s.mgmt.sessions.map fun x => x.sid.toNat) ++ s.mgmt.shakes.map fun x => x.sid.toNat
           let sid := BitVec.ofNat 16 (freeSid used 20 (Config.newSid s.fresh).toNat)
           let eph := Config.ephemeral s.fresh
           let non := Config.nonce s.fresh
           let reply := [0x01] ++ leBytes 2 sid.toNat ++ non ++ eph ++ Config.deviceId
           let script := helloBody m ++ reply
           let keys := Config.sessionKey eph m.ephemeral (m.nonce ++ non)
           let h : Handshake := ⟨sid, mac, m.level.toNat, script, keys.take 48, (keys.drop 48).take 48, m.cert, s.prc⟩
           let s := { s with fresh := s.fresh + 1, mgmt := { s.mgmt with shakes := s.mgmt.shakes ++ [h] } }
           emit s (.frame mac (cairnMsg 2 sid 0 (reply ++ Config.deviceSign (Config.sha384 script)))))

/-- "finish" (R461). -/
def finishWord : List Byte := [0x66, 0x69, 0x6E, 0x69, 0x73, 0x68]

/-- The station's signature in finish holds; level 0 carries none (R461). -/
def finishOk (h : Handshake) (sig : List Byte) : Bool :=
  h.level == 0 || Config.ecdsaVerify (Config.certKey h.cert) (Config.sha384 h.script ++ finishWord) sig

/-- FINISH (R461, R467): the session opens. -/
def execFinish (mac : BitVec 48) (sid : BitVec 16) (sig tag : List Byte) (s : State) : Host.Outcome State Fault Refusal :=
  .next
    (if firmwareUp s = false ∨ isBlocked s mac = true then s
     else match s.mgmt.shakes.find? fun h => h.sid == sid && h.mac == mac with
       | none => if s.mgmt.sessions.any (fun x => x.mac == mac) then s else dropFrame s
       | some h =>
         if tag ≠ tagOf h.keyIn (cairnMsg 3 sid 0 sig) then dropTag s
         else
           let s := { s with mgmt := { s.mgmt with shakes := s.mgmt.shakes.filter fun x => x.sid != sid } }
           if finishOk h sig = false then failShake s mac
           else if 8 ≤ s.mgmt.sessions.length then emit s (.frame mac (cairnMsg 7 0 0 [5]))
           else
             let x : Session := ⟨sid, mac, h.level, h.keyIn, h.keyOut, none, s.prc, [], h.cert⟩
             raise { s with mgmt := { s.mgmt with sessions := s.mgmt.sessions ++ [x] } } 0x0A08 0xFF
               (pf 0 16 sid.toNat ||| pf 16 2 h.level ||| pf 64 48 mac.toNat))

/-- FINISH_TIMEOUT (R461): no finish within 1 s; the handshake has failed. -/
def execFinishTimeout (sid : BitVec 16) (s : State) : Host.Outcome State Fault Refusal :=
  .next
    (match s.mgmt.shakes.find? fun h => h.sid == sid with
     | some h =>
       if s.prc < h.start + secTicks then s
       else failShake { s with mgmt := { s.mgmt with shakes := s.mgmt.shakes.filter fun x => x.sid != sid } } h.mac
     | none => s)

/-- STATION_UNBLOCK (R467): 60 s after it was blocked. -/
def execStationUnblock (mac : BitVec 48) (s : State) : Host.Outcome State Fault Refusal :=
  .next
    (let keep := s.mgmt.blocked.filter fun e => !(e.1 == mac && decide (e.2 + 60 * secTicks ≤ s.prc))
     { s with mgmt := { s.mgmt with blocked := keep } })

/-- SESSION_IDLE_TIMEOUT (R468): 0x8000.05 seconds without a request. -/
def execSessionIdleTimeout (sid : BitVec 16) (s : State) : Host.Outcome State Fault Refusal :=
  .next
    (match findSession s sid with
     | some x => if x.at_ + dget s 0x8000 5 * secTicks ≤ s.prc then endSession s sid 2 else s
     | none => s)

/-- A tag that does not verify in a session: the 16th in 1 s closes it (R460, R467). -/
def badTag (s : State) (x : Session) : State :=
  let s := dropTag s
  let b := (x.bad.filter fun t => decide (s.prc < t + secTicks)) ++ [s.prc]
  let s := modSession s x.sid fun y => { y with bad := b }
  if 16 ≤ b.length then endSession s x.sid 3 else s

/-- CLOSE (R460, R465, R468). -/
def execClose (mac : BitVec 48) (sid : BitVec 16) (seq : BitVec 32) (tag : List Byte) (s : State) :
    Host.Outcome State Fault Refusal :=
  .next
    (if firmwareUp s = false ∨ isBlocked s mac = true then s
     else match s.mgmt.sessions.find? fun x => x.sid == sid && x.mac == mac with
       | none => if s.mgmt.sessions.any (fun x => x.mac == mac) then s else dropFrame s
       | some x => if tag = tagOf x.keyIn (cairnMsg 6 sid seq.toNat []) then endSession s sid 1 else badTag s x)

/-! ## Locks of the service bus -/

/-- Every armed drill slot goes to ended without a trigger (Table 14.12). -/
def endArmed (s : State) : State :=
  { s with health := { s.health with drills := s.health.drills.map fun e =>
      if e.2.st = 1 then (e.1, { e.2 with st := 3 }) else e } }

/-- SERVICE_BUS_CUTOFF (R469, R470): the requester has held the bus for held microseconds, the monitor's time not charged, which
is longer than the ceiling of 0x8030.01. The monitor is never cut off, and requester 6 does not exist (Table 14.12). -/
def execServiceBusCutoff (req : Holder 8) (s : State) : Host.Outcome State Fault Refusal :=
  .next
    (let n := req.req.val
     if 5 < n ∨ req.held ≤ dget s 0x8030 1 then s
     else
       let v := dget s 0x8030 2
       let s := dset s 0x8030 2 (if bit v n then v else v + 2 ^ n)
       let s := dbump s 0x8030 3 31 0
       let s := if n = 0 then { s with mgmt := { s.mgmt with bus := { s.mgmt.bus with fwCut := s.prc } } } else s
       raise (if n = 5 then endArmed s else s) 0x0A0B 0xFF (pf 0 3 n))

/-- Clear a lock-out. -/
def busUnlock (s : State) (n : Nat) : State :=
  let v := dget s 0x8030 2
  if bit v n then dset s 0x8030 2 (v - 2 ^ n) else s

/-- FIRMWARE_LOCK_CLEAR (Table 14.12): base-camp firmware clears its own lock 10 ms later. -/
def execFirmwareLockClear (s : State) : Host.Outcome State Fault Refusal :=
  .next (if bit (dget s 0x8030 2) 0 && decide (s.mgmt.bus.fwCut + usTicks 10000 ≤ s.prc) then busUnlock s 0 else s)

/-- BUS_LOCK_CLEAR (R470): 0 written to the bit of requester 1 to 5. -/
def execBusLockClear (req : Fin 8) (s : State) : Host.Outcome State Fault Refusal :=
  .next (if req.val = 0 ∨ 5 < req.val then s else busUnlock s req.val)

end Sys2Proof.Machine
end

