-- ==== Sys2Proof/Machine/Cairn.lean ====
section
/-!
DEFINITION. Cairn.lean: reads and writes of the Cairn dictionary (R12, R303, R304, R464, R477 to R491): who may reach an entry,
what it reads as, and what a write does; the writes of registers outside the panel's address space, and of ring enables.
-/
namespace Sys2Proof.Machine

open Sys2Proof

/-! ## Who reaches what -/

/-- Level of a requester: 0 open, 1 a session in the sense of R12, 2 privileged (R304, R464, R473); none when it has no session
or QP. -/
def whoLevel (s : State) : Who → Option Nat
  | .session sid => (findSession s sid).map fun x => x.level
  | .qp h qpn => (findQp s h.val qpn).map fun q => if dget s (0x6A00 + q.part) 5 = 1 then 2 else 1
  | .monitor => some 2
  | .firmware => some 2

/-- Entries within the reach of a level 0 session (R464). -/
def openRead (index sub : Nat) : Bool :=
  (decide (0x1000 ≤ index) && decide (index ≤ 0x11FF)) || (index == 0x8100 && (sub == 6 || sub == 7))

def openWrite (index sub : Nat) : Bool :=
  (index == 0x1100 && sub == 0x10) || (index == 0x8100 && decide (1 ≤ sub) && decide (sub ≤ 5))

/-- Partition that an entry belongs to (R486). -/
def entryPart (s : State) (index : Nat) : Option Nat :=
  let ringOwner (i : Nat) : Option Nat := if dget s i 1 < 16 then some (dget s i 1) else none
  if 0x6100 ≤ index ∧ index < 0x6110 then some (index - 0x6100)
  else if 0x6A00 ≤ index ∧ index < 0x6A10 then some (index - 0x6A00)
  else if 0x7100 ≤ index ∧ index < 0x7110 then some (index - 0x7100)
  else if (0x6880 ≤ index ∧ index < 0x6900) ∨ (0x6900 ≤ index ∧ index < 0x6980) then ringOwner index
  else none

/-- Partition that a requester is held to: that of a QP which is not privileged (R304, R486, R491). -/
def heldTo (s : State) : Who → Option Nat
  | .qp h qpn => match findQp s h.val qpn with
    | some q => if dget s (0x6A00 + q.part) 5 = 1 then none else some q.part
    | none => none
  | _ => none

/-- The entry belongs to a partition that the requester does not reach (R486). -/
def foreignEntry (s : State) (who : Who) (index : Nat) : Bool :=
  match heldTo s who, entryPart s index with
  | some p, some q => p != q
  | _, _ => false

/-- Entries that show RTR_, NI_, LNK_, CLK_, PWR_ or BC_ registers (R469). -/
def registerEntry (index sub : Nat) : Bool :=
  (decide (0x2100 ≤ index) && decide (index < 0x2200)) || (decide (0x4100 ≤ index) && decide (index < 0x4300))
    || (decide (0x5300 ≤ index) && decide (index < 0x5500)) || (decide (0x5900 ≤ index) && decide (index < 0x5B00))
    || (decide (0x7800 ≤ index) && decide (index < 0x7A00))
    || (index == 0x8030 && (sub == 1 || decide (4 ≤ sub)))

/-- Entries whose contents lie in the rim flash. -/
def flashRecord (index sub : Nat) : Bool :=
  (decide (0x1110 ≤ index) && decide (index < 0x1120)) || (decide (0x9200 ≤ index) && decide (index < 0x9210))
    || (index == 0x1000 && (sub == 2 || sub == 3 || sub == 5)) || index == 0x8010

/-- The operation needs the panel service bus: it reaches a register or the rim flash (R469, R482). -/
def needsBus (write : Bool) (index sub : Nat) : Bool :=
  registerEntry index sub || flashRecord index sub
    || (write && (decide (0x8200 = index) || (!resetClass (cairnSlot index sub) && !baseClass (cairnSlot index sub))))

/-- The requester is locked out of the service bus for this operation (Table 14.12). -/
def busLocked (s : State) (who : Who) (write : Bool) (index sub : Nat) : Bool :=
  match who with
  | .qp h _ => bit (dget s 0x8030 2) (1 + h.val)
  | .session _ => bit (dget s 0x8030 2) 3 && needsBus write index sub
  | _ => false

/-! ## What entries read as -/

/-- Pair codes of the revisions that 0x1020 + h shows (Tables 14.7 and 14.15). -/
def revCode (h : Nat) : Nat := [0, 0x13, 0x14, 0x16, 0x12, 0x11, 0x15].getD h 0

/-- Revisions found of a kind. -/
def revsOf (s : State) (h : Nat) : List Nat := (s.mgmt.revisions.filter fun e => e.1 == revCode h).map Prod.snd

def lowestOf : List Nat → Nat
  | [] => 0
  | x :: xs => xs.foldl min x

/-- BC_ID and BC_STATE (Table 14.17). -/
def bcIdReg (s : State) : Nat := fld 0 16 Config.romVer.toNat + fld 16 16 (lowestOf (revsOf s 5))

def bcStateReg (s : State) : Nat :=
  fld 0 2 (dget s 0x6000 1) + fld 2 1 (boolBit s.parts.halt) + fld 3 4 (dget s 0x6000 2) + fld 7 1 (boolBit s.pwr.quench.isSome)
    + fld 8 1 (boolBit s.tray.stbyOk) + fld 9 1 (boolBit s.tray.menReq) + fld 10 1 (boolBit s.tray.tripN)
    + fld 11 1 (boolBit s.tray.tripSeen) + fld 12 1 (boolBit s.clk.refOk)

/-- BC_ARB: between commands only the monitor holds the bus, and the requests that wait for it stand (R471, Table 14.18). -/
def bcArbReg (s : State) : Nat :=
  (if s.mgmt.bus.taken then
     fld 7 1 1 + fld 8 3 7 + fld 11 1 1 + fld 12 1 1 + (s.mgmt.bus.waiting.map fun n => fld n 1 1).sum
       + fld 32 32 (min (2 ^ 32 - 1) (ticksUs (s.prc - s.mgmt.bus.since)))
   else 0) + fld 16 8 (dget s 0x8030 2)

/-- BC_I3C (Table 14.18). -/
def bcI3cReg (s : State) : Nat :=
  (if s.tray.assigned then fld 0 7 8 + fld 7 1 1 else 0) + fld 8 16 s.tray.seq + fld 24 8 s.tray.errs
    + fld 32 1 (boolBit s.tray.valid)

/-- A quotient as FP32, rounded to nearest even. -/
def f32Of (n : Int) (d : Nat) : Nat := (fpOut .near (valDiv (Val.ofInt n 0) (Val.ofInt d 0))).1.toNat

/-- A reading as FP32, or the canonical NaN while its source gives none (Table 15.2). -/
def f32Reading (s : State) (v : Option Int) (d : Nat) : Nat :=
  match v with
  | some n => if s.pwr.trayLost then 0x7FC00000 else f32Of n d
  | none => 0x7FC00000

/-- 0x3000.07 (Table 11.12): 0 normal, 1 warning, 2 quench, 3 tray lost. -/
def coolState (s : State) : Nat :=
  if s.pwr.quench.isSome then 2 else if s.pwr.trayLost then 3 else if s.pwr.warned.isEmpty then 0 else 1

/-- A die gives no reading: it does not answer, or has no power. -/
def dieMute (s : State) (site : Nat) : Bool := s.health.lostDies.contains site || !powered s

/-- Requests in the target slots of an NI (NI_STAT.slots). -/
def slotsInUse (s : State) (ni : Nat) : Nat := (s.fab.slots.filter fun x => x.ni == ni).length

/-- Live values of entries of at most 8 bytes; none where the entry shows its stored value. -/
def liveVal (s : State) (index sub : Nat) : Option Nat :=
  let comp (f : Bundle → Nat) (k : Nat) : Nat := match runningOf s k with
    | some b => f b
    | none => 0
  if index = 0x1000 then (if sub = 7 then some Config.romVer.toNat else none)
  else if 0x1011 ≤ index ∧ index ≤ 0x1014 then
    let k := index - 0x1011
    (match sub with
      | 1 => some (comp (fun b => b.fwver) k)
      | 2 => some (comp (fun b => b.svn) k)
      | 3 => some (floorOf s k)
      | 4 => some (activeSlot s k)
      | _ => none)
  else if 0x1021 ≤ index ∧ index ≤ 0x1026 then
    let l := revsOf s (index - 0x1020)
    if sub = 1 then some (lowestOf l) else some (boolBit (decide (1 < l.eraseDups.length)))
  else if index = 0x1100 ∧ sub = 1 then some (variantNo s)
  else if 0x2100 ≤ index ∧ index < 0x21F0 then
    let site := index - 0x2100
    (match sub with
      | 1 => some (pwrRailReg s site)
      | 2 => some (pwrRegionReg s (2 * dieOfSite site))
      | _ => some (pwrRegionReg s (2 * dieOfSite site + 1)))
  else if index = 0x3000 then
    (match sub with
      | 1 => some (f32Reading s s.pwr.inlet 8)
      | 2 => some (f32Reading s s.pwr.outlet 8)
      | 3 => some (f32Reading s (s.pwr.flow.map Int.ofNat) 100)
      | 4 => some (f32Reading s s.pwr.plate 8)
      | 5 => some (f32Of s.pwr.rth.1 s.pwr.rth.2)
      | 7 => some (coolState s)
      | _ => none)
  else if 0x3100 ≤ index ∧ index < 0x31F0 then
    let site := index - 0x3100
    some (if dieMute s site then 0x8000 else lowBits 16 (rail s site).temp)
  else if index = 0x4000 ∧ sub = 1 then some s.clk.step
  else if index = 0x4010 then some (prcWord s).toNat
  else if 0x4020 ≤ index ∧ index < 0x4030 then some (stepMHz (index - 0x4020))
  else if 0x4100 ≤ index ∧ index < 0x420B then
    some (if sub = 1 then clkStateReg s (index - 0x4100) else clkEdgeReg s (index - 0x4100))
  else if index = 0x5010 ∧ sub = 1 then some (s.fab.cmap.2.1 % 2 ^ 32)
  else if 0x5100 ≤ index ∧ index < 0x5110 then (if sub = 0 then none else some (hopEntry s (index - 0x5100) (sub - 1)))
  else if index = 0x51F0 then some (s.fab.hopsGen % 2 ^ 32)
  else if 0x5300 ≤ index ∧ index < 0x53F0 then
    if 9 ≤ sub ∧ sub ≤ 12 then
      some (setBits (dget s index sub) 8 0 (slotsInUse s (4 * (index - 0x5300) + (sub - 9))))
    else none
  else if 0x5900 ≤ index ∧ index < 0x5960 then (if sub = 1 then some (lnkStateReg s (index - 0x5900)) else none)
  else if 0x6100 ≤ index ∧ index < 0x6110 then (if sub = 1 then some (partSt s (index - 0x6100)) else none)
  else if 0x6A00 ≤ index ∧ index < 0x6A10 then
    let p := index - 0x6A00
    if sub = 7 then some (Config.salt (agetD p p s.host.salts)).toNat else none
  else if 0x7080 ≤ index ∧ index < 0x7088 then
    if sub = 2 then (match aget (index - 0x7080) s.health.drills with
      | some d => some d.st
      | none => some 0)
    else none
  else if 0x7200 ≤ index ∧ index < 0x72E0 then
    if sub = 0 then none else some (repairWord s (4 * (index - 0x7200) + (sub - 1)))
  else if index = 0x72F0 then some (s.health.repairGen % 2 ^ 32)
  else if 0x7400 ≤ index ∧ index < 0x74E0 then
    if sub = 0 then none
    else some (healthRec s (64 * (index - 0x7400) + 16 * ((sub - 1) / 9) + (sub - 1) % 9))
  else if index = 0x8000 then
    (match sub with
      | 6 => some s.mgmt.sessions.length
      | 9 => some s.mgmt.blocked.length
      | _ => none)
  else if index = 0x8030 then
    (match sub with
      | 4 => some (bcIdReg s)
      | 5 => some (bcStateReg s)
      | 6 => some (bcArbReg s)
      | 7 => some (bcI3cReg s)
      | _ => none)
  else if index = 0x9000 then
    (match sub with
      | 1 => some s.mgmt.logNext
      | 3 => some (s.mgmt.logNext - 4096)
      | 4 => some (s.mgmt.keepNext % 2 ^ 32)
      | _ => none)
  else if 0xA100 ≤ index ∧ index < 0xA110 then
    let m := index - 0xA100
    (match sub with
      | 1 => some (if dieMute s (siteOfMem m) then 0x8000 else (msite s m).temp.toNat)
      | 4 => some (arbLockReg (msite s m))
      | _ => none)
  else none

/-- Value of an entry of at most 8 bytes. -/
def entryVal (s : State) (index sub : Nat) : Nat := (liveVal s index sub).getD (dget s index sub)

/-- Number of the record that place i of a log of n places holds: the newest of its residue (R489, R490). -/
def newestAt (next n i : Nat) : Option Nat :=
  if next = 0 then none
  else
    let back := (next - 1 + n - i % n) % n
    if next - 1 < back then none else some (next - 1 - back)

/-- Record q of a log whose newest record is next - 1; empty when it is not held. -/
def logAt (l : List Ev) (next q : Nat) : Option Ev := if q + l.length < next then none else l[q + l.length - next]?

/-- A log record as a requester sees it (R491). -/
def logBytes (held : Option Nat) (l : List Ev) (next n i : Nat) : List Byte :=
  match newestAt next n i with
  | none => []
  | some q => match logAt l next q with
    | none => []
    | some e =>
      let shown : Bool := match held with
        | some p => e.part == p || e.part == 0xFF
        | none => true
      if shown then evBytes e (q % 2 ^ 32) else List.replicate 32 0

/-- Drill record (Table 13.9) and its reset. -/
def drillBytes (r : DrillRec) : List Byte :=
  leBytes 32 (fld 0 4 r.ver.toNat + fld 4 4 r.kind.toNat + fld 8 4 r.part.toNat + fld 16 16 r.target.toNat
    + fld 32 32 r.window.toNat + fld 64 64 r.trigger.toNat + fld 128 16 r.repeat_.toNat + fld 144 32 r.interval.toNat)

def drillEmpty : DrillRec := ⟨1, 0, 0, 0, 10000, 0, 1, 0⟩

/-- A drill record read from its 32 bytes; reserved bits are ignored (R9). -/
def drillParse (bs : List Byte) : Option DrillRec :=
  let n := leNat bs
  if bs.length ≠ 32 then none
  else some ⟨BitVec.ofNat 4 (bits n 3 0), BitVec.ofNat 4 (bits n 7 4), BitVec.ofNat 4 (bits n 11 8),
    BitVec.ofNat 16 (bits n 31 16), BitVec.ofNat 32 (bits n 63 32), BitVec.ofNat 64 (bits n 127 64),
    BitVec.ofNat 16 (bits n 143 128), BitVec.ofNat 32 (bits n 175 144)⟩

/-- Domain report (Table 11.4). -/
def reportBytes (s : State) (d : Nat) : List Byte :=
  let r := agetD d ⟨0, 0, 0⟩ s.pwr.reports
  leBytes 4 (dget s (0x2400 + d) 1 % 4 + 4) ++ leBytes 4 r.val ++ leBytes 4 r.peak ++ leBytes 8 r.prc

/-- "LKC2-216" (Table 14.15). -/
def orderCode : List Byte := [0x4C, 0x4B, 0x43, 0x32, 0x2D, 0x32, 0x31, 0x36]

/-- Contents of an OCT, STR or REC entry. -/
def entryBytes (s : State) (who : Who) (index sub : Nat) : List Byte :=
  if index = 0x1000 then
    (match sub with
      | 1 => Config.deviceId
      | 2 => Config.deviceCert
      | 3 => Config.caCert
      | 4 => orderCode
      | 5 => Config.serialNo
      | _ => Config.mgmtMac)
  else if 0x1011 ≤ index ∧ index ≤ 0x1014 then
    (match runningOf s (index - 0x1011) with
      | some b => b.digest
      | none => List.replicate 48 0)
  else if 0x1110 ≤ index ∧ index < 0x1120 then agetD (index - 0x1110) [] s.mgmt.licences
  else if 0x2400 ≤ index ∧ index < 0x26D0 then reportBytes s (index - 0x2400)
  else if index = 0x5010 then
    leBytes 8 s.fab.cmap.1 ++ leBytes 4 s.fab.cmap.2.1 ++ leBytes 4 1
      ++ (List.range 240).flatMap fun t => leBytes 2 (agetD t 0 s.fab.cmap.2.2)
  else if index = 0x5020 then
    leBytes 8 s.fab.holesPrc ++ leBytes 8 1
      ++ (List.range 120).flatMap fun t => leBytes 1 (agetD (2 * t) 0 s.fab.holes + 16 * agetD (2 * t + 1) 0 s.fab.holes)
  else if 0x5900 ≤ index ∧ index < 0x5960 then
    (match (link s (index - 0x5900)).caps with
      | some c => capsBytes c
      | none => List.replicate 64 0)
  else if index = 0x6010 then leBytes 32 (topoRec s)
  else if 0x6810 ≤ index ∧ index < 0x6814 then
    (if sub = 3 then Config.portMac (index - 0x6810) else leBytes 16 (dget s index sub))
  else if 0x6A00 ≤ index ∧ index < 0x6A10 then leBytes 16 (dget s index sub)
  else if 0x7080 ≤ index ∧ index < 0x7088 then
    (match aget (index - 0x7080) s.health.drills with
      | some d => drillBytes d.rec_
      | none => drillBytes drillEmpty)
  else if index = 0x8010 then (ownerKey48 s).getD []
  else if index = 0x8100 then s.mgmt.report
  else if 0x9100 ≤ index ∧ index < 0x9200 then
    logBytes (heldTo s who) s.mgmt.log s.mgmt.logNext 4096 (16 * (index - 0x9100) + (sub - 1))
  else if 0x9200 ≤ index ∧ index < 0x9210 then
    logBytes (heldTo s who) s.mgmt.kept s.mgmt.keepNext 256 (16 * (index - 0x9200) + (sub - 1))
  else []

/-- Bytes of a value of a type of at most 8 bytes; 0 for OCT, STR and REC (Table 15.2). -/
def CTy.width : CTy → Nat
  | .num n => n
  | .bool => 1
  | .s16 => 2
  | .f32 => 4
  | _ => 0

/-- Data of an entry. -/
def entryData (s : State) (who : Who) (r : CRow) (index sub : Nat) : List Byte :=
  if r.ty.width = 0 then entryBytes s who index sub else leBytes r.ty.width (entryVal s index sub)

/-- A read of an entry: status (Table 14.10) and data. -/
def cairnRead (s : State) (who : Who) (index sub : Nat) : Nat × List Byte :=
  match whoLevel s who with
  | none => (1, [])
  | some lv =>
    if lv = 0 ∧ openRead index sub = false then (1, [])
    else match cairnRow index sub with
      | none => (2, [])
      | some r =>
        if r.acc = .wo then (1, [])
        else if foreignEntry s who index then (3, [])
        else if busLocked s who false index sub then (4, [])
        else (0, entryData s who r index sub)

/-! ## What writes do -/

/-- Value within the range that the entry's table gives. -/
def CRange.ok : CRange → Nat → Bool
  | .any, _ => true
  | .between lo hi, v => decide (lo ≤ v) && decide (v ≤ hi)
  | .oneOf vs, v => vs.contains v
  | .zero, v => v == 0

/-- What a write gives: the state and the status of Table 14.10. -/
abbrev Written := State × Nat

/-- Shape, sizes, coordinate and rappel mode (R276, R451, Table 8.4): the settings as a write would leave them stay within the
licence, a used dimension has 2 panels or more, and each coordinate lies below its size. -/
def writeTopo (s : State) (sub v : Nat) : Written :=
  let t := dset s 0x5800 sub v
  let g := configTopo t
  let panels := topoPanels g
  let sizeOk : Bool := decide (g.shape ≤ shapeMax s) && decide (panels ≤ max 1 (panelsMax s))
    && (List.range g.shape).all fun k => decide (2 ≤ [g.nx, g.ny, g.nz].getD k 1)
  let rapOk : Bool := !g.rappel || (rappelOk s && (g.shape != 3 || (decide (g.nx ≤ 8) && decide (g.ny ≤ 8) && decide (panels ≤ 1024))))
  let used (k : Nat) : Nat := if k < g.shape then [g.nx, g.ny, g.nz].getD k 1 else 1
  let atOk : Bool := decide (g.x < used 0) && decide (g.y < used 1) && decide (g.z < used 2) && decide (dget t 0x5800 5 < 2 ^ 24)
  if sizeOk && rapOk && atOk then (t, 0) else (s, 3)

/-- 0x6100 + p.06: switch on, switch off, delete (Table 12.11, R399, R400, R408, R485). -/
def writeSwitch (s : State) (p v : Nat) : Written :=
  match v with
  | 1 =>
    if partSt s p = 2 then (s, 4)
    else if mayStart s p = false then (s, 3)
    else if inBivouac s then (modeConflict s 6 1 p, 3)
    else if panelReady s then (startPart s p, 0) else (s, 3)
  | 2 => if partSt s p = 5 then (s, 4) else if partSt s p = 3 then (askOff s p, 0) else (s, 3)
  | _ => if partSt s p = 1 then (deletePart s p, 0) else (s, 3)

/-- 0x6100 + p.07 (R402, R406): a core id selects the unit at levels 1 to 3; a request during a panel reset joins it. -/
def writeReset (s : State) (p v : Nat) : Written :=
  let level := bits v 31 28
  let c := bits v 12 0
  if level = 0 ∨ 4 < level ∨ 7168 ≤ c ∨ partOfCore s c ≠ p ∨ partSt s p < 2 then (s, 3)
  else if panelReady s = false then (s, 0)
  else if level = 4 then (askPartReset s p c, 0)
  else (beginReset s level (if level = 1 then c else if level = 2 then c / 8 else c / 16) c, 0)

/-- Entries of a partition (Table 15.6). -/
def writePart (s : State) (p sub v : Nat) : Written :=
  let set (f : PartField) : Written := if defineOk s p f then (define s p f, 0) else (s, 3)
  match sub with
  | 2 => set (.rect (BitVec.ofNat 32 v))
  | 3 => set (.sites (BitVec.ofNat 16 v))
  | 4 => set (.owner (BitVec.ofNat 32 v))
  | 6 => writeSwitch s p v
  | 7 => writeReset s p v
  | 12 => askCommit s p
  | 16 => if v = 0 ∨ (100 ≤ v ∧ v ≤ 1000000) then (dset s (0x6100 + p) sub v, 0) else (s, 3)
  | _ => (dset s (0x6100 + p) sub v, 0)

/-- Entries of a command ring: settled only while the ring is disabled (R305, Table 15.4). -/
def writeCring (s : State) (r sub v : Nat) : Written :=
  let on : Bool := dget s (0x6880 + r) 5 == 1
  if sub = 5 then
    if v = 0 then (cringEnable s r false, 0)
    else if on = true ∨ ringCfgValid s r = false then (s, 3) else (cringEnable s r true, 0)
  else if on then (s, 3) else (dset s (0x6880 + r) sub v, 0)

/-- Another ring is the asynchronous ring of partition p; rings that no partition owns do not meet (Table 9.15). -/
def asyncTaken (s : State) (r p : Nat) : Bool :=
  p != 0xFF && (List.range 128).any fun q => q != r && dget s (0x6900 + q) 7 == 1 && dget s (0x6900 + q) 1 == p

/-- Entries of an event ring (R325, R327, R328, Table 15.4). -/
def writeEring (s : State) (r sub v : Nat) : Written :=
  let on : Bool := dget s (0x6900 + r) 9 == 1
  if sub = 9 then
    if v = 0 then (eringEnable s r false, 0)
    else if on then (s, if (ering s r).state = 1 then 0 else 3)
    else if eringCfgValid s r then (eringEnable s r true, 0) else (s, 3)
  else if on = true ∧ sub ≠ 1 then (s, 3)
  else if sub = 7 ∧ v = 1 ∧ asyncTaken s r (dget s (0x6900 + r) 1) = true then (s, 3)
  else if sub = 1 ∧ dget s (0x6900 + r) 7 = 1 ∧ asyncTaken s r v = true then (s, 3)
  else (dset s (0x6900 + r) sub v, 0)

/-- Quotas of the other partitions on a host die (R333). -/
def otherQuotas (s : State) (p : Nat) : Nat :=
  (((List.range 16).filter fun q => q != p).map fun q => dget s (0x6A00 + q) 6).sum

/-- A write of an entry of at most 8 bytes, its value within its table's range. -/
def writeVal (s : State) (who : Who) (index sub v : Nat) : Written :=
  let put : Written := (dset s index sub v, 0)
  if 0x2100 ≤ index ∧ index < 0x21F0 then
    let site := index - 0x2100
    (match sub with
      | 1 => (pwrRailWrite s site v, 0)
      | 2 => (pwrRegionWrite s (2 * dieOfSite site) v, 0)
      | _ => (pwrRegionWrite s (2 * dieOfSite site + 1) v, 0))
  else if 0x2400 ≤ index ∧ index < 0x26D0 then
    (if sub = 1 then (rearm (dset s index sub v) (index - 0x2400), 0)
     else (if dget s index 1 = 1 then rearm s (index - 0x2400) else s, 0))
  else if index = 0x4000 ∧ sub = 3 then (if v ≤ stepMax s then put else (s, 3))
  else if index = 0x5800 ∧ sub ≤ 7 then writeTopo s sub v
  else if 0x5900 ≤ index ∧ index < 0x5960 ∧ sub = 4 then
    let l := index - 0x5900
    (if ctlAllowed s l v then (linkCtl (dset s index sub v) l v, 0) else (s, 3))
  else if index = 0x6000 then (if dget s 0x6000 1 = 3 then (s, 4) else if mayWarm s then (askWarm s, 0) else (s, 3))
  else if 0x6100 ≤ index ∧ index < 0x6110 then writePart s (index - 0x6100) sub v
  else if 0x6810 ≤ index ∧ index < 0x6814 ∧ sub = 9 then
    (if s.host.restarting.contains (index - 0x6810) then (s, 4) else (restartPort s (index - 0x6810), 0))
  else if 0x6880 ≤ index ∧ index < 0x6900 then writeCring s (index - 0x6880) sub v
  else if 0x6900 ≤ index ∧ index < 0x6980 then writeEring s (index - 0x6900) sub v
  else if 0x6A00 ≤ index ∧ index < 0x6A10 ∧ sub = 6 then (if otherQuotas s (index - 0x6A00) + v ≤ 1024 then put else (s, 3))
  else if index = 0x7000 ∧ sub = 5 then (if v = 1 ∧ dget s index sub = 1 then (s, 4) else put)
  else if index = 0x7010 then askAction s v
  else if 0x7800 ≤ index ∧ index < 0x790B then perturb s (index - 0x7800) (sub - 1) v
  else if index = 0x8030 ∧ sub = 2 then (dset s index sub (dget s index sub &&& (v ||| 1)), 0)
  else if index = 0x8100 ∧ sub = 5 then askReport s
  else if index = 0x8200 then
    (match sub with
      | 1 => stageBegin s who v
      | 2 => stageAppend s who v
      | _ => stageEnd s who)
  else if 0xA100 ≤ index ∧ index < 0xA110 ∧ sub = 4 then
    (modMsite s (index - 0xA100) fun x => { x with locks := [] }, 0)
  else put

/-- A write of an OCT or REC entry of the right length. -/
def writeBytes (s : State) (index sub : Nat) (bs : List Byte) : Written :=
  if index = 0x1100 then installLicence s bs
  else if 0x7080 ≤ index ∧ index < 0x7088 then
    (match drillParse bs with
      | some r => armDrill s (index - 0x7080) r
      | none => (s, 3))
  else (dset s index sub (leNat bs), 0)

/-- The access code forbids a write at a level (Table 0.5). -/
def accDenied (a : CAcc) (level : Nat) : Bool :=
  a == .ro || a == .const || (a == .rwp && decide (level < 2))

/-- The entry is written through management sessions and the monitor only (R452). -/
def slotDenied (who : Who) (r : CRow) : Bool :=
  match who with
  | .qp _ _ => r.ty.width == 0
  | _ => false

/-- Length of an entry that accepts writes. -/
def CTy.len : CTy → Nat
  | .oct n => n
  | .record n => n
  | t => t.width

/-- The checks of a write whose row is known, and the write. -/
def writeRow (s : State) (who : Who) (lv : Nat) (r : CRow) (index sub : Nat) (bs : List Byte) : Written :=
  if accDenied r.acc lv then (s, 1)
  else if foreignEntry s who index then (s, 3)
  else if slotDenied who r then (s, 1)
  else if busLocked s who true index sub then (s, 4)
  else if bs.length ≠ r.ty.len then (s, 5)
  else if r.ty.width = 0 then writeBytes s index sub bs
  else if CRange.ok r.rng (leNat bs) = false then (s, 3)
  else writeVal s who index sub (leNat bs)

/-- A write of an entry, with its status (Table 14.10). A refused write changes nothing, but for events (R12). -/
def cairnWrite (s : State) (who : Who) (index sub : Nat) (bs : List Byte) : Written :=
  match whoLevel s who with
  | none => (s, 1)
  | some lv =>
    if lv = 0 ∧ openWrite index sub = false then (s, 1)
    else match cairnRow index sub with
      | none => (s, 2)
      | some r => writeRow s who lv r index sub bs

/-- The cairn-refused event of an operation of a QP (R304). -/
def cairnRefused (s : State) (h : Nat) (qpn : BitVec 24) (index sub status : Nat) : State :=
  match findQp s h qpn with
  | some q => raise s 0x0013 q.part (pf 0 24 (cairnSlot index sub) ||| pf 24 8 status ||| pf 40 24 qpn.toNat)
  | none => s

/-- A write of an 8-byte slot of the Cairn window (R303, R304): bytes above the entry's width must be zero. -/
def slotWrite (s : State) (h : HostNo) (qpn : BitVec 24) (n : Nat) (v : Word) : State :=
  let index := n / 256
  let sub := n % 256
  let w := match cairnRow index sub with
    | some r => r.ty.width
    | none => 8
  let x : Written :=
    if w = 0 then cairnWrite s (.qp h qpn) index sub []
    else
      let y := cairnWrite s (.qp h qpn) index sub (leBytes w v.toNat)
      if y.2 ≠ 1 ∧ y.2 ≠ 2 ∧ 2 ^ (8 * w) ≤ v.toNat then (s, 3) else y
  if x.2 = 0 then x.1 else cairnRefused x.1 h.val qpn index sub x.2

/-- A read of an 8-byte slot of the Cairn window (R303, R304): the value, or the length of an OCT, STR or REC entry. -/
def slotRead (s : State) (who : Who) (n : Nat) : Nat × List Byte :=
  let index := n / 256
  let sub := n % 256
  let x := cairnRead s who index sub
  match cairnRow index sub with
  | some r => if x.1 ≠ 0 then (x.1, List.replicate 8 0)
    else (0, leBytes 8 (if r.ty.width = 0 then x.2.length else leNat x.2))
  | none => (x.1, List.replicate 8 0)

/-! ## Rows -/

/-- The endpoint may reach the registers of an owner: its own partition, a host die, which has checked its window, or base-camp
firmware (R111, R265, R298). -/
def mayTouch (s : State) (by_ owner : Nat) : Bool :=
  match epKind by_ with
  | .core c => partOfCore s c == owner && partUp s owner
  | .host _ => true
  | .base => true
  | _ => false

/-- A write of a register at an endpoint, when the access is aligned and the endpoint takes it (R111, R162, R265). -/
def coreTakes (s : State) (c by_ off : Nat) : Bool := off % 8 == 0 && takesWrites s c && mayTouch s by_ (partOfCore s c)

def siteTakes (s : State) (m by_ off : Nat) : Bool :=
  off % 8 == 0 && !absorbsSite s m && !absent s (epMem m) && mayTouch s by_ (ownerOfSite s m)

/-- A Cairn entry written by a requester with a word. -/
def wordWrite (s : State) (who : Who) (index sub : Nat) (v : Word) : State :=
  match who with
  | .qp h qpn => slotWrite s h qpn (cairnSlot index sub) v
  | _ =>
    let w := match cairnRow index sub with
      | some r => r.ty.width
      | none => 8
    if w ≠ 0 ∧ 2 ^ (8 * w) ≤ v.toNat then s else (cairnWrite s who index sub (leBytes w v.toNat)).1

/-- Number of a requester of the service bus (Table 14.12). -/
def busRequester : Who → Nat
  | .qp h _ => 1 + h.val
  | .session _ => 3
  | .monitor => 7
  | .firmware => 0

/-- The operation waits for the bus, which the monitor holds (R471). -/
def busHeld (s : State) (who : Who) (write : Bool) (index sub : Nat) : Bool :=
  s.mgmt.bus.taken && match who with
    | .qp _ _ => true
    | .session _ => needsBus write index sub
    | .firmware => needsBus write index sub
    | .monitor => false

/-- A write of an entry by a requester that may have to wait for the bus. -/
def busWrite (s : State) (who : Who) (index sub : Nat) (v : Word) : State :=
  if busHeld s who true index sub then waitBus s (busRequester who) else wordWrite s who index sub v

/-- REGISTER_WRITE (R11, R12, R111, R162, R265, R357). -/
def execRegisterWrite (t : RegTarget) (v : Word) (s : State) : Host.Outcome State Fault Refusal :=
  .next
    (match t with
     | .core c off by_ => if coreTakes s c.val by_.toNat off.toNat then coreRegWrite s c.val off.toNat v else s
     | .spm c off by_ => if coreTakes s c.val by_.toNat off.toNat then spmRegWrite s c.val off.toNat v else s
     | .cru m off by_ => if siteTakes s m.val by_.toNat off.toNat then cruRegWrite s m.val off.toNat v else s
     | .cairn who index sub => if firmwareUp s then busWrite s who index.toNat sub.toNat v else s
     | .clk d => if firmwareUp s then (if s.mgmt.bus.taken then waitBus s 0 else clkStateWrite s d.val v.toNat) else s)

/-- COMMAND_RING_ENABLE (R305). -/
def execCommandRingEnable (who : Who) (r : RingNo) (on_ : Bool) (s : State) : Host.Outcome State Fault Refusal :=
  .next (if firmwareUp s then busWrite s who (0x6880 + r.val) 5 (if on_ then 1 else 0) else s)

/-- EVENT_RING_ENABLE (R328). -/
def execEventRingEnable (who : Who) (r : RingNo) (on_ : Bool) (s : State) : Host.Outcome State Fault Refusal :=
  .next (if firmwareUp s then busWrite s who (0x6900 + r.val) 9 (if on_ then 1 else 0) else s)

end Sys2Proof.Machine
end

