-- ==== Sys2Proof/Machine/Inbound.lean ====
section
/-!
DEFINITION. Inbound.lean: inbound RDMA operations (R298 to R304): the windows, the fabric messages that a host die makes of them,
and their acknowledgements.
-/
namespace Sys2Proof.Machine

open Sys2Proof

/-! ## Checks -/

/-- Longest and shortest RDMA operation (Table 9.1). -/
def rdmaLenOk (n : Nat) : Bool := decide (1 ≤ n) && decide (n ≤ rdmaMax)

/-- Key of an operation, its address, and its bytes. -/
def Inbound.rkey : Inbound → BitVec 32
  | .write k _ _ => k
  | .read k _ _ => k
  | .add k _ _ => k
  | .swap k _ _ _ => k

def Inbound.addr : Inbound → Word
  | .write _ a _ => a
  | .read _ a _ => a
  | .add _ a _ => a
  | .swap _ a _ _ => a

def Inbound.len : Inbound → Nat
  | .write _ _ bs => bs.length
  | .read _ _ n => n
  | _ => 8

def Inbound.isAtomic : Inbound → Bool
  | .add _ _ _ => true
  | .swap _ _ _ _ => true
  | _ => false

def Inbound.isRead : Inbound → Bool
  | .read _ _ _ => true
  | _ => false

/-- Salt of a partition (R298). -/
def saltOf (s : State) (p : Nat) : Nat := (Config.salt (agetD p p s.host.salts)).toNat

/-- Window that an rkey names, when it carries the partition's salt. -/
def windowOf (s : State) (p : Nat) (k : BitVec 32) : Option Nat :=
  if k.toNat / 16 = saltOf s p % 2 ^ 28 then some (k.toNat % 16) else none

/-- Spaces of a window of fabric memory (Table 9.2). -/
def windowSpaces (w : Nat) : List Nat :=
  match w with
  | 1 => [0, 1]
  | 2 => [2, 3]
  | 3 => [4]
  | _ => []

/-- Pieces of n bytes from an address: none crosses a 4 KiB granule. Offset in the operation, and length. -/
def granulesOf : Nat → Nat → Nat → Nat → List (Nat × Nat)
  | 0, _, _, _ => []
  | fuel + 1, a, pos, n =>
    if n = 0 then []
    else
      let k := min n (4096 - a % 4096)
      (pos, k) :: granulesOf fuel (a + k) (pos + k) (n - k)

/-- Pieces of an operation. -/
def inPieces (a : Word) (n : Nat) : List (Nat × Nat) := granulesOf (n / 4096 + 2) a.toNat 0 n

/-- Every byte of an operation lies in a space of the window and in the partition (R298). -/
def fabricOk (s : State) (p w : Nat) (a : Word) (n : Nat) : Bool :=
  decide (a.toNat + n ≤ 2 ^ 64) && (inPieces a n).all fun g =>
    let b := a + BitVec.ofNat 64 g.1
    (windowSpaces w).contains (spaceOf b) && (resolve s (some p) b).isSome
      && (resolve s (some p) (b + BitVec.ofNat 64 (g.2 - 1))).isSome

/-! ## Window 0 -/

/-- Host die and SRAM offset of a space 0x8 address (R302). -/
def sramOff (a : Word) : Option (Nat × Nat) :=
  let n := a.toNat
  if bits n 63 60 = 8 ∧ bits n 59 33 = 0 ∧ bits n 31 20 = 0 then some (bits n 32 32, bits n 19 0) else none

/-- Ring whose control block, or none, holds an SRAM offset: command rings, then event rings (Table 9.3). -/
def cblockRing (h off : Nat) : Option Nat := if off < 0x1000 then some (64 * h + off / 64) else none
def eblockRing (h off : Nat) : Option Nat := if 0x1000 ≤ off ∧ off < 0x2000 then some (64 * h + (off - 0x1000) / 64) else none

/-- The 64-byte line at an offset holds a record slot of an enabled command ring of the partition. -/
def slotLine (s : State) (h p off : Nat) : Bool :=
  s.host.crings.any fun e => e.1 / 64 == h && e.2.state != 0 && ringPart s e.1 == p
    && decide (ringBase s e.1 ≤ off) && decide (off < ringBase s e.1 + 64 * ringSize s e.1)

/-- Lines of n bytes from an offset. -/
def linesAt (off n : Nat) : List Nat := (List.range ((off + n - 1) / 64 - off / 64 + 1)).map fun k => 64 * (off / 64 + k)

/-- A write of window 0: a writable word of a control block, or slots (Tables 9.2 to 9.5). -/
inductive RingWrite where
  | tail (r : Nat)
  | resv (r : Nat)
  | cons (r : Nat)
  | slots
  deriving DecidableEq, Repr

/-- Where n bytes at an offset may be written. -/
def ringTarget (s : State) (h p off n : Nat) : Option RingWrite :=
  match cblockRing h off, eblockRing h off with
  | some r, _ =>
    if ringPart s r ≠ p then none
    else if off % 64 + n ≤ 8 then some (.tail r)
    else if 16 ≤ off % 64 ∧ off % 64 + n ≤ 24 then some (.resv r)
    else none
  | none, some r => if dget s (0x6900 + r) 1 = p ∧ off % 64 + n ≤ 8 then some (.cons r) else none
  | none, none =>
    if off + n ≤ 0x100000 ∧ (linesAt off n).all (slotLine s h p) = true then some .slots else none

/-- Bytes of a word replaced from place i. -/
def mergeWord (w : Word) (i : Nat) (bs : List Byte) : Word :=
  let old := leBytes 8 w.toNat
  BitVec.ofNat 64 (leNat (old.take i ++ bs ++ old.drop (i + bs.length)))

/-- Do a write of window 0. -/
def ringWrite (s : State) (h off : Nat) (bs : List Byte) : RingWrite → State
  | .tail r => tailWrite s r (mergeWord (cring s r).tail (off % 8) bs)
  | .resv r => setCring s r { cring s r with resv := mergeWord (cring s r).resv (off % 8) bs }
  | .cons r => consWrite s r (mergeWord (ering s r).cons (off % 8) bs)
  | .slots => sramWrite s h off bs

/-- A 64-byte line of window 0 as a read sees it; none where the partition has nothing there. -/
def ringLine (s : State) (h p off : Nat) : Option (List Byte) :=
  match cblockRing h off, eblockRing h off with
  | some r, _ => if ringPart s r = p then some (cringBlock s r) else none
  | none, some r => if dget s (0x6900 + r) 1 = p then some (eringBlock s r) else none
  | none, none => if slotLine s h p off then some (sramRead s h off 64) else none

/-- Lines joined; none where one is not there. -/
def joinLines : List (Option (List Byte)) → Option (List Byte)
  | [] => some []
  | none :: _ => none
  | some l :: ls => (joinLines ls).map fun r => l ++ r

/-- A read of window 0. -/
def ringRead (s : State) (h p off n : Nat) : Option (List Byte) :=
  if 0x100000 < off + n then none
  else (joinLines ((linesAt off n).map (ringLine s h p))).map fun l => (l.drop (off % 64)).take n

/-- An atomic's new word: fetch-and-add, or compare-and-swap. -/
def atomicNew (old : Word) : Inbound → Word
  | .add _ _ v => old + v
  | .swap _ _ c v => if old = c then v else old
  | _ => old

/-- What an operation that is done at the host die gives: the state and its answer, or none where its check fails. -/
abbrev Answered := Option (State × Out)

/-- An operation in window 0 on a QP of host die h: the address names the die whose SRAM it reaches (R302). -/
def inRings (s : State) (h : Nat) (qpn : BitVec 24) (p : Nat) (i : Inbound) : Answered :=
  match sramOff i.addr with
  | none => none
  | some (d, off) =>
    match i with
    | .write _ _ bs => (ringTarget s d p off bs.length).map fun t => (ringWrite s d off bs t, .ack h qpn)
    | .read _ _ n => (ringRead s d p off n).map fun bs => (s, .readResponse h qpn bs)
    | _ =>
      if off % 8 ≠ 0 then none
      else match ringTarget s d p off 8 with
        | some (.tail r) => let old := (cring s r).tail
          some (tailWrite s r (atomicNew old i), .atomicResponse h qpn old)
        | some (.resv r) => let old := (cring s r).resv
          some (setCring s r { cring s r with resv := atomicNew old i }, .atomicResponse h qpn old)
        | _ => none

/-! ## Window 4 -/

/-- Write the 8-byte slots from slot n in address order (R304). -/
def cairnSlots : State → HostNo → BitVec 24 → Nat → List (List Byte) → State
  | s, _, _, _, [] => s
  | s, h, qpn, n, b :: bs => cairnSlots (slotWrite s h qpn n (BitVec.ofNat 64 (leNat b))) h qpn (n + 1) bs

/-- Bytes in groups of 8. -/
def chunks8 : Nat → List Byte → List (List Byte)
  | 0, _ => []
  | k + 1, bs => bs.take 8 :: chunks8 k (bs.drop 8)

/-- Read slots in address order; a refused one reads as zero with its event, a locked-out one as zero (R304, Table 14.12). -/
def cairnReads : Nat → State → HostNo → BitVec 24 → Nat → State × List Byte
  | 0, s, _, _, _ => (s, [])
  | k + 1, s, h, qpn, n =>
    let x := slotRead s (.qp h qpn) n
    let t := if x.1 = 0 ∨ x.1 = 4 then s else cairnRefused s h.val qpn (n / 256) (n % 256) x.1
    let r := cairnReads k t h qpn (n + 1)
    (r.1, x.2 ++ r.2)

/-- Contents of an OCT, STR or REC entry from a byte offset (R303): zero beyond its length. -/
def cairnContents (s : State) (h : HostNo) (qpn : BitVec 24) (n off len : Nat) : State × List Byte :=
  let x : Nat × List Byte := cairnRead s (.qp h qpn) (n / 256) (n % 256)
  let small : Bool := match cairnRow (n / 256) (n % 256) with
    | some r => r.ty.width != 0
    | none => false
  let status : Nat := if x.1 = 0 && small then 2 else x.1
  if status = 0 then (s, (x.2.drop off ++ List.replicate len 0).take len)
  else (if status = 4 then s else cairnRefused s h.val qpn (n / 256) (n % 256) status, List.replicate len 0)

/-- Contents from a byte address of the area: slot n in bits [39:16], and on into the slots after it (R303). -/
def cairnArea : Nat → State → HostNo → BitVec 24 → Nat → Nat → State × List Byte
  | 0, s, _, _, _, _ => (s, [])
  | k + 1, s, h, qpn, a, len =>
    if len = 0 then (s, [])
    else
      let n := min len (2 ^ 16 - a % 2 ^ 16)
      let x := cairnContents s h qpn (a / 2 ^ 16) (a % 2 ^ 16) n
      let r := cairnArea k x.1 h qpn (a + n) (len - n)
      (r.1, x.2 ++ r.2)

/-- An operation in window 4. -/
def inCairn (s : State) (h : HostNo) (qpn : BitVec 24) (i : Inbound) : Answered :=
  let a := i.addr.toNat
  if bits a 63 60 ≠ 0xC then none
  else if bit a 59 then
    match i with
    | .read _ _ n =>
      if bits a 58 40 = 0 ∧ a % 2 ^ 40 + n ≤ 2 ^ 40 then
        let x := cairnArea (n / 2 ^ 16 + 2) s h qpn (a % 2 ^ 40) n
        some (x.1, .readResponse h.val qpn x.2)
      else none
    | _ => none
  else if bits a 58 27 ≠ 0 ∨ a % 8 ≠ 0 ∨ i.len % 8 ≠ 0 ∨ 2 ^ 27 < bits a 26 0 + i.len then none
  else match i with
    | .write _ _ bs => some (cairnSlots s h qpn (a % 2 ^ 27 / 8) (chunks8 (bs.length / 8) bs), .ack h.val qpn)
    | .read _ _ n =>
      let x := cairnReads (n / 8) s h qpn (a % 2 ^ 27 / 8)
      some (x.1, .readResponse h.val qpn x.2)
    | _ => none

/-! ## Windows 1 to 3 -/

/-- The request of a piece: registers are reached by single aligned words (R111, R162). -/
def pieceReq (d : Dest) (x : Piece) : Option Req :=
  let reg : Bool := d.space == 3 || (d.space == 2 && inWindow d.off) || (d.space == 4 && decide (d.off < 0x1000))
  match x.src with
  | .data bs =>
    if reg then (if bs.length = 8 ∧ d.off % 8 = 0 then some (regWriteReq d (BitVec.ofNat 64 (leNat bs))) else none)
    else some (writeReq 1 d.cellOff bs)
  | _ =>
    if reg then (if x.len = 8 ∧ d.off % 8 = 0 then some (regReadReq d) else none)
    else some (readReq d.cellOff x.len)

/-- Address on the fabric side of a piece, and what its message is for. -/
def pieceGoal (op : Nat) (x : Piece) : Word × Purpose :=
  match x.src, x.dst with
  | .rem a, .loc i => (a, .hostRead op i)
  | _, .rem a => (a, .hostWrite op)
  | _, _ => (0, .hostWrite op)

/-- Pieces of an operation. -/
def opPieces (i : Inbound) : List Piece :=
  (inPieces i.addr i.len).map fun g =>
    let a := i.addr + BitVec.ofNat 64 g.1
    match i with
    | .write _ _ bs => ⟨.data ((bs.drop g.1).take g.2), .rem a, g.2⟩
    | _ => ⟨.rem a, .loc g.1, g.2⟩

/-- Operation number n. -/
def findIn (s : State) (n : Nat) : Option InOp := s.host.ins.find? fun x => x.op == n

def modIn (s : State) (n : Nat) (f : InOp → InOp) : State :=
  { s with host := { s.host with ins := replaceFirst (fun x => x.op == n) f s.host.ins } }

def dropIn (s : State) (n : Nat) : State := { s with host := { s.host with ins := s.host.ins.filter fun x => x.op != n } }

/-- NAK for a cause of failure: 1 address-error; 2, 3 and 4 reset-nack, core-absent and timeout (R299). -/
def nakOf (cause : Nat) : Nat := if cause = 1 then 2 else 3

/-- Send what an operation may send, in order; a failure ends its sending. -/
def sendIn : Nat → State → Nat → State
  | 0, s, _ => s
  | k + 1, s, n =>
    match findIn s n with
    | none => s
    | some x => match x.todo with
      | [] => s
      | p :: ps =>
        let part := (findQp s x.host x.qpn).map fun q => q.part
        let g := pieceGoal n p
        match sendTo s (epHost x.host) part g.2 g.1 (fun d => pieceReq d p) with
        | .sent t => sendIn k (modIn t n fun y => { y with todo := ps, left := y.left + 1 }) n
        | .refused c => modIn s n fun y => { y with todo := [], bad := some (nakOf c) }
        | .noTag => s

/-- Data of a READ in order of position. -/
def inData (x : InOp) : List Byte := x.data.flatMap Prod.snd

/-- Answer of an operation whose messages have all ended. -/
def inAnswer (x : InOp) : Out :=
  match x.bad with
  | some r => .nak x.host x.qpn r
  | none => if x.req.isRead then .readResponse x.host x.qpn (inData x) else .ack x.host x.qpn

/-! ## The order of a QP's operations -/

/-- The host-access event, and the NAK, of a request that its window refuses (R298); one that names a reserved space raises
address-error as well (R7). -/
def windowFail (s : State) (q : Qp) (x : InOp) : State :=
  let s := reservedAccess s (epHost x.host) q.part x.req.addr
  let s := raise s 0x0012 q.part (pf 0 2 q.port ||| pf 4 4 (x.req.rkey.toNat % 16) ||| pf 8 24 x.qpn.toNat
    ||| pf 64 64 x.req.addr.toNat)
  emit s (.nak x.host x.qpn 2)

def hostNo (h : Nat) : HostNo := ⟨h % 2, Nat.mod_lt _ (by decide)⟩

/-- An operation done at the host die: its answer, or the failure of its window. -/
def answerIn (s : State) (q : Qp) (x : InOp) (r : Answered) : State :=
  match r with
  | some (t, o) => emit (dropIn t x.op) o
  | none => windowFail (dropIn s x.op) q x

/-- Begin an operation: a request of the Cairn window waits while the monitor holds the service bus (R471); its checks, and its effect or its first messages (R298, R299, R391). -/
def beginIn (s : State) (q : Qp) (x : InOp) : State :=
  if rdmaLenOk x.req.len = false then emit (dropIn s x.op) (.nak x.host x.qpn 1)
  else match windowOf s q.part x.req.rkey with
    | none => windowFail (dropIn s x.op) q x
    | some w =>
      if w = 0 then answerIn s q x (inRings s x.host x.qpn q.part x.req)
      else if w = 4 ∧ s.mgmt.bus.taken = true then waitBus s (1 + x.host)
      else if w = 4 then (if x.req.isAtomic then windowFail (dropIn s x.op) q x
        else answerIn s q x (inCairn s (hostNo x.host) x.qpn x.req))
      else if x.req.isAtomic = true ∨ inBivouac s = true ∨ fabricOk s q.part w x.req.addr x.req.len = false then
        windowFail (dropIn s x.op) q x
      else
        let ps := opPieces x.req
        sendIn (ps.length + 1) (modIn s x.op fun y => { y with started := true, todo := ps }) x.op

/-- Operations of a QP, in order (R300): the first goes on or ends, and the next begins. -/
def runIn : Nat → State → Nat → BitVec 24 → State
  | 0, s, _, _ => s
  | k + 1, s, h, qpn =>
    match s.host.ins.find? fun x => x.host == h && x.qpn == qpn with
    | none => s
    | some x =>
      match findQp s h qpn with
      | some q =>
        if q.st = .ready then
          if x.started = false then runIn k (beginIn s q x) h qpn
          else if x.todo.isEmpty ∧ x.left = 0 then runIn k (emit (dropIn s x.op) (inAnswer x)) h qpn
          else sendIn (x.todo.length + 1) s x.op
        else { s with host := { s.host with ins := s.host.ins.filter fun y => !(y.host == h && y.qpn == qpn) } }
      | none => { s with host := { s.host with ins := s.host.ins.filter fun y => !(y.host == h && y.qpn == qpn) } }

/-- Let the operations of a QP go on. -/
def pumpQp (s : State) (h : Nat) (qpn : BitVec 24) : State := runIn (2 * s.host.ins.length + 2) s h qpn

/-- Let the operations of a host die go on. -/
def pumpHost (s : State) (h : Nat) : State :=
  ((s.host.ins.filter fun x => x.host == h).map fun x => x.qpn).eraseDups.foldl (fun t q => pumpQp t h q) s

/-- A fabric message of an operation has been acknowledged, has returned data, or has failed (R299). -/
def inAck (s : State) (n : Nat) : State := modIn s n fun x => { x with left := x.left - 1 }

def inRead (s : State) (n pos : Nat) (bs : List Byte) : State :=
  modIn s n fun x => { x with left := x.left - 1, data := aput pos bs x.data }

def inFail (s : State) (n cause : Nat) : State :=
  modIn s n fun x => { x with left := x.left - 1, todo := [], bad := some (x.bad.getD (nakOf cause)) }

/-- An inbound operation arrives on a QP that works (R297, R299). -/
def arrive (s : State) (h : Nat) (qpn : BitVec 24) (i : Inbound) (ce : Bool) : State :=
  match findQp s h qpn with
  | some q =>
    if q.st = .ready then
      let s := markedBy s h qpn ce
      let x : InOp := ⟨s.host.nextOp, h, qpn, i, false, [], 0, [], none⟩
      pumpQp { s with host := { s.host with ins := s.host.ins ++ [x], nextOp := s.host.nextOp + 1 } } h qpn
    else s
  | none => s

/-- RDMA_WRITE (R299). -/
def execRdmaWrite (p : Packet) (qpn : BitVec 24) (rkey : BitVec 32) (va : Word) (data : List Byte) (s : State) :
    Host.Outcome State Fault Refusal := .next (arrive s p.host qpn (.write rkey va data) p.ce)

/-- RDMA_WRITE_IMM (R299, Table 9.1): the panel keeps no receive queue, and the immediate reaches nothing. -/
def execRdmaWriteImm (p : Packet) (qpn : BitVec 24) (rkey : BitVec 32) (va : Word) (data : List Byte) (_imm : BitVec 32)
    (s : State) : Host.Outcome State Fault Refusal := .next (arrive s p.host qpn (.write rkey va data) p.ce)

/-- RDMA_READ (R299). -/
def execRdmaRead (p : Packet) (qpn : BitVec 24) (rkey : BitVec 32) (va : Word) (len : BitVec 32) (s : State) :
    Host.Outcome State Fault Refusal := .next (arrive s p.host qpn (.read rkey va len.toNat) p.ce)

/-- FETCH_AND_ADD (R301). -/
def execFetchAndAdd (p : Packet) (qpn : BitVec 24) (rkey : BitVec 32) (va : Word) (v : Word) (s : State) :
    Host.Outcome State Fault Refusal := .next (arrive s p.host qpn (.add rkey va v) p.ce)

/-- COMPARE_AND_SWAP (R301). -/
def execCompareAndSwap (p : Packet) (qpn : BitVec 24) (rkey : BitVec 32) (va : Word) (cmp swap : Word) (s : State) : Host.Outcome State Fault Refusal := .next (arrive s p.host qpn (.swap rkey va cmp swap) p.ce)

end Sys2Proof.Machine
end

