-- ==== Sys2Proof/Machine/MemSite.lean ====
section
/-!
DEFINITION. MemSite.lean: what happens at a memory site by itself: the channel arbiter's cut-off (R245, R246), refresh
(R247), patrol (R241) and the stack's temperature (R240).
-/
namespace Sys2Proof.Machine

open Sys2Proof

/-- ARBITER_CUTOFF (R245, R246): a requester that has held its grant for more than the hold ceiling, refresh time apart, is
locked out of the channel, with the arbiter-cutoff event. held is in ticks of the PRC (log 79). -/
def execArbiterCutoff (m : MemSiteNo) (ch : Fin 32) (req : Holder 5) (s : State) :
    Host.Outcome State Fault Refusal :=
  .next
    (if lockedOut s m ch req.req ∨ req.held ≤ usTicks (dget s 0xA000 1) then s
     else raise (modMsite s m fun x => { x with locks := aput (8 * ch.val + req.req.val) true x.locks }) 0x0405
       (ownerOfSite s m) (pf 0 4 m ||| pf 4 5 ch ||| pf 9 3 req.req))

/-- ARB_LOCK_CLEAR (R246, Table 7.11): every lock-out of the site is cleared. -/
def execArbLockClear (m : MemSiteNo) (s : State) : Host.Outcome State Fault Refusal :=
  .next (modMsite s m fun x => { x with locks := [] })

/-- REFRESH (R247): the turn of a pseudo-channel is granted, or an interval is waited, at most 4. -/
def execRefresh (m : MemSiteNo) (pc : Fin 64) (granted : Bool) (s : State) : Host.Outcome State Fault Refusal :=
  .next (modMsite s m fun x =>
    { x with refWait := if granted then adel pc x.refWait else aput pc (min 4 (agetD pc 0 x.refWait + 1)) x.refWait })

/-- REFRESH_OVERDUE (R247): after 4 intervals refresh takes the grant, whoever holds it. -/
def execRefreshOverdue (m : MemSiteNo) (pc : Fin 64) (s : State) : Host.Outcome State Fault Refusal :=
  .next (if agetD pc 0 (msite s m).refWait = 4 then modMsite s m fun x => { x with refWait := adel pc x.refWait } else s)

/-- Lines of a stack (R238). -/
def hbmLines : Nat := hbmSize / 64

/-- PATROL (R241): the scrub reads a line; a locked-out patrol skips the channel (R246). -/
def execPatrol (m : MemSiteNo) (line : Nat) (e : EccObs) (s : State) : Host.Outcome State Fault Refusal :=
  .next
    (if hbmLines ≤ line then s
     else
       let s' := modMsite s m fun x => { x with patrolPos := (line + 1) % hbmLines }
       if lockedOut s m (chanOf (64 * line)) 4 then s' else hbmObs s' m (64 * line) (eccFirst 1 e))

/-- HBM_TEMP_READ (R240, Table 7.1): the stack's temperature in units of 0.125 C; the short refresh interval from 85 C;
hbm-hot above 95 C, and again only after 93 C or below. -/
def execHbmTempRead (m : MemSiteNo) (temp : BitVec 16) (s : State) : Host.Outcome State Fault Refusal :=
  .next
    (let t := temp.toInt
     let was := (msite s m).hotRaised
     let hot : Bool := decide (760 < t) || (was && decide (744 < t))
     let s' := modMsite s m fun x => { x with temp := temp, fastRef := decide (680 ≤ t), hotRaised := hot }
     if hot && !was then raise s' 0x0404 (ownerOfSite s m) (pf 0 4 m ||| pf 16 16 temp.toNat) else s')

end Sys2Proof.Machine
end

