-- ==== Sys2Proof/Machine/Monitor.lean ====
section
/-!
DEFINITION. Monitor.lean: the serial monitor (R471, R473 to R475). It runs from the anvil ROM while the standby rail is present.
What its lines carry is the manual's; how they spell it is the model's own.
-/
namespace Sys2Proof.Machine

open Sys2Proof

/-! ## Lines -/

def ascii (t : String) : List Byte := t.toList.map fun c => BitVec.ofNat 8 c.toNat

/-- A hex digit. -/
def hexDigit (n : Nat) : Byte := BitVec.ofNat 8 (if n < 10 then 0x30 + n else 0x57 + n)

/-- Bytes as pairs of hex digits. -/
def hexBytes (bs : List Byte) : List Byte := bs.flatMap fun b => [hexDigit (b.toNat / 16), hexDigit (b.toNat % 16)]

/-- 32 bytes as eight groups of eight hex digits (R474). -/
def hexGroups (bs : List Byte) : List (List Byte) := (List.range 8).map fun k => hexBytes ((bs.drop (4 * k)).take 4)

/-- A number in decimal. -/
def decimal (n : Nat) : List Byte := (Nat.toDigits 10 n).map fun c => BitVec.ofNat 8 c.toNat

def space : List Byte := [0x20]

/-- Fields of a line. -/
def fields (l : List (List Byte)) : List Byte := l.flatMap fun f => space ++ f

/-- An answer that begins with "ok". -/
def okLine (s : State) (l : List (List Byte)) : State := emit s (.line ([0x6F, 0x6B] ++ fields l))

/-- An answer that begins with "err" and a decimal code: the statuses of Table 14.10. -/
def errLine (s : State) (code : Nat) : State := emit s (.line ([0x65, 0x72, 0x72] ++ space ++ decimal code))

/-! ## Unlocking -/

def setMon (s : State) (f : MonSt → MonSt) : State := { s with mgmt := { s.mgmt with mon := f s.mgmt.mon } }

/-- The monitor takes the bus: whatever needs it from now on waits (R471). -/
def takeBus (s : State) : State :=
  if s.mgmt.bus.taken then s
  else { s with mgmt := { s.mgmt with bus := { s.mgmt.bus with taken := true, since := s.prc } } }

/-- The monitor releases the bus (R471): the host windows' operations that wait go on; the other requesters repeat theirs. -/
def giveBus (s : State) : State :=
  let t := { s with mgmt := { s.mgmt with bus := { s.mgmt.bus with taken := false, waiting := [] } } }
  (t.host.ins.map fun x => (x.host, x.qpn)).eraseDups.foldl (fun u k => pumpQp u k.1 k.2) t

/-- A command line, while the standby rail is present: it counts for the 15 minutes of the unlock (R473, R474). -/
def command (s : State) (f : State → State) : Host.Outcome State Fault Refusal :=
  .next
    (if s.tray.stbyOk then f (setMon s fun m => { m with unlocked := m.unlocked.map fun _ => s.prc })
     else s)

/-- A command that needs the unlock. -/
def unlockedCommand (s : State) (f : State → State) : Host.Outcome State Fault Refusal :=
  command s fun t => if t.mgmt.mon.unlocked.isSome then f t else errLine t 1

/-- The unlock ends, and the bus goes back. -/
def endUnlock (s : State) : State := giveBus (setMon s fun m => { m with unlocked := none, challenge := none })

/-- "cairn-monitor" (R474). -/
def monitorWord : List Byte := [0x63, 0x61, 0x69, 0x72, 0x6E, 0x2D, 0x6D, 0x6F, 0x6E, 0x69, 0x74, 0x6F, 0x72]

/-- The answer to a challenge holds (R474). -/
def answerOk (s : State) (chal answer : List Byte) : Bool :=
  match ownerKey48 s with
  | some k => answer.length == 96
      && Config.ecdsaVerify (Config.fleetKey k) (Config.sha384 (monitorWord ++ Config.deviceId ++ chal)) answer
  | none => false

/-- An unlock refused: the third locks the command for 60 s (R474). -/
def refuseUnlock (s : State) : State :=
  let n := s.mgmt.mon.refused.length + 1
  let s := setMon s fun m => { m with challenge := none, refused := if n < 3 then m.refused ++ [s.prc] else [],
                                      lockedAt := if n < 3 then m.lockedAt else some (s.prc + 60 * secTicks) }
  errLine (raise s 0x0A0C 0xFF 0) 1

/-- The unlock command is locked. -/
def unlockLocked (s : State) : Bool := match s.mgmt.mon.lockedAt with
  | some t => decide (s.prc < t)
  | none => false

/-- UNLOCK (R474). -/
def execUnlock (answer : Option (List Byte)) (s : State) : Host.Outcome State Fault Refusal :=
  command s fun t =>
    if unlockLocked t then errLine (raise t 0x0A0C 0xFF 0) 4
    else if (ownerKey48 t).isNone then refuseUnlock t
    else match answer with
      | none =>
        let c := Config.challenge t.fresh
        okLine (setMon { t with fresh := t.fresh + 1 } fun m => { m with challenge := some c }) (hexGroups c)
      | some a => match t.mgmt.mon.challenge with
        | some c =>
          if answerOk t c a then
            okLine (raise (setMon t fun m => { m with unlocked := some t.prc, challenge := none, refused := [] })
              0x0A0C 0xFF (pf 0 1 1)) []
          else refuseUnlock t
        | none => refuseUnlock t

/-- LOCK (Table 14.13). -/
def execLock (s : State) : Host.Outcome State Fault Refusal := command s fun t => okLine (endUnlock t) []

/-- UNLOCK_TIMEOUT (R474): 15 minutes without a command. -/
def execUnlockTimeout (s : State) : Host.Outcome State Fault Refusal :=
  .next
    (match s.mgmt.mon.unlocked with
     | some t => if t + 900 * secTicks ≤ s.prc then endUnlock s else s
     | none => s)

/-! ## Commands that read -/

/-- HELP (Table 14.13). -/
def execHelp (s : State) : Host.Outcome State Fault Refusal :=
  command s fun t => okLine t [ascii "help ver id state log get baud unlock lock set bus reset recover"]

/-- VER (Table 14.13). -/
def execVer (s : State) : Host.Outcome State Fault Refusal :=
  command s fun t => okLine t (decimal Config.romVer.toNat :: (List.range 4).flatMap fun k =>
    match runningOf t k with
    | some b => [decimal b.fwver, decimal b.svn, decimal (floorOf t k)]
    | none => [decimal 0, decimal 0, decimal (floorOf t k)])

/-- ID (Table 14.13). -/
def execId (s : State) : Host.Outcome State Fault Refusal :=
  command s fun t => okLine t [hexBytes Config.deviceId, orderCode, Config.serialNo]

/-- Modes in force (Table 12.8). -/
def modesInForce (s : State) : List Nat :=
  [(1, (List.range 16).any (partOff s)), (2, s.parts.rappel), (3, drillArmed s), (4, perturbActive s),
    (5, s.pwr.quench.isSome), (6, inBivouac s), (7, dget s 0x2000 7 == 1),
    (8, s.cores.any fun e => inTask e.2 && e.2.bypass),
    (9, (definedParts s).any fun p => dget s (0x6100 + p) 5 == 0)].filterMap fun x => if x.2 then some x.1 else none

/-- STATE (R442, Table 14.13): with the cause, when the ROM has started nothing. -/
def execState (s : State) : Host.Outcome State Fault Refusal :=
  command s fun t =>
    match t.mgmt.romHalt with
    | some c => okLine t [decimal (dget t 0x6000 1), decimal (dget t 0x6000 2), ascii "cause", decimal c]
    | none => okLine t (decimal (dget t 0x6000 1) :: decimal (dget t 0x6000 2) :: (modesInForce t).map decimal)

/-- LOG (Table 14.13): the last n events, 16 by default. -/
def execLog (n : Option Nat) (s : State) : Host.Outcome State Fault Refusal :=
  command s fun t =>
    let k := n.getD 16
    if k = 0 ∨ 64 < k then errLine t 3
    else
      let l := lastN k t.mgmt.log
      okLine t ((List.range l.length).map fun i =>
        hexBytes (match l[i]? with
          | some e => evBytes e ((t.mgmt.logNext - l.length + i) % 2 ^ 32)
          | none => []))

/-- GET (Table 14.13): base-camp firmware serves the dictionary. -/
def execGet (index : BitVec 16) (sub : Byte) (s : State) : Host.Outcome State Fault Refusal :=
  command s fun t =>
    if firmwareUp t = false then errLine t 4
    else
      let x := cairnRead t .monitor index.toNat sub.toNat
      if x.1 = 0 then okLine t [hexBytes x.2] else errLine t x.1

/-- BAUD (Table 14.13): it takes effect after the ok line. -/
def execBaud (n : Nat) (s : State) : Host.Outcome State Fault Refusal :=
  command s fun t =>
    if n < 115200 ∨ 3000000 < n then errLine t 3 else setMon (okLine t []) fun m => { m with baud := n }

/-! ## Commands that need the unlock -/

/-- SET (Table 14.13). -/
def execSet (index : BitVec 16) (sub : Byte) (v : List Byte) (s : State) : Host.Outcome State Fault Refusal :=
  unlockedCommand s fun t =>
    if firmwareUp t = false then errLine t 4
    else
      let x := cairnWrite t .monitor index.toNat sub.toNat v
      if x.2 = 0 then okLine x.1 [] else errLine x.1 x.2

/-- BUS_TAKE (R471). -/
def execBusTake (s : State) : Host.Outcome State Fault Refusal := unlockedCommand s fun t => okLine (takeBus t) []

/-- BUS_GIVE (R471). -/
def execBusGive (s : State) : Host.Outcome State Fault Refusal := unlockedCommand s fun t => okLine (giveBus t) []

/-- RESET_WARM (Table 14.13): as a write of 1 to 0x6000.03. -/
def execResetWarm (s : State) : Host.Outcome State Fault Refusal :=
  unlockedCommand s fun t =>
    if firmwareUp t = false then errLine t 4
    else
      let x := cairnWrite t .monitor 0x6000 3 [1]
      if x.2 = 0 then okLine x.1 [] else errLine x.1 x.2

/-- RESET_COLD (Table 14.13): every module enable drops, and the anvil ROM gives a cold boot. -/
def execResetCold (o : BootObs) (s : State) : Host.Outcome State Fault Refusal :=
  unlockedCommand s fun t => coldStart o (emit (okLine { t with tray := { t.tray with menReq := false } } []) (.pins 0 0))

/-- A recovered base-camp firmware starts at once under R442, and the boot goes on (R475). -/
def startRecovered (s : State) : State :=
  match s.parts.booting with
  | some (false, o) => coldSteps o (runSlot { s with mgmt := { s.mgmt with romHalt := none } } 0 (activeSlot s 0))
  | _ => s

/-- RECOVER (R475): under R442 it needs no unlock, and the ROM makes the checks. -/
def recover (s : State) (comp : Nat) (bundle : List Byte) : State :=
  if comp = 0 ∨ 4 < comp then errLine s 3
  else
    let x := putBundle s comp bundle
    match x.2 with
    | some _ => errLine x.1 3
    | none => if s.mgmt.romHalt.isSome ∧ comp = 1 then startRecovered (okLine x.1 []) else okLine x.1 []

/-- RECOVER (R475). -/
def execRecover (comp : Byte) (bundle : List Byte) (s : State) : Host.Outcome State Fault Refusal :=
  if s.mgmt.romHalt.isSome then command s fun t => recover t comp.toNat bundle
  else unlockedCommand s fun t => recover t comp.toNat bundle

end Sys2Proof.Machine
end

