-- ==== Sys2Proof/Machine/NetIf.lean ====
section
/-!
DEFINITION. NetIf.lean: network interfaces. Requests at their target (R207 to R213, R111, R162, R163, R190, R230, R244, R254,
R255), responses at their requester (R210, R211, R214, R221), and the timeouts of both.
-/
namespace Sys2Proof.Machine

open Sys2Proof

/-! ## Arrivals -/

/-- Kinds (Table 6.2). -/
def kWriteAck : Nat := 0x10
def kReadData : Nat := 0x11
def kRegData : Nat := 0x12
def kAddrErr : Nat := 0x13
def kNack : Nat := 0x14
def kAbsent : Nat := 0x15
def kBusy : Nat := 0x16
def kGrant : Nat := 0x17

/-- A cell of a kind stands at the NI, whose die is clocked. -/
def arrived (s : State) (ni die : Nat) (kind : Nat) (x : Cell) : Bool :=
  x.kind == BitVec.ofNat 5 kind && dieClocked s die && s.fab.net.any fun f => f.at_ == .ni ni && f.cell == x

/-- A cell for its destination endpoint. -/
def atDest (s : State) (kind : Nat) (x : Cell) : Bool :=
  arrived s (niOfEp x.dstEp.toNat) (dieNoOfEp x.dstEp.toNat) kind x

/-- The cell leaves the NI's input. -/
def sink (s : State) (x : Cell) : State := takeCell s (.ni (niOfEp x.dstEp.toNat)) x

/-- Respond to a request cell (R212, Table 6.2). -/
def answer (s : State) (x : Cell) (kind idx cnt off : Nat) (data : List Byte) : State :=
  respond s x.dstEp.toNat (Cell.src x) x.tag kind idx cnt off data

/-- A source of this panel belongs to the partition; other panels have checked theirs (R212, R216). -/
def srcMay (s : State) (x : Cell) (owner : Nat) : Bool :=
  if isHere s (Cell.src x) then
    match epKind x.srcEp.toNat with
    | .core c => partOfCore s c == owner && owner != 0xFF
    | .mem m => ownerOfSite s m == owner && owner != 0xFF
    | .host _ => true
    | .base => true
    | _ => false
  else true

/-! ## Absent and absorbing endpoints -/

/-- A request at an endpoint that is absent or absorbs gets its answer (Table 6.9); none where the endpoint takes it. -/
def notTaken (s : State) (x : Cell) : Option State :=
  let ep := x.dstEp.toNat
  if absent s ep then some (bumpNi (answer (sink s x) x kAbsent x.idx.toNat 0 0 []) (niOfEp ep) 13 63 48)
  else if absorbs s ep then some (bumpNi (answer (sink s x) x kNack x.idx.toNat 0 0 []) (niOfEp ep) 13 15 0)
  else none

/-- A contribution at such a site is discarded. -/
def contribLost (s : State) (x : Cell) : Option State :=
  let ep := x.dstEp.toNat
  if absent s ep || absorbs s ep then some (bumpNi (sink s x) (niOfEp ep) 13 47 32) else none

/-- A response at such an endpoint is discarded. -/
def respLost (s : State) (x : Cell) : Option State :=
  let ep := x.dstEp.toNat
  if absent s ep || absorbs s ep then some (bumpNi (sink s x) (niOfEp ep) 13 31 16) else none

/-! ## What one cell of a write does -/

/-- What a cell gives: the state, whether its bytes were taken, and the bytes for an engine's queue port. -/
structure CellDone where
  st : State
  ok : Bool
  port : Option (List Byte)

/-- Engine whose queue port a space 0x4 offset lies in, with the place in the descriptor (Table 7.2). -/
def portEngine (off : Nat) : Option (Nat × Nat) :=
  (List.range 3).findSome? fun e =>
    let b := 0x20000000 + 0x100000 * e
    if b ≤ off ∧ off < b + 64 then some (e, off - b) else none

/-- A reduce input port. -/
def isReducePort (off : Nat) : Bool := decide (0x10000000 ≤ off) && decide (off < 0x20000000)

/-- A contribution's cell at a reduce port (R253 to R257); the stream goes on. -/
def contribCell (s : State) (m : Nat) (x : Cell) : CellDone :=
  let off := x.offset.toNat % 2 ^ 32
  if x.offset.toNat / 2 ^ 32 = 15 ∧ isReducePort off = true then
    let r := takeContrib s m (portStream off) (Cell.src x) (portPos off) (Cell.data x)
    ⟨if r.2 then pumpStream r.1 m (portStream off) else r.1, r.2, none⟩
  else ⟨s, false, none⟩

/-- A write's cell at a site's space 0x4: a queue port, or a reduce port written by another panel's site (Table 7.2). -/
def portCell (s : State) (m : Nat) (x : Cell) : CellDone :=
  let off := x.offset.toNat % 2 ^ 32
  match portEngine off with
  | some (_, i) => ⟨s, decide (i % 48 = 0) && maySubmit s m x.srcEp.toNat, some (Cell.data x)⟩
  | none =>
    match epKind x.srcEp.toNat with
    | .mem _ => if isHere s (Cell.src x) then ⟨s, false, none⟩ else contribCell s m x
    | _ => ⟨s, false, none⟩

/-- A write's cell (R158, R163, R190, R212, R246). -/
def writeCell (s : State) (x : Cell) : CellDone :=
  let off := x.offset.toNat
  match epKind x.dstEp.toNat with
  | .core c =>
    if off + (Cell.data x).length ≤ spmSize ∧ srcMay s x (partOfCore s c) = true then ⟨spmWrite s c off (Cell.data x) true, true, none⟩
    else ⟨s, false, none⟩
  | .mem m =>
    if off / 2 ^ 32 = 15 then portCell s m x
    else if hbmOk s m 0 off (Cell.data x).length = true ∧ srcMay s x (ownerOfSite s m) = true then
      ⟨hbmWrite s m off (Cell.data x), true, none⟩
    else ⟨s, false, none⟩
  | _ => ⟨s, false, none⟩

/-! ## Target slots -/

/-- The slot of a message at an NI. -/
def isSlot (ni : Nat) (src : BitVec 28) (tag : BitVec 10) (t : TSlot) : Bool := t.ni == ni && t.src == src && t.tag == tag

def dropSlot (s : State) (ni : Nat) (src : BitVec 28) (tag : BitVec 10) : State :=
  { s with fab := { s.fab with slots := s.fab.slots.filter fun t => !isSlot ni src tag t } }

/-- A tombstone matches (R213). -/
def tombed (s : State) (ni : Nat) (x : Cell) : Bool := s.fab.tombs.any fun t => t.ni == ni && t.src == (Cell.src x) && t.tag == x.tag

/-- A cell discarded as a duplicate (R209, R213). -/
def duplicate (s : State) (ni : Nat) : State := bumpNi s ni 9 63 48

/-- The descriptor that the two cells of a queue-port write carry. -/
def portBytes (t : TSlot) : List Byte := t.port.flatMap Prod.snd

/-- A complete write is answered, its descriptor submitted first where it addressed a queue port (R212, R248). -/
def completeWrite (s : State) (x : Cell) (t : TSlot) : State :=
  let off := x.offset.toNat % 2 ^ 32
  match epKind x.dstEp.toNat, t.port with
  | .mem m, _ :: _ =>
    match portEngine off with
    | some (e, _) =>
      if t.bad = false ∧ (portBytes t).length = 64 then
        let r := submitTo s m e x.srcEp.toNat (portBytes t) none
        answer r.1 x (if r.2 then kWriteAck else kAddrErr) 0 0 0 (if r.2 then [0, 0] else [])
      else answer s x kAddrErr 0 0 0 []
    | none => answer s x kAddrErr 0 0 0 []
  | _, _ => if t.bad then answer s x kAddrErr 0 0 0 [] else answer s x kWriteAck 0 0 0 [0, 0]

/-- Count a cell in a slot. -/
def TSlot.count (t : TSlot) (x : Cell) (d : CellDone) : TSlot :=
  { t with counted := t.counted ++ [x.idx.toNat], bad := t.bad || !d.ok,
           port := match d.port with
             | some bs => aput x.idx.toNat bs t.port
             | none => t.port }

/-- A slot for a message whose first cell arrives. -/
def newSlot (s : State) (ni : Nat) (x : Cell) : TSlot :=
  ⟨ni, (Cell.src x), x.tag, x.dstEp, x.cnt.toNat, [], false, [], s.prc, dget s 0x5000 1⟩

/-- A cell of a message that has its slot: a duplicate, or one more index; the last completes the message (R209). -/
def inSlot (s : State) (ni : Nat) (x : Cell) (t : TSlot) (cellOf : State → Cell → CellDone) : State :=
  if t.counted.contains x.idx.toNat || decide (t.cnt < x.idx.toNat) then duplicate s ni
  else
    let d := cellOf s x
    let t' := t.count x d
    let u := dropSlot d.st ni (Cell.src x) x.tag
    if t'.counted.length = t.cnt + 1 then completeWrite u x t'
    else { u with fab := { u.fab with slots := u.fab.slots ++ [t'] } }

/-- A cell of a write or a contribution: its slot, a new one, or busy when none of the 256 is free (R209 to R213). -/
def takeWrite (s : State) (x : Cell) (cellOf : State → Cell → CellDone) : State :=
  let ni := niOfEp x.dstEp.toNat
  if x.cnt = 0 then
    let d := cellOf s x
    completeWrite d.st x ((newSlot s ni x).count x d)
  else match s.fab.slots.find? (isSlot ni (Cell.src x) x.tag) with
    | some t => inSlot s ni x t cellOf
    | none =>
      if 256 ≤ slotsInUse s ni then bumpNi (answer s x kBusy x.idx.toNat 0 0 []) ni 9 31 16
      else inSlot s ni x (newSlot s ni x) cellOf

/-- A request cell at its target: Table 6.9, then the tombstones (R213), then what the kind does once the cell has left the
input. -/
def request (s : State) (kind : Nat) (x : Cell) (act : State → State) : Host.Outcome State Fault Refusal :=
  .next
    (if atDest s kind x then
       (notTaken s x).getD
         (if tombed s (niOfEp x.dstEp.toNat) x then duplicate (sink s x) (niOfEp x.dstEp.toNat) else act (sink s x))
     else s)

/-- WRITE (R212). -/
def execWrite (x : Cell) (s : State) : Host.Outcome State Fault Refusal := request s 1 x fun t => takeWrite t x writeCell

/-- CONTRIB (R254, R255). -/
def execContrib (x : Cell) (s : State) : Host.Outcome State Fault Refusal :=
  .next
    (if atDest s 0x18 x then
       (contribLost s x).getD
         (if tombed s (niOfEp x.dstEp.toNat) x then duplicate (sink s x) (niOfEp x.dstEp.toNat)
          else takeWrite (sink s x) x fun t y => match epKind y.dstEp.toNat with
            | .mem m => contribCell t m y
            | _ => ⟨t, false, none⟩)
     else s)

/-! ## Reads -/

/-- Read-data cells of an answer (R212, Table 6.2). -/
def sendData (s : State) (x : Cell) (reply : Nat) (bs : List Byte) : State :=
  let cs := cellsOf bs
  cs.foldl (fun t c => answer t x kReadData c.1 (cs.length - 1) (reply + 48 * c.1) c.2) s

/-- A drilled finding goes with the answer to its requester (R329). -/
def drilledRead (s : State) (x : Cell) (m : Nat) (t : State) : State :=
  if drillWith s 7 m then { t with fab := { t.fab with drilled := t.fab.drilled ++ [(Cell.src x, x.tag)] } } else t

/-- Bytes of this panel for a read, with what its lines report (R157, R163, R239). -/
def lineRead (s : State) (x : Cell) (d : Dest) (n : Nat) (e : EccObs) (bs : List Byte) : State × Option (List Byte) :=
  let t := destObs s d n e
  (match epKind d.ep with
   | .mem m => drilledRead s x m t
   | _ => t, if eccLost (destFinding s d n e) then none else some bs)

/-- What a read finds. -/
def readCell (s : State) (x : Cell) (n : Nat) (e : EccObs) : State × Option (List Byte) :=
  let off := x.offset.toNat
  if n = 0 ∨ 24576 < n then (s, none)
  else match epKind x.dstEp.toNat with
    | .core c =>
      if off + n ≤ spmSize ∧ srcMay s x (partOfCore s c) = true then
        lineRead s x (hereDest s 2 x.dstEp.toNat off) n e (spmRead s c off n)
      else (s, none)
    | .mem m =>
      if srcMay s x (ownerOfSite s m) = false then (s, none)
      else if off / 2 ^ 32 = 15 then (s, logRead s m (off % 2 ^ 32) n)
      else if hbmOk s m 0 off n then lineRead s x (hereDest s 1 x.dstEp.toNat off) n e (hbmRead s m off n)
      else (s, none)
    | _ => (s, none)

/-- READ (R212, R239). -/
def execRead (x : Cell) (e : EccObs) (s : State) : Host.Outcome State Fault Refusal :=
  request s 2 x fun t =>
    let r := readCell t x (Cell.num x 0 3) e
    match r.2 with
    | some bs => sendData r.1 x (Cell.num x 3 5) bs
    | none => answer r.1 x kAddrErr 0 0 0 []

/-! ## Registers and signals -/

/-- A register that a cell names (Table 6.2). -/
inductive RegAt where
  | core (c off : Nat)
  | spm (c off : Nat)
  | cru (m off : Nat)
  deriving DecidableEq, Repr

/-- The register at a cell's offset that its source may reach (R111, R162, R265); none gets address-error. -/
def regAt (s : State) (x : Cell) : Option RegAt :=
  let space := x.offset.toNat / 2 ^ 32
  let off := x.offset.toNat % 2 ^ 32
  if off % 8 ≠ 0 then none
  else match epKind x.dstEp.toNat with
    | .core c =>
      if srcMay s x (partOfCore s c) = false then none
      else if space = 3 ∧ off < 0x10000 then some (.core c off)
      else if space = 2 ∧ 0xFF000 ≤ off ∧ off < 0x100000 then some (.spm c (off - 0xFF000))
      else none
    | .mem m => if space = 4 ∧ off < 0x1000 ∧ srcMay s x (ownerOfSite s m) = true then some (.cru m off) else none
    | _ => none

/-- The answer to a register cell that names none: address-error, with the event where the space that it names is reserved
(R7, R111). -/
def noReg (s : State) (x : Cell) : State :=
  let t := if reservedSpace (x.offset.toNat / 2 ^ 32) then
    addressErrorEv s x.srcEp.toNat (partOfEp s x.dstEp.toNat)
      (BitVec.ofNat 64 (x.offset.toNat / 2 ^ 32 * 2 ^ 60 + x.offset.toNat % 2 ^ 32)) else s
  answer t x kAddrErr 0 0 0 []

def writeReg (s : State) (v : Word) : RegAt → State
  | .core c off => coreRegWrite s c off v
  | .spm c off => spmRegWrite s c off v
  | .cru m off => cruRegWrite s m off v

def readReg (s : State) : RegAt → Word
  | .core c off => coreReg s c off
  | .spm c off => spmReg s c off
  | .cru m off => cruReg s m off

/-- REG_WRITE (R111). -/
def execRegWrite (x : Cell) (s : State) : Host.Outcome State Fault Refusal :=
  request s 3 x fun t =>
    match regAt t x with
    | some r => answer (writeReg t (BitVec.ofNat 64 (Cell.num x 0 8)) r) x kWriteAck 0 0 0 [0, 0]
    | none => noReg t x

/-- REG_READ (R111). -/
def execRegRead (x : Cell) (s : State) : Host.Outcome State Fault Refusal :=
  request s 4 x fun t =>
    match regAt t x with
    | some r => answer t x kRegData 0 0 0 (leBytes 8 (readReg t r).toNat)
    | none => noReg t x

/-- SIGNAL (R97): the counter gains one whatever the task state. -/
def execSignal (x : Cell) (s : State) : Host.Outcome State Fault Refusal :=
  request s 5 x fun t =>
    match epKind x.dstEp.toNat with
    | .core c =>
      if Cell.byte x 0 < 64 ∧ srcMay t x (partOfCore t c) = true then
        answer (modCore t c fun k => k.bumpEv (Cell.byte x 0)) x kWriteAck 0 0 0 [0, 0]
      else answer t x kAddrErr 0 0 0 []
    | _ => answer t x kAddrErr 0 0 0 []

/-- CREDIT_REQUEST (R254, Table 7.6). -/
def execCreditRequest (x : Cell) (s : State) : Host.Outcome State Fault Refusal :=
  request s 6 x fun t =>
    match epKind x.dstEp.toNat with
    | .mem m =>
      let n := Cell.byte x 0 % 64
      let r := grantCredits t m n (Cell.src x) (Cell.num x 2 2)
      answer r.1 x kGrant 0 0 0 (leBytes 1 n ++ leBytes 1 r.2.1 ++ leBytes 2 r.2.2.1 ++ leBytes 4 r.2.2.2)
    | _ => answer t x kAddrErr 0 0 0 []

/-! ## Multicast -/

/-- NI of a cluster (R184). -/
def niOfCluster (k : Nat) : Nat := 4 * siteOfDie (k / 4) + k % 4

/-- Cores of a cluster that a multicast selects (R204). -/
def mcastCores (k : Nat) (x : Cell) : List Nat := (coresOfCluster k).filter fun c => x.coremask.getLsbD (c % 32)

/-- A selected core that is skipped (R207). -/
def mcastSkips (s : State) (c : Nat) : Bool := coreGated s c || absorbsCore s c

/-- A multicast's cell at a cluster: its bytes go to every selected core that takes them. -/
def mcastCell (s : State) (k : Nat) (x : Cell) : CellDone :=
  let off := x.offset.toNat
  let cs := mcastCores k x
  let gone := cs.filter fun c => absorbsCore s c && !coreGated s c
  let s := gone.foldl (fun t _ => bumpNi t (niOfCluster k) 13 47 32) s
  let dests := cs.filter fun c => !mcastSkips s c
  if off + (Cell.data x).length ≤ spmSize ∧ (dests.all fun c => srcMay s x (partOfCore s c)) = true then
    ⟨dests.foldl (fun t c => spmWrite t c off (Cell.data x) true) s, true, none⟩
  else ⟨s, false, none⟩

/-- The one write-ack of a cluster's NI, with the cores skipped (R207). -/
def mcastDone (s : State) (k : Nat) (x : Cell) (bad : Bool) : State :=
  let skipped := ((mcastCores k x).filter (mcastSkips s)).length
  respond s (epCore (8 * k)) (Cell.src x) x.tag (if bad then kAddrErr else kWriteAck) 0 0 0 (if bad then [] else leBytes 2 skipped)

/-- MWRITE (R207). -/
def execMwrite (k : ClusterNo) (x : Cell) (s : State) : Host.Outcome State Fault Refusal :=
  .next
    (let ni := niOfCluster k.val
     if arrived s ni (siteOfDie (k.val / 4)) 0x19 x then
       let t := takeCell s (.ni ni) x
       let slot := (t.fab.mslots.find? (isSlot ni (Cell.src x) x.tag)).getD (newSlot t ni x)
       if tombed t ni x || slot.counted.contains x.idx.toNat || decide (slot.cnt < x.idx.toNat) then duplicate t ni
       else
         let d := mcastCell t k.val x
         let slot' := slot.count x d
         let rest := d.st.fab.mslots.filter fun y => !isSlot ni (Cell.src x) x.tag y
         if slot'.counted.length = slot.cnt + 1 then
           mcastDone { d.st with fab := { d.st.fab with mslots := rest } } k.val x slot'.bad
         else { d.st with fab := { d.st.fab with mslots := rest ++ [slot'] } }
     else s)

/-! ## Ends of messages at their requester -/

/-- Channels and the sync queue of a core, streams and engines of a site, and operations of a host die that may have waited for a tag go on. -/
def pumpEp (s : State) (ep : Nat) : State :=
  match epKind ep with
  | .core c => runSync 8 ((List.range 8).foldl (fun t ch => runChan t c ch) s) c
  | .mem m =>
    let s := pumpSignals (msite s m).signals.length s m
    let s := (List.range 64).foldl (fun t n => if (stream t m n).isSome then pumpStream t m n else t) s
    runEngine (runEngine s m 1) m 2
  | .host h => pumpHost s h
  | _ => s

/-- Message of the response's endpoint and tag. -/
def msgOf (s : State) (x : Cell) : Option Msg := findMsg s x.dstEp.toNat x.tag.toNat

/-- A response for a closed tag, or for one with no open message (R214). -/
def stray (s : State) (x : Cell) : State := bumpNi s (niOfEp x.dstEp.toNat) 9 15 9

/-- The purposes that a kind of response answers. -/
def wantsData : Purpose → Bool
  | .movRead _ _ _ => true
  | .ldp _ _ => true
  | .hostRead _ _ => true
  | .engRead _ _ _ _ => true
  | _ => false

def wantsGrant : Purpose → Bool
  | .movCredit _ _ _ => true
  | .redCredit _ _ => true
  | _ => false

/-- A message has been acknowledged (R93, R149, R252, R299). -/
def acked (s : State) : Purpose → State
  | .movWrite c ch => movAck s c ch
  | .movSig c ch => movSigAck s c ch
  | .movContrib c ch => movAck s c ch
  | .stp c => accessDone s c none
  | .hostWrite op => inAck s op
  | .redOut m n => pumpStream s m n
  | .engWrite m eng inc => engAck s m eng inc
  | _ => s

/-- A message has returned its data (R72, R142, R299). -/
def dataCame (s : State) (p : Purpose) (bs : List Byte) : State :=
  match p with
  | .movRead c ch dst => movData s c ch dst bs
  | .ldp c _ => accessDone s c (some (BitVec.ofNat 64 (leNat bs)))
  | .hostRead op pos => inRead s op pos bs
  | .engRead m eng dst inc => engData s m eng dst bs inc
  | _ => s

/-- A message has failed: cause 1 address-error, 2 reset-nack, 3 core-absent, 4 timeout (R95, R146, R149, R249, R299). -/
def failed (s : State) (p : Purpose) (cause : Nat) (a : Word) : State :=
  match p with
  | .movRead c ch _ => movFail s c ch cause a
  | .movWrite c ch => movFail s c ch cause a
  | .movSig c ch => movFail s c ch cause a
  | .movCredit c ch _ => movFail s c ch cause a
  | .movContrib c ch => movFail s c ch cause a
  | .ldp c _ => accessLost s c cause a
  | .stp c => accessLost s c cause a
  | .esig c pc => addressFault s c uSyn pc
  | .hostWrite op => inFail s op cause
  | .hostRead op _ => inFail s op cause
  | .redOut m n => streamFail s m n
  | .redCredit m n => streamFail s m n
  | .engSig m eng tag => engineFault s m eng 2 tag.toNat
  | .engWrite m eng _ => failHead s m eng 2
  | .engRead m eng _ _ => failHead s m eng 2

/-- The message lost a cell to a drill, or a drill's finding was its answer (Table 13.10). -/
def wasDrilled (s : State) (src : BitVec 28) (tag : BitVec 10) : Bool := s.fab.drilled.contains (src, tag)

/-- A message that a drill has met ends. -/
def undrill (s : State) (src : BitVec 28) (tag : BitVec 10) : State :=
  if wasDrilled s src tag then { s with fab := { s.fab with drilled := s.fab.drilled.filter fun y => y != (src, tag) } } else s

/-- Close a message and act on its end; what a drill causes by it has the drill bit (R329). -/
def endMsg (s : State) (m : Msg) (lost : Bool) (act : State → State) : State :=
  let src := ownKey s m.ep.toNat
  pumpEp (blamed (wasDrilled s src m.tag) (closeMsg (undrill s src m.tag) m.ep.toNat m.tag.toNat lost) act) m.ep.toNat

/-- A response that the endpoint takes, for its open message. -/
def response (s : State) (kind : Nat) (x : Cell) (ok : Purpose → Bool) (f : State → Msg → State) :
    Host.Outcome State Fault Refusal :=
  .next
    (if atDest s kind x then
       (respLost s x).getD
         (let t := sink s x
          match msgOf t x with
          | some m => if ok m.purpose then f t m else stray t x
          | none => stray t x)
     else s)

/-- WRITE_ACK (R207, R212): a multicast waits for one from every NI. -/
def execWriteAck (x : Cell) (s : State) : Host.Outcome State Fault Refusal :=
  response s kWriteAck x (fun p => !wantsData p && !wantsGrant p) fun t m =>
    if m.got.length + 1 < m.want then modMsg t m.ep.toNat m.tag.toNat fun y => { y with got := y.got ++ [(y.got.length, [])] }
    else endMsg t m false fun u => acked u m.purpose

/-- Data of a message in index order. -/
def gotBytes (l : List (Nat × List Byte)) : List Byte := l.flatMap Prod.snd

/-- READ_DATA (R209, R210). -/
def execReadData (x : Cell) (s : State) : Host.Outcome State Fault Refusal :=
  response s kReadData x wantsData fun t m =>
    if (aget x.idx.toNat m.got).isSome then duplicate t (niOfEp x.dstEp.toNat)
    else
      let got := aput x.idx.toNat (Cell.data x) m.got
      if got.length < m.want then modMsg t m.ep.toNat m.tag.toNat fun y => { y with got := got }
      else endMsg t m false fun u => dataCame u m.purpose (gotBytes got)

/-- REG_DATA (R72). -/
def execRegData (x : Cell) (s : State) : Host.Outcome State Fault Refusal :=
  response s kRegData x wantsData fun t m =>
    endMsg t m false fun u => dataCame u m.purpose (leBytes 8 (Cell.num x 0 8))

/-- ADDRESS_ERROR_RESPONSE (R214). -/
def execAddressErrorResponse (x : Cell) (s : State) : Host.Outcome State Fault Refusal :=
  response s kAddrErr x (fun _ => true) fun t m => endMsg t m true fun u => failed u m.purpose 1 m.addr

/-- RESET_NACK (R214). -/
def execResetNack (x : Cell) (s : State) : Host.Outcome State Fault Refusal :=
  response s kNack x (fun _ => true) fun t m => endMsg t m true fun u => failed u m.purpose 2 m.addr

/-- CORE_ABSENT (R214). -/
def execCoreAbsent (x : Cell) (s : State) : Host.Outcome State Fault Refusal :=
  response s kAbsent x (fun _ => true) fun t m => endMsg t m true fun u => failed u m.purpose 3 m.addr

/-- The wait before a cell is sent again: 2^min(n, 6) x base for the n-th busy response of the message (R211). -/
def busyWait (s : State) (n : Nat) : Nat := usTicks (2 ^ min n 6 * dget s 0x5000 3)

/-- BUSY (R211): the cell waits to be sent again. -/
def execBusy (x : Cell) (s : State) : Host.Outcome State Fault Refusal :=
  response s kBusy x (fun _ => true) fun t m =>
    modMsg t m.ep.toNat m.tag.toNat fun y =>
      { y with busy := y.busy + 1, waiting := y.waiting ++ [(x.idx.toNat, t.prc + busyWait t (y.busy + 1))] }

/-- The cell of an index may be sent again. -/
def retryDue (s : State) (m : Msg) (idx : Nat) : Bool := m.waiting.any fun w => w.1 == idx && decide (w.2 ≤ s.prc)

/-- Panel that a request cell of this panel goes to, by its torus hops (R281). -/
def panelOf (s : State) (x : Cell) : Nat × Nat × Nat :=
  let t := s.links.topo
  let go (n at_ : Nat) (d : BitVec 5) : Nat := if n ≤ 1 then at_ else (((at_ : Int) + hopCount d) % (n : Int)).toNat
  (go t.nx t.x x.dx, go t.ny t.y x.dy, go t.nz t.z x.dz)

/-- Route a request cell anew, by the maps that its die now holds (R200). -/
def rerouteCell (s : State) (x : Cell) : Option Cell :=
  routeCell s x (panelOf s x).1 (panelOf s x).2.1 (panelOf s x).2.2

/-- BUSY_RETRY (R211): after its wait that cell is injected again on a route chosen for it now (R200); with no candidate left
the NI answers the request with core-absent. -/
def execBusyRetry (ep : BitVec 16) (tag : BitVec 10) (idx : BitVec 9) (s : State) : Host.Outcome State Fault Refusal :=
  .next
    (match findMsg s ep.toNat tag.toNat with
     | some m =>
       if retryDue s m idx.toNat then
         match m.cells[idx.toNat]? with
         | some c =>
           match rerouteCell s c with
           | some y =>
             inject (modMsg s ep.toNat tag.toNat fun y =>
               { y with waiting := dropFirst (fun w => w.1 == idx.toNat) y.waiting }) y
           | none => endMsg s m true fun u => failed u m.purpose 3 m.addr
         | none => s
       else s
     | none => s)

/-- CREDIT_GRANT (R254). A grant of none sends nothing; the contributor tries again later. -/
def execCreditGrant (x : Cell) (s : State) : Host.Outcome State Fault Refusal :=
  response s kGrant x wantsGrant fun t m =>
    let status := Cell.byte x 1
    let cells := Cell.num x 2 2
    let u := closeMsg t m.ep.toNat m.tag.toNat false
    match m.purpose with
    | .movCredit c ch _ => runSync 8 (movGrant u c ch status cells m.addr) c
    | .redCredit i n => streamGrant u i n status cells
    | _ => u

/-! ## Timeouts -/

/-- The message-timeout event (Table 9.13): side 0 target, 1 requester. -/
def timeoutEv (s : State) (part side : Nat) (src : BitVec 28) (dst tag cells counted : Nat) : State :=
  raiseD s (wasDrilled s src (BitVec.ofNat 10 tag)) 0x0302 part
    (pf 0 1 side ||| pf 16 16 (srcEpOf src) ||| pf 32 16 dst ||| pf 48 10 tag ||| pf 64 10 cells ||| pf 80 10 counted)

/-- An incomplete slot's event, counter and tombstone (R213). -/
def slotTimedOut (s : State) (t : TSlot) : State :=
  let s := timeoutEv s (partOfEp s t.dst.toNat) 0 t.src t.dst.toNat t.tag.toNat (t.cnt + 1) t.counted.length
  let mine := s.fab.tombs.filter fun y => y.ni == t.ni
  let s := if 64 ≤ mine.length then { s with fab := { s.fab with tombs := dropFirst (fun y => y.ni == t.ni) s.fab.tombs } } else s
  bumpNi { s with fab := { s.fab with tombs := s.fab.tombs ++ [⟨t.ni, t.src, t.tag, s.prc, t.limit⟩] } } t.ni 9 47 32

/-- A slot is due. -/
def slotDue (s : State) (t : TSlot) : Bool := decide (t.start + usTicks t.limit ≤ s.prc)

/-- TARGET_SLOT_TIMEOUT (R213). -/
def execTargetSlotTimeout (ni : Nat) (src : BitVec 28) (tag : BitVec 10) (s : State) : Host.Outcome State Fault Refusal :=
  .next
    (match s.fab.slots.find? (isSlot ni src tag), s.fab.mslots.find? (isSlot ni src tag) with
     | some t, _ => if slotDue s t then slotTimedOut (dropSlot s ni src tag) t else s
     | none, some t =>
       if slotDue s t then
         slotTimedOut { s with fab := { s.fab with mslots := s.fab.mslots.filter fun y => !isSlot ni src tag y } } t
       else s
     | none, none => s)

/-- TOMBSTONE_EXPIRY (R213): after twice the timeout. -/
def execTombstoneExpiry (ni : Nat) (src : BitVec 28) (tag : BitVec 10) (s : State) : Host.Outcome State Fault Refusal :=
  .next
    (let due (y : Tomb) : Bool := y.ni == ni && y.src == src && y.tag == tag && decide (y.start + usTicks (2 * y.limit) ≤ s.prc)
     { s with fab := { s.fab with tombs := s.fab.tombs.filter fun y => !due y } })

/-- Destination endpoint of a message. -/
def msgDst (m : Msg) : Nat := match m.cells with
  | x :: _ => x.dstEp.toNat
  | [] => 0

/-- REQUESTER_TIMEOUT (R214): not complete within twice the timeout of its first cell. -/
def execRequesterTimeout (ep : BitVec 16) (tag : BitVec 10) (s : State) : Host.Outcome State Fault Refusal :=
  .next
    (match findMsg s ep.toNat tag.toNat with
     | some m =>
       if m.start + usTicks (2 * m.limit) ≤ s.prc then
         let src := ownKey s ep.toNat
         let t := timeoutEv s (partOfEp s ep.toNat) 1 src (msgDst m) tag.toNat m.cells.length m.got.length
         endMsg t m true fun u => failed u m.purpose 4 m.addr
       else s
     | none => s)

/-- TAG_REOPEN (R214): a closed tag opens after twice the timeout; what waited for a tag goes on. -/
def execTagReopen (ep : BitVec 16) (tag : BitVec 10) (s : State) : Host.Outcome State Fault Refusal :=
  .next
    (let due (y : ClosedTag) : Bool := y.ep == ep && y.tag == tag && decide (y.start + usTicks (2 * y.limit) ≤ s.prc)
     let t := { s with fab := { s.fab with closed := s.fab.closed.filter fun y => !due y } }
     if freeTag s ep.toNat = 1024 then pumpEp t ep.toNat else t)

end Sys2Proof.Machine
end

