-- ==== Sys2Proof/Machine/Sessions.lean ====
section
/-!
DEFINITION. Sessions.lean: requests of an open Cairn session (R460, R464 to R468).
-/
namespace Sys2Proof.Machine

open Sys2Proof

/-- A length padded to a multiple of 8. -/
def pad8 (n : Nat) : Nat := (n + 7) / 8 * 8

/-- Bytes padded with zeros to a multiple of 8. -/
def padded (bs : List Byte) : List Byte := bs ++ List.replicate (pad8 bs.length - bs.length) 0

/-- One operation of a request body: what it leaves, and its part of the response (R466). -/
structure OpDone where
  st : State
  status : Nat
  data : List Byte
  used : Nat

/-- An operation: its head, and the bytes after the head. -/
def runOp (s : State) (who : Who) (head : Nat) (rest : List Byte) : OpDone :=
  let op := bits head 7 0
  let n := bits head 31 8
  let len := bits head 47 32
  if op = 1 then
    let x := cairnRead s who (n / 256) (n % 256)
    ⟨s, x.1, padded x.2, 8⟩
  else if op = 2 then
    if rest.length < len then ⟨s, 5, [], 8 + rest.length⟩
    else
      let x := cairnWrite s who (n / 256) (n % 256) (rest.take len)
      ⟨x.1, x.2, [], 8 + pad8 len⟩
  else ⟨s, 3, [], 8⟩

/-- Operations of a request body in order (R466): fuel, state, body, and the response so far. -/
def runOps : Nat → State → Who → List Byte → List Byte → State × List Byte
  | 0, s, _, _, resp => (s, resp)
  | fuel + 1, s, who, body, resp =>
    if body.length < 8 then (s, resp)
    else
      let head := leNat (body.take 8)
      let x := runOp s who head (body.drop 8)
      runOps fuel x.st who (body.drop x.used) (resp ++ leBytes 8 (setBits head 63 48 x.status) ++ x.data)

/-- A request body holds an operation that needs the service bus (R469). -/
def opsNeedBus : Nat → List Byte → Bool
  | 0, _ => false
  | fuel + 1, body =>
    if body.length < 8 then false
    else
      let head := leNat (body.take 8)
      let n := bits head 31 8
      let write : Bool := bits head 7 0 == 2
      needsBus write (n / 256) (n % 256) || opsNeedBus fuel (body.drop (8 + if write then pad8 (bits head 47 32) else 0))

/-- Send a response (R465). -/
def sendResponse (s : State) (x : Session) (seq : Nat) (resp : List Byte) : State :=
  let m := cairnMsg 5 x.sid seq resp
  emit s (.frame x.mac (m ++ tagOf x.keyOut m))

/-- A request that the session accepts: its operations, the response, and the end of a session whose sequence is exhausted. -/
def acceptRequest (s : State) (x : Session) (seq : Nat) (body tag : List Byte) : State :=
  let y := runOps (body.length / 8 + 1) s (.session x.sid) body []
  let t := modSession y.1 x.sid fun z => { z with last := some (seq, tag, y.2), at_ := s.prc }
  let t := sendResponse t x seq y.2
  if seq = 2 ^ 32 - 1 then endSession t x.sid 4 else t

/-- A request whose tag verifies: the next, a repetition of the last, or one that is discarded (R465). -/
def takeRequest (s : State) (x : Session) (seq : Nat) (body tag : List Byte) : State :=
  match x.last with
  | none => if seq = 0 then s else acceptRequest s x seq body tag
  | some (q, t, resp) =>
    if seq = q ∧ tag = t then sendResponse s x seq resp
    else if seq ≤ q then s
    else acceptRequest s x seq body tag

/-- A request with an operation for the service bus waits while the monitor holds it (R471). -/
def busRequest (s : State) (x : Session) (seq : Nat) (body tag : List Byte) : State :=
  if s.mgmt.bus.taken && opsNeedBus (body.length / 8 + 1) body then waitBus s 3 else takeRequest s x seq body tag

/-- REQUEST (R460, R465, R466, R467). -/
def execRequest (mac : BitVec 48) (sid : BitVec 16) (seq : BitVec 32) (body tag : List Byte) (s : State) :
    Host.Outcome State Fault Refusal :=
  .next
    (if firmwareUp s = false ∨ isBlocked s mac = true ∨ 1400 < body.length then s
     else match s.mgmt.sessions.find? fun x => x.sid == sid && x.mac == mac with
       | none => if s.mgmt.sessions.any (fun x => x.mac == mac) then s else dropFrame s
       | some x =>
         if tag = tagOf x.keyIn (cairnMsg 4 sid seq.toNat body) then busRequest s x seq.toNat body tag else badTag s x)

end Sys2Proof.Machine
end

