-- ==== Sys2Proof/Machine/Vector.lean ====
section
/-!
DEFINITION. Vector.lean: the vector unit and its instructions (R89, R90, R130 to R139, R63 to R65, Tables 4.10 to 4.12).
-/
namespace Sys2Proof.Machine

open Sys2Proof

/-- A vector register: 64 lanes; an undefined one is a free value (Table 3.10). -/
def VecSt.reg (v : VecSt) (n : Nat) : List (BitVec 32) :=
  match aget n v.v with
  | some x => x
  | none =>
    match v.free with
    | none => List.replicate 64 0
    | some q => (List.range 64).map fun l => Config.freeLane q n l

/-- A predicate. -/
def VecSt.pred (v : VecSt) (n : Nat) : BitVec 64 :=
  match aget n v.p with
  | some x => x
  | none =>
    match v.free with
    | none => 0
    | some q => Config.freePred q n

/-- An activation table. -/
def VecSt.table (v : VecSt) (n : Nat) : ActTable :=
  match aget n v.tab with
  | some x => x
  | none =>
    match v.free with
    | none => ⟨List.replicate 256 0, 0, 0⟩
    | some q => ⟨(List.range 256).map fun l => Config.freeLane q (32 + n) l, Config.freeLane q (32 + n) 256,
                 Config.freeLane q (32 + n) 257⟩

def Core.vreg (k : Core) (n : BitVec 5) : List (BitVec 32) := k.vec.reg n.toNat

def Core.setVreg (k : Core) (n : BitVec 5) (x : List (BitVec 32)) : Core :=
  { k with vec := { k.vec with v := aput n.toNat x k.vec.v } }

def Core.setPred (k : Core) (n : BitVec 3) (x : BitVec 64) : Core :=
  { k with vec := { k.vec with p := aput n.toNat x k.vec.p } }

/-- Lanes that a word enables (R89, R130). -/
def enabled (k : Core) (f : VecFields) : BitVec 64 := if f.pen then k.vec.pred f.pg.toNat else BitVec.allOnes 64

/-- The second source: s[rs][31:0] in every lane with bs, else vb (R130). -/
def second (k : Core) (f : VecFields) : List (BitVec 32) :=
  if f.bs then List.replicate 64 ((k.sreg f.rs.toNat).setWidth 32) else k.vreg f.vb

/-- Flags set by a result enter CORE_ASTAT (R66). -/
def Core.flag (k : Core) (fl : Astat) : Core := { k with astat := k.astat ||| fl }

/-- Draws of the 64 lanes: a lane that writes or forms a value under rnd = 2 steps its LFSR (R57, R58). -/
def draws (k : Core) (rnd : Nat) (on : BitVec 64) : List (Rnd × BitVec 32) :=
  (List.range 64).map fun l =>
    let st := k.vec.lfsr.getD l 0
    if on.getLsbD l then drawRnd rnd st else (if rnd = 0 then .near else .zero, st)

/-- Compute the enabled lanes with op, keeping the others of the old register and raising no flags there (R89). -/
def mapLanes (on : BitVec 64) (old : List (BitVec 32)) (op : Nat → BitVec 32 × Astat) : List (BitVec 32) × Astat :=
  let rs := (List.range 64).map fun l => if on.getLsbD l then op l else (old.getD l 0, 0)
  (rs.map Prod.fst, orFlags (rs.map Prod.snd))

/-- Elementwise instruction: op has the lane's mode and number. rounds: the word rounds by its rnd (R132). -/
def elementwise (f : VecFields) (rounds : Bool) (op : Core → Rnd → Nat → BitVec 32 × Astat) (k : Core) : Core :=
  let on := enabled k f
  let ds := if rounds then draws k f.rnd.toNat on else (List.range 64).map fun l => (.near, k.vec.lfsr.getD l 0)
  let r := mapLanes on (k.vreg f.vd) fun l => op k (ds.getD l (.near, 0)).1 l
  let k := { k with vec := { k.vec with lfsr := ds.map Prod.snd } }
  (k.setVreg f.vd r.1).flag r.2

/-- Formats of vector arithmetic (R131). -/
def arithFmt (f : VecFields) : Option Fmt :=
  match Fmt.ofCode f.fmt.toNat with
  | some .fp32 => some .fp32
  | some .int32 => some .int32
  | some .int8 => some .int8
  | some .int16 => some .int16
  | _ => none

/-- The format of an arithmetic word, FP32 where its code is none. -/
def fmtOf (f : VecFields) : Fmt := (arithFmt f).getD .fp32

/-- Check 7 of an arithmetic word: its fmt, and rnd where the FP32 form rounds (R56, R131, R132). -/
def arithCheck (f : VecFields) (rounds : Bool) : Core → Check := fun _ =>
  Check.need ((arithFmt f).isSome && !(rounds && fmtOf f == .fp32 && f.rnd == 3)) .format

/-- Check 7 of an opcode for FP32 only. -/
def fp32Check (f : VecFields) (rounds : Bool) : Core → Check := fun _ =>
  Check.need (f.fmt == 0 && !(rounds && f.rnd == 3)) .format

def noCheck : Core → Check := fun _ => .pass

/-- Run a vector instruction that has dispatched: with paired execution, a pass that differs writes nothing and stops the
task (R90). -/
def vecAct (c : Nat) (g : Glitch) (ranges : Core → List Range) (eff : State → State) (s : State) : State :=
  let k := core s c
  let k' := (k.declare true (ranges k)).advance (k.pc + 16)
  let drill := k.paired && drillWith s 2 (pcidOf s c)
  if k.paired && (g == .mismatch || drill) then
    let s := setCore s c (k.advance (k.pc + 16))
    let s := raiseCoreD s drill c 0x0104 (pf 32 20 k.pc)
    faultStop (if drill then drillOver s else makeSuspect s (pcidOf s c) 2) c 4 uVec 0 k.pc
  else readGlitch (eff (setCore s c k')) c g

/-- A vector instruction on registers alone. -/
def vecReg (s : State) (c : Nat) (g : Glitch) (check : Core → Check) (eff : Core → Core) : State :=
  dispatch s c uVec false check (fun _ => []) (fun _ => 0) (fun _ => false)
    (vecAct c g (fun _ => []) fun s => modCore s c eff)

/-- Elementwise arithmetic of two sources (R131): fp for FP32, int for the integer forms. -/
def arith2 (f : VecFields) (fp : Rnd → BitVec 32 → BitVec 32 → BitVec 32 × Astat) (int : Int → Int → Int) (rounds : Bool) :
    Core → Core :=
  elementwise f (rounds && fmtOf f == .fp32) fun k m l =>
    let a := (k.vreg f.va).getD l 0
    let b := (second k f).getD l 0
    match fmtOf f with
    | .fp32 => fp m a b
    | g => intOut g f.ovf (int (intIn g a) (intIn g b))

/-- Elementwise arithmetic of one source. -/
def arith1 (f : VecFields) (fp : Rnd → BitVec 32 → BitVec 32 × Astat) (int : Int → Int) (rounds : Bool) : Core → Core :=
  elementwise f (rounds && fmtOf f == .fp32) fun k m l =>
    let a := (k.vreg f.va).getD l 0
    match fmtOf f with
    | .fp32 => fp m a
    | g => intOut g f.ovf (int (intIn g a))

/-- Logic on raw bits. -/
def logic2 (f : VecFields) (op : BitVec 32 → BitVec 32 → BitVec 32) : Core → Core :=
  elementwise f false fun k _ l => (op ((k.vreg f.va).getD l 0) ((second k f).getD l 0), 0)

/-- The operand of vld, vst, vtload and vpst. -/
def spoOk (f : VecFields) (write : Bool) (len align : Nat) : Core → Check := fun k =>
  Check.need (opndOk k write (operand k f.spo) len align) .illegal

def spoRange (f : VecFields) (write : Bool) (len : Nat) : Core → List Range := fun k =>
  [opndRange k write (operand k f.spo) len]

/-- Words of a list of bytes. -/
def bytesWords : Nat → List Byte → List (BitVec 32)
  | 0, _ => []
  | n + 1, bs => BitVec.ofNat 32 (leNat (bs.take 4)) :: bytesWords n (bs.drop 4)

/-- Bytes of a register. -/
def wordsBytes (ws : List (BitVec 32)) : List Byte := ws.flatMap fun w => leBytes 4 w.toNat

/-- VLD (R139): enabled lanes load. -/
def vldAct (c : Nat) (f : VecFields) (loc : Loc) (s : State) : State :=
  let ws := bytesWords 64 (locRead s c loc 0 256)
  modCore s c (elementwise f false fun _ _ l => (ws.getD l 0, 0))

/-- The enabled bytes of a line among lanes written at addresses: gatherer entries for parts of at most 16 bytes (R158). -/
def gatherPart (k : Core) (line : Nat) (addrs : List Nat) : Core :=
  let here := addrs.filter fun a => a / 64 == line
  let mask := here.foldl (fun m a => m ||| lineMask (a % 64) 4) (0 : BitVec 64)
  if here.isEmpty then k else if here.length ≤ 4 then k.gather line mask else k.drainLines (64 * line) 64

/-- Predicated store: only enabled lanes are written (R139, R158). -/
def vstMasked (s : State) (c : Nat) (loc : Loc) (on : BitVec 64) (ws : List (BitVec 32)) : State :=
  let ls := (List.range 64).filter fun l => on.getLsbD l
  let s := ls.foldl (fun s l =>
    { s with spm := memWrite s.spm (spmKey c (loc.addr (4 * l))) (leBytes 4 (ws.getD l 0).toNat) }) s
  let addrs := ls.map fun l => loc.addr (4 * l)
  modCore s c fun k => ((addrs.map (· / 64)).eraseDups).foldl (fun k line => gatherPart k line addrs) k

/-- VST (R139). -/
def vstAct (c : Nat) (f : VecFields) (loc : Loc) (s : State) : State :=
  let k := core s c
  if f.pen then vstMasked s c loc (k.vec.pred f.pg.toNat) (k.vreg f.va)
  else locWrite s c loc 0 (wordsBytes ((List.range 64).map fun l => (k.vreg f.va).getD l 0)) false

/-- Vector instruction with a scratchpad operand: the operand is resolved before its ring pointer moves (R166). -/
def vecMem (s : State) (c : Nat) (f : VecFields) (g : Glitch) (write : Bool) (len align : Nat)
    (eff : Loc → State → State) : State :=
  dispatch s c uVec false (spoOk f write len align) (spoRange f write len) (fun _ => 0) (fun _ => false) fun s =>
    let loc := opndLoc (core s c) write (operand (core s c) f.spo)
    vecAct c g (spoRange f write len) (eff loc) s

/-- VLD. -/
def execVld (c : CoreId) (f : VecFields) (g : Glitch) (s : State) : Host.Outcome State Fault Refusal :=
  .next (vecMem s c f g false 256 4 (vldAct c f))

/-- VST. -/
def execVst (c : CoreId) (f : VecFields) (g : Glitch) (s : State) : Host.Outcome State Fault Refusal :=
  .next (vecMem s c f g true 256 4 (vstAct c f))

/-- VMOV. -/
def execVmov (c : CoreId) (f : VecFields) (g : Glitch) (s : State) : Host.Outcome State Fault Refusal :=
  .next (vecReg s c g noCheck (elementwise f false fun k _ l => ((k.vreg f.va).getD l 0, 0)))

/-- VBCAST. -/
def execVbcast (c : CoreId) (f : VecFields) (g : Glitch) (s : State) : Host.Outcome State Fault Refusal :=
  .next (vecReg s c g noCheck (elementwise f false fun k _ _ => ((k.sreg f.rs.toNat).setWidth 32, 0)))

/-- VTLOAD (R137): 256 values and the domain lo, inv from s[rs]. DESIGN CHOICE (log 68): pen does not mask the values. -/
def vtloadAct (c : Nat) (f : VecFields) (loc : Loc) (s : State) : State :=
  let ws := bytesWords 256 (locRead s c loc 0 1024)
  modCore s c fun k =>
    let r := (k.sreg f.rs.toNat).toNat
    { k with vec := { k.vec with
        tab := aput (f.cond.toNat % 4) ⟨ws, BitVec.ofNat 32 (bits r 31 0), BitVec.ofNat 32 (bits r 63 32)⟩ k.vec.tab } }

/-- VTLOAD. -/
def execVtload (c : CoreId) (f : VecFields) (g : Glitch) (s : State) : Host.Outcome State Fault Refusal :=
  .next (vecMem s c f g false 1024 4 (vtloadAct c f))

/-- VPSET. DESIGN CHOICE (log 68): pen does not mask the bits. -/
def execVpset (c : CoreId) (f : VecFields) (g : Glitch) (s : State) : Host.Outcome State Fault Refusal :=
  .next (vecReg s c g noCheck fun k => k.setPred f.pd (k.sreg f.rs.toNat))

/-- VPST (R139): eight bytes, a narrow write (R158). -/
def execVpst (c : CoreId) (f : VecFields) (g : Glitch) (s : State) : Host.Outcome State Fault Refusal :=
  .next (vecMem s c f g true 8 8 fun loc s =>
    locWrite s c loc 0 (leBytes 8 ((core s c).vec.pred f.pg.toNat).toNat) true)

/-- VADD. -/
def execVadd (c : CoreId) (f : VecFields) (g : Glitch) (s : State) : Host.Outcome State Fault Refusal :=
  .next (vecReg s c g (arithCheck f true) (arith2 f fpAdd (· + ·) true))

/-- VSUB. -/
def execVsub (c : CoreId) (f : VecFields) (g : Glitch) (s : State) : Host.Outcome State Fault Refusal :=
  .next (vecReg s c g (arithCheck f true) (arith2 f fpSub (· - ·) true))

/-- VMUL. -/
def execVmul (c : CoreId) (f : VecFields) (g : Glitch) (s : State) : Host.Outcome State Fault Refusal :=
  .next (vecReg s c g (arithCheck f true) (arith2 f fpMul (· * ·) true))

/-- va x b + vc, lane by lane. -/
def vfmaEff (f : VecFields) : Core → Core :=
  elementwise f (fmtOf f == .fp32) fun k m l =>
    let a := (k.vreg f.va).getD l 0
    let b := (second k f).getD l 0
    let d := (k.vreg f.vc).getD l 0
    match fmtOf f with
    | .fp32 => fpFma m a b d
    | g => intOut g f.ovf (intIn g a * intIn g b + intIn g d)

/-- VFMA. -/
def execVfma (c : CoreId) (f : VecFields) (g : Glitch) (s : State) : Host.Outcome State Fault Refusal :=
  .next (vecReg s c g (arithCheck f true) (vfmaEff f))

/-- VMIN (R134). -/
def execVmin (c : CoreId) (f : VecFields) (g : Glitch) (s : State) : Host.Outcome State Fault Refusal :=
  .next (vecReg s c g (arithCheck f false) (arith2 f (fun _ => fpMinMax false) min false))

/-- VMAX (R134). -/
def execVmax (c : CoreId) (f : VecFields) (g : Glitch) (s : State) : Host.Outcome State Fault Refusal :=
  .next (vecReg s c g (arithCheck f false) (arith2 f (fun _ => fpMinMax true) max false))

/-- va / vb; the bs field does not apply (Table 4.11). -/
def vdivEff (f : VecFields) : Core → Core :=
  elementwise f true fun k m l => fpDiv m ((k.vreg f.va).getD l 0) ((k.vreg f.vb).getD l 0)

/-- VDIV (R134). -/
def execVdiv (c : CoreId) (f : VecFields) (g : Glitch) (s : State) : Host.Outcome State Fault Refusal :=
  .next (vecReg s c g (fp32Check f true) (vdivEff f))

/-- VSQRT. -/
def execVsqrt (c : CoreId) (f : VecFields) (g : Glitch) (s : State) : Host.Outcome State Fault Refusal :=
  .next (vecReg s c g (fp32Check f true) (elementwise f true fun k m l => fpSqrt m ((k.vreg f.va).getD l 0)))

/-- VABS (R134). -/
def execVabs (c : CoreId) (f : VecFields) (g : Glitch) (s : State) : Host.Outcome State Fault Refusal :=
  .next (vecReg s c g (arithCheck f false) (arith1 f (fun _ a => (fpAbs a, 0)) (fun a => (a.natAbs : Int)) false))

/-- VNEG (R134). -/
def execVneg (c : CoreId) (f : VecFields) (g : Glitch) (s : State) : Host.Outcome State Fault Refusal :=
  .next (vecReg s c g (arithCheck f false) (arith1 f (fun _ a => (fpNeg a, 0)) (fun a => -a) false))

/-- VAND. -/
def execVand (c : CoreId) (f : VecFields) (g : Glitch) (s : State) : Host.Outcome State Fault Refusal :=
  .next (vecReg s c g noCheck (logic2 f (· &&& ·)))

/-- VOR. -/
def execVor (c : CoreId) (f : VecFields) (g : Glitch) (s : State) : Host.Outcome State Fault Refusal :=
  .next (vecReg s c g noCheck (logic2 f (· ||| ·)))

/-- VXOR. -/
def execVxor (c : CoreId) (f : VecFields) (g : Glitch) (s : State) : Host.Outcome State Fault Refusal :=
  .next (vecReg s c g noCheck (logic2 f (· ^^^ ·)))

/-- VSHL by b[4:0]. -/
def execVshl (c : CoreId) (f : VecFields) (g : Glitch) (s : State) : Host.Outcome State Fault Refusal :=
  .next (vecReg s c g noCheck (logic2 f fun a b => a <<< (b.toNat % 32)))

/-- VSHR by b[4:0]. -/
def execVshr (c : CoreId) (f : VecFields) (g : Glitch) (s : State) : Host.Outcome State Fault Refusal :=
  .next (vecReg s c g noCheck (logic2 f fun a b => a >>> (b.toNat % 32)))

/-- VSRA by b[4:0]. -/
def execVsra (c : CoreId) (f : VecFields) (g : Glitch) (s : State) : Host.Outcome State Fault Refusal :=
  .next (vecReg s c g noCheck (logic2 f fun a b => a.sshiftRight (b.toNat % 32)))

/-- Comparison of one lane (R135, Table 4.12). -/
def cmpLane (f : VecFields) (a b : BitVec 32) : Bool × Astat :=
  match fmtOf f with
  | .fp32 => fpCmp f.cond.toNat a b
  | g => (condHolds f.cond.toNat (decide (intIn g a < intIn g b)) (decide (intIn g a = intIn g b)), 0)

/-- A mask from its bits. -/
def maskOf (p : Nat → Bool) : Nat → BitVec 64
  | 0 => 0
  | n + 1 => maskOf p n ||| (if p n then BitVec.twoPow 64 n else 0)

/-- vcmp: bits of disabled lanes keep their value (R135). -/
def vcmpEff (f : VecFields) (k : Core) : Core :=
  let on := enabled k f
  let rs := (List.range 64).map fun l =>
    if on.getLsbD l then cmpLane f ((k.vreg f.va).getD l 0) ((second k f).getD l 0) else (false, 0)
  let m := maskOf (fun l => (rs.getD l (false, 0)).1) 64
  (k.setPred f.pd ((k.vec.pred f.pd.toNat &&& ~~~on) ||| (m &&& on))).flag (orFlags (rs.map Prod.snd))

/-- VCMP. -/
def execVcmp (c : CoreId) (f : VecFields) (g : Glitch) (s : State) : Host.Outcome State Fault Refusal :=
  .next (vecReg s c g (fun k => (arithCheck f false k).and (Check.need (f.cond != 7) .format)) (vcmpEff f))

/-- vsel writes every lane (R135). -/
def vselEff (f : VecFields) (k : Core) : Core :=
  let p := k.vec.pred f.pg.toNat
  k.setVreg f.vd ((List.range 64).map fun l =>
    if p.getLsbD l then (k.vreg f.va).getD l 0 else (second k f).getD l 0)

/-- VSEL. -/
def execVsel (c : CoreId) (f : VecFields) (g : Glitch) (s : State) : Host.Outcome State Fault Refusal :=
  .next (vecReg s c g noCheck (vselEff f))

/-- One step of the reduction tree with FP32 sums: lanes 0 to k - 1 (R136). -/
def treeStep (rnd k : Nat) (op : Rnd → BitVec 32 → BitVec 32 → BitVec 32 × Astat)
    (t : List (BitVec 32) × List (BitVec 32) × Astat) : List (BitVec 32) × List (BitVec 32) × Astat :=
  let rs := (List.range k).map fun l =>
    let d := drawRnd rnd (t.2.1.getD l 0)
    (op d.1 (t.1.getD l 0) (t.1.getD (l + k) 0), d.2)
  (rs.map fun r => r.1.1, rs.map Prod.snd ++ t.2.1.drop k, t.2.2 ||| orFlags (rs.map fun r => r.1.2))

/-- The tree of steps 32, 16, 8, 4, 2 and 1 (R136). -/
def tree (rnd : Nat) (op : Rnd → BitVec 32 → BitVec 32 → BitVec 32 × Astat) (vals lfsr : List (BitVec 32)) :
    List (BitVec 32) × List (BitVec 32) × Astat :=
  [32, 16, 8, 4, 2, 1].foldl (fun t k => treeStep rnd k op t) (vals, lfsr, 0)

/-- Sources of a reduction, disabled lanes replaced (R136). -/
def redSrc (k : Core) (f : VecFields) (neutral : BitVec 32) : List (BitVec 32) :=
  let on := enabled k f
  (List.range 64).map fun l => if on.getLsbD l then (k.vreg f.va).getD l 0 else neutral

/-- Lane 0 receives the result, lanes 1 to 63 zero (R136). -/
def redOut (k : Core) (f : VecFields) (r : BitVec 32) : Core := k.setVreg f.vd (r :: List.replicate 63 0)

/-- Reduction: FP32 by the tree, integers exactly and then saturated or wrapped once (R131, R136). DESIGN CHOICE (log 63): under
rnd = 2 a lane draws for the sums that it holds, not for its element. -/
def reduceEff (f : VecFields) (rounds : Bool) (fp : Rnd → BitVec 32 → BitVec 32 → BitVec 32 × Astat)
    (neutral : BitVec 32) (int : Int → Int → Int) (intNeutral : Fmt → Int) (k : Core) : Core :=
  match fmtOf f with
  | .fp32 =>
    let t := tree (if rounds then f.rnd.toNat else 0) fp (redSrc k f neutral) k.vec.lfsr
    let k := { k with vec := { k.vec with lfsr := t.2.1 } }
    (redOut k f (t.1.getD 0 0)).flag t.2.2
  | g =>
    let vs := (List.range 64).map fun l =>
      if (enabled k f).getLsbD l then intIn g ((k.vreg f.va).getD l 0) else intNeutral g
    let r := intOut g f.ovf (vs.foldl int (intNeutral g))
    (redOut k f r.1).flag r.2

/-- Least and greatest value of an integer format. -/
def intMin (g : Fmt) : Int := -(2 ^ (g.width - 1) : Nat)
def intMax (g : Fmt) : Int := (2 ^ (g.width - 1) : Nat) - 1

/-- VREDSUM. -/
def execVredsum (c : CoreId) (f : VecFields) (g : Glitch) (s : State) : Host.Outcome State Fault Refusal :=
  .next (vecReg s c g (arithCheck f true) (reduceEff f true fpAdd 0x80000000 (· + ·) fun _ => 0))

/-- VREDMAX. -/
def execVredmax (c : CoreId) (f : VecFields) (g : Glitch) (s : State) : Host.Outcome State Fault Refusal :=
  .next (vecReg s c g (arithCheck f false) (reduceEff f false (fun _ => fpMinMax true) 0xFF800000 max intMin))

/-- VREDMIN. -/
def execVredmin (c : CoreId) (f : VecFields) (g : Glitch) (s : State) : Host.Outcome State Fault Refusal :=
  .next (vecReg s c g (arithCheck f false) (reduceEff f false (fun _ => fpMinMax false) 0x7F800000 min intMax))

/-- vact (R137). -/
def vactEff (f : VecFields) : Core → Core :=
  elementwise f false fun k _ l =>
    let t := k.vec.table (f.cond.toNat % 4)
    fpAct t.vals t.lo t.inv ((k.vreg f.va).getD l 0)

/-- VACT. -/
def execVact (c : CoreId) (f : VecFields) (g : Glitch) (s : State) : Host.Outcome State Fault Refusal :=
  .next (vecReg s c g (fp32Check f false) (vactEff f))

/-- A register as one number, and back. -/
def regNat (ws : List (BitVec 32)) : Nat := leNat (wordsBytes ws)
def natReg (n : Nat) : List (BitVec 32) := bytesWords 64 (leBytes 256 n)

/-- Write packed elements: only enabled elements change (R133). -/
def putElems (w : Nat) (on : BitVec 64) (codes : List Nat) (old : List (BitVec 32)) : List (BitVec 32) :=
  if w = 32 then
    (List.range 64).map fun l => if on.getLsbD l then BitVec.ofNat 32 (codes.getD l 0) else old.getD l 0
  else
    natReg ((List.range 64).foldl (fun n l =>
      if on.getLsbD l then setBits n (w * l + w - 1) (w * l) (codes.getD l 0) else n) (regNat old))

/-- Elements of a register (R133). -/
def getElems (w : Nat) (ws : List (BitVec 32)) : List Nat :=
  if w = 32 then ws.map (·.toNat) else unpack w 64 (wordsBytes ws)

/-- A source value of vcvt with the flush of FP32 inputs, and of BF16 subnormals on the way to FP32 (R39, R40, R63). -/
def cvtIn (src tgt : Fmt) (code : Nat) : Val × Astat :=
  match src with
  | .fp32 => fpIn (BitVec.ofNat 32 code)
  | .bf16 =>
    match decodeVal .bf16 false code, tgt with
    | .fin s m e, .fp32 => if 0 < m ∧ m < 128 then (.fin s 0 e, fVecFlush) else (.fin s m e, 0)
    | v, _ => (v, 0)
  | g => (decodeVal g false code, 0)

/-- vcvt (R63, R133). -/
def vcvtEff (f : VecFields) (k : Core) : Core :=
  let src := (Fmt.ofCode f.fmt.toNat).getD .fp32
  let tgt := (Fmt.ofCode f.fmt2.toNat).getD .fp32
  let on := enabled k f
  let ds := draws k f.rnd.toNat on
  let es := getElems src.width (k.vreg f.va)
  let rs := (List.range 64).map fun l =>
    if on.getLsbD l then
      let v := cvtIn src tgt (es.getD l 0)
      let r := convVal tgt (ds.getD l (.near, 0)).1 f.ovf v.1
      (r.1, v.2 ||| r.2)
    else (0, 0)
  let k := { k with vec := { k.vec with lfsr := ds.map Prod.snd } }
  (k.setVreg f.vd (putElems tgt.width on (rs.map Prod.fst) (k.vreg f.vd))).flag (orFlags (rs.map Prod.snd))

/-- VCVT: both formats defined, mx2 = 0, rnd defined (R56, R138). -/
def execVcvt (c : CoreId) (f : VecFields) (g : Glitch) (s : State) : Host.Outcome State Fault Refusal :=
  .next (vecReg s c g (fun _ =>
    Check.need ((Fmt.ofCode f.fmt.toNat).isSome && (Fmt.ofCode f.fmt2.toNat).isSome && !f.mx2 && f.rnd != 3) .format)
    (vcvtEff f))

/-- fmt2 with mx2 = 1 names an MX form (R138). -/
def mxOk (f : VecFields) : Bool :=
  match Fmt.ofCode f.fmt2.toNat with
  | some t => f.mx2 && t.mxAllowed
  | none => false

/-- Exponent of the largest magnitude of a block; none when all are zero (R64). -/
def maxExpo : List Val → Option Int
  | [] => none
  | .fin _ m e :: vs =>
    if m = 0 then maxExpo vs
    else
      let x := (Nat.log2 m : Int) + e
      match maxExpo vs with
      | none => some x
      | some y => some (max x y)
  | _ :: vs => maxExpo vs

/-- One block packed: the codes, the scale code and the flags (R64, R65). -/
def mxPack (t : Fmt) (vs : List (Val × Astat)) (ms : List Rnd) : List Nat × Nat × Astat :=
  let fl := orFlags (vs.map Prod.snd)
  if vs.any fun v => match v.1 with | .fin _ _ _ => false | _ => true then
    (List.replicate 32 0, 0xFF, fl ||| fCvtInvalid)
  else
    let x := match maxExpo (vs.map Prod.fst) with
      | none => -127
      | some e => max (-127) (min 127 (e - t.mxEmax))
    let rs := List.zipWith (fun v m => convMx t m v.1 x) vs ms
    (rs.map Prod.fst, (x + 127).toNat, fl ||| orFlags (rs.map Prod.snd))

/-- vmxp (R138): pen is ignored; the scale codes are written after the elements. -/
def vmxpEff (f : VecFields) (k : Core) : Core :=
  let t := (Fmt.ofCode f.fmt2.toNat).getD .e2m1
  let ds := draws k f.rnd.toNat (BitVec.allOnes 64)
  let vs := (List.range 64).map fun l => fpIn ((k.vreg f.va).getD l 0)
  let b0 := mxPack t (vs.take 32) ((ds.map Prod.fst).take 32)
  let b1 := mxPack t (vs.drop 32) ((ds.map Prod.fst).drop 32)
  let k := { k with vec := { k.vec with lfsr := ds.map Prod.snd } }
  let k := k.setVreg f.vd (putElems t.width (BitVec.allOnes 64) (b0.1 ++ b1.1) (k.vreg f.vd))
  let old := k.vreg f.vc
  let w := (old.getD 0 0).toNat
  let k := k.setVreg f.vc ((List.range 64).map fun l =>
    if l = 0 then BitVec.ofNat 32 (setBits (setBits w 7 0 b0.2.1) 15 8 b1.2.1) else old.getD l 0)
  k.flag (b0.2.2 ||| b1.2.2)

/-- VMXP. -/
def execVmxp (c : CoreId) (f : VecFields) (g : Glitch) (s : State) : Host.Outcome State Fault Refusal :=
  .next (vecReg s c g (fun _ => Check.need (f.fmt == 0 && mxOk f && f.rnd != 3) .format) (vmxpEff f))

/-- A value times 2^e. -/
def scaleVal (v : Val) (e : Int) : Val :=
  match v with
  | .fin s m x => .fin s m (x + e)
  | v => v

/-- vmxu (R138, R43). -/
def vmxuEff (f : VecFields) (k : Core) : Core :=
  let t := (Fmt.ofCode f.fmt2.toNat).getD .e2m1
  let on := enabled k f
  let ds := draws k f.rnd.toNat on
  let es := getElems t.width (k.vreg f.va)
  let w := ((k.vreg f.vc).getD 0 0).toNat
  let rs := mapLanes on (k.vreg f.vd) fun l =>
    let sc := if l < 32 then bits w 7 0 else bits w 15 8
    let v := if sc = 255 then .nan else scaleVal (decodeVal t true (es.getD l 0)) ((sc : Int) - 127)
    let r := convVal .fp32 (ds.getD l (.near, 0)).1 f.ovf v
    (BitVec.ofNat 32 r.1, r.2)
  let k := { k with vec := { k.vec with lfsr := ds.map Prod.snd } }
  (k.setVreg f.vd rs.1).flag rs.2

/-- VMXU. -/
def execVmxu (c : CoreId) (f : VecFields) (g : Glitch) (s : State) : Host.Outcome State Fault Refusal :=
  .next (vecReg s c g (fun _ => Check.need (mxOk f && f.rnd != 3) .format) (vmxuEff f))

end Sys2Proof.Machine
end

