-- ==== Sys2Proof/Machine/Dispatch.lean ====
section
/-! DEFINITION. Dispatch.lean: one arm per command. -/
namespace Sys2Proof.Machine

open Sys2Proof

/-- The effect of a command on everything but the queue. -/
def exec (i : Instr) (s : State) : Host.Outcome State Fault Refusal :=
  match i with
  | .mload c f g => Sys2Proof.Machine.execMload c f g s
  | .mmul c f g => Sys2Proof.Machine.execMmul c f g s
  | .mread c f g => Sys2Proof.Machine.execMread c f g s
  | .vld c f g => Sys2Proof.Machine.execVld c f g s
  | .vst c f g => Sys2Proof.Machine.execVst c f g s
  | .vmov c f g => Sys2Proof.Machine.execVmov c f g s
  | .vbcast c f g => Sys2Proof.Machine.execVbcast c f g s
  | .vtload c f g => Sys2Proof.Machine.execVtload c f g s
  | .vpset c f g => Sys2Proof.Machine.execVpset c f g s
  | .vpst c f g => Sys2Proof.Machine.execVpst c f g s
  | .vadd c f g => Sys2Proof.Machine.execVadd c f g s
  | .vsub c f g => Sys2Proof.Machine.execVsub c f g s
  | .vmul c f g => Sys2Proof.Machine.execVmul c f g s
  | .vfma c f g => Sys2Proof.Machine.execVfma c f g s
  | .vmin c f g => Sys2Proof.Machine.execVmin c f g s
  | .vmax c f g => Sys2Proof.Machine.execVmax c f g s
  | .vdiv c f g => Sys2Proof.Machine.execVdiv c f g s
  | .vsqrt c f g => Sys2Proof.Machine.execVsqrt c f g s
  | .vabs c f g => Sys2Proof.Machine.execVabs c f g s
  | .vneg c f g => Sys2Proof.Machine.execVneg c f g s
  | .vand c f g => Sys2Proof.Machine.execVand c f g s
  | .vor c f g => Sys2Proof.Machine.execVor c f g s
  | .vxor c f g => Sys2Proof.Machine.execVxor c f g s
  | .vshl c f g => Sys2Proof.Machine.execVshl c f g s
  | .vshr c f g => Sys2Proof.Machine.execVshr c f g s
  | .vsra c f g => Sys2Proof.Machine.execVsra c f g s
  | .vcmp c f g => Sys2Proof.Machine.execVcmp c f g s
  | .vsel c f g => Sys2Proof.Machine.execVsel c f g s
  | .vredsum c f g => Sys2Proof.Machine.execVredsum c f g s
  | .vredmax c f g => Sys2Proof.Machine.execVredmax c f g s
  | .vredmin c f g => Sys2Proof.Machine.execVredmin c f g s
  | .vact c f g => Sys2Proof.Machine.execVact c f g s
  | .vcvt c f g => Sys2Proof.Machine.execVcvt c f g s
  | .vmxp c f g => Sys2Proof.Machine.execVmxp c f g s
  | .vmxu c f g => Sys2Proof.Machine.execVmxu c f g s
  | .mcopy c f => Sys2Proof.Machine.execMcopy c f s
  | .m2d c f => Sys2Proof.Machine.execM2d c f s
  | .mcontrib c f => Sys2Proof.Machine.execMcontrib c f s
  | .mfill c f => Sys2Proof.Machine.execMfill c f s
  | .moveStart c ch g => Sys2Proof.Machine.execMoveStart c ch g s
  | .moveComplete c ch => Sys2Proof.Machine.execMoveComplete c ch s
  | .eset c f => Sys2Proof.Machine.execEset c f s
  | .eadd c f => Sys2Proof.Machine.execEadd c f s
  | .ewait c f => Sys2Proof.Machine.execEwait c f s
  | .esig c f => Sys2Proof.Machine.execEsig c f s
  | .bar c f => Sys2Proof.Machine.execBar c f s
  | .barrierRelease r slot ctx => Sys2Proof.Machine.execBarrierRelease r slot ctx s
  | .add c f => Sys2Proof.Machine.execAdd c f s
  | .sub c f => Sys2Proof.Machine.execSub c f s
  | .mul c f => Sys2Proof.Machine.execMul c f s
  | .andOp c f => Sys2Proof.Machine.execAndOp c f s
  | .orOp c f => Sys2Proof.Machine.execOrOp c f s
  | .xorOp c f => Sys2Proof.Machine.execXorOp c f s
  | .shl c f => Sys2Proof.Machine.execShl c f s
  | .shr c f => Sys2Proof.Machine.execShr c f s
  | .sra c f => Sys2Proof.Machine.execSra c f s
  | .slt c f => Sys2Proof.Machine.execSlt c f s
  | .sltu c f => Sys2Proof.Machine.execSltu c f s
  | .beq c f => Sys2Proof.Machine.execBeq c f s
  | .bne c f => Sys2Proof.Machine.execBne c f s
  | .blt c f => Sys2Proof.Machine.execBlt c f s
  | .bge c f => Sys2Proof.Machine.execBge c f s
  | .bltu c f => Sys2Proof.Machine.execBltu c f s
  | .bgeu c f => Sys2Proof.Machine.execBgeu c f s
  | .jal c f => Sys2Proof.Machine.execJal c f s
  | .jalr c f => Sys2Proof.Machine.execJalr c f s
  | .ld1u c f g => Sys2Proof.Machine.execLd1u c f g s
  | .ld2u c f g => Sys2Proof.Machine.execLd2u c f g s
  | .ld4u c f g => Sys2Proof.Machine.execLd4u c f g s
  | .ld8 c f g => Sys2Proof.Machine.execLd8 c f g s
  | .ld1s c f g => Sys2Proof.Machine.execLd1s c f g s
  | .ld2s c f g => Sys2Proof.Machine.execLd2s c f g s
  | .ld4s c f g => Sys2Proof.Machine.execLd4s c f g s
  | .st1 c f => Sys2Proof.Machine.execSt1 c f s
  | .st2 c f => Sys2Proof.Machine.execSt2 c f s
  | .st4 c f => Sys2Proof.Machine.execSt4 c f s
  | .st8 c f => Sys2Proof.Machine.execSt8 c f s
  | .ldp c f => Sys2Proof.Machine.execLdp c f s
  | .stp c f => Sys2Proof.Machine.execStp c f s
  | .ifence c f => Sys2Proof.Machine.execIfence c f s
  | .rseed c f => Sys2Proof.Machine.execRseed c f s
  | .endTask c f => Sys2Proof.Machine.execEndTask c f s
  | .rprc c f => Sys2Proof.Machine.execRprc c f s
  | .rangeRetire c entry => Sys2Proof.Machine.execRangeRetire c entry s
  | .drainComplete c => Sys2Proof.Machine.execDrainComplete c s
  | .tokenAck c => Sys2Proof.Machine.execTokenAck c s
  | .taskStart c m => Sys2Proof.Machine.execTaskStart c m s
  | .taskStop c => Sys2Proof.Machine.execTaskStop c s
  | .partitionStop c => Sys2Proof.Machine.execPartitionStop c s
  | .stallWatchdog c => Sys2Proof.Machine.execStallWatchdog c s
  | .gathererTimeout c line => Sys2Proof.Machine.execGathererTimeout c line s
  | .spmRingCfg c n v => Sys2Proof.Machine.execSpmRingCfg c n v s
  | .spmRingPush c n v => Sys2Proof.Machine.execSpmRingPush c n v s
  | .spmRingPop c n v => Sys2Proof.Machine.execSpmRingPop c n v s
  | .coreEvcWrite c n v => Sys2Proof.Machine.execCoreEvcWrite c n v s
  | .registerWrite t v => Sys2Proof.Machine.execRegisterWrite t v s
  | .coreReset c => Sys2Proof.Machine.execCoreReset c s
  | .clusterReset k => Sys2Proof.Machine.execClusterReset k s
  | .regionReset r => Sys2Proof.Machine.execRegionReset r s
  | .partitionReset p => Sys2Proof.Machine.execPartitionReset p s
  | .cellRoute at_ din x ecc => Sys2Proof.Machine.execCellRoute at_ din x ecc s
  | .write x => Sys2Proof.Machine.execWrite x s
  | .read x e => Sys2Proof.Machine.execRead x e s
  | .regWrite x => Sys2Proof.Machine.execRegWrite x s
  | .regRead x => Sys2Proof.Machine.execRegRead x s
  | .signal x => Sys2Proof.Machine.execSignal x s
  | .creditRequest x => Sys2Proof.Machine.execCreditRequest x s
  | .contrib x => Sys2Proof.Machine.execContrib x s
  | .mwrite k x => Sys2Proof.Machine.execMwrite k x s
  | .writeAck x => Sys2Proof.Machine.execWriteAck x s
  | .readData x => Sys2Proof.Machine.execReadData x s
  | .regData x => Sys2Proof.Machine.execRegData x s
  | .addressErrorResponse x => Sys2Proof.Machine.execAddressErrorResponse x s
  | .resetNack x => Sys2Proof.Machine.execResetNack x s
  | .coreAbsent x => Sys2Proof.Machine.execCoreAbsent x s
  | .busy x => Sys2Proof.Machine.execBusy x s
  | .busyRetry ep tag idx => Sys2Proof.Machine.execBusyRetry ep tag idx s
  | .creditGrant x => Sys2Proof.Machine.execCreditGrant x s
  | .targetSlotTimeout ni src tag => Sys2Proof.Machine.execTargetSlotTimeout ni src tag s
  | .tombstoneExpiry ni src tag => Sys2Proof.Machine.execTombstoneExpiry ni src tag s
  | .requesterTimeout ep tag => Sys2Proof.Machine.execRequesterTimeout ep tag s
  | .tagReopen ep tag => Sys2Proof.Machine.execTagReopen ep tag s
  | .congestionWindowEnd site occ => Sys2Proof.Machine.execCongestionWindowEnd site occ s
  | .congestionMap d => Sys2Proof.Machine.execCongestionMap d s
  | .congestionMapStale d => Sys2Proof.Machine.execCongestionMapStale d s
  | .cmapRecord => Sys2Proof.Machine.execCmapRecord s
  | .routerFence site q cause => Sys2Proof.Machine.execRouterFence site q cause s
  | .routeHoleMap d => Sys2Proof.Machine.execRouteHoleMap d s
  | .hopTableUpdate => Sys2Proof.Machine.execHopTableUpdate s
  | .transitTableRecompute => Sys2Proof.Machine.execTransitTableRecompute s
  | .rmapCommit p => Sys2Proof.Machine.execRmapCommit p s
  | .rankMapLoaded p => Sys2Proof.Machine.execRankMapLoaded p s
  | .codewordReceive l w => Sys2Proof.Machine.execCodewordReceive l w s
  | .retryRequest l seq => Sys2Proof.Machine.execRetryRequest l seq s
  | .linkCredit l cvc ccnt => Sys2Proof.Machine.execLinkCredit l cvc ccnt s
  | .linkTraining l signal_ lock_ rtt => Sys2Proof.Machine.execLinkTraining l signal_ lock_ rtt s
  | .capabilityRecord l copies => Sys2Proof.Machine.execCapabilityRecord l copies s
  | .trainingTimeout l signal_ => Sys2Proof.Machine.execTrainingTimeout l signal_ s
  | .lossOfLock l => Sys2Proof.Machine.execLossOfLock l s
  | .retrainAttempt l peerFailed => Sys2Proof.Machine.execRetrainAttempt l peerFailed s
  | .linkFence l => Sys2Proof.Machine.execLinkFence l s
  | .linkUnfence l => Sys2Proof.Machine.execLinkUnfence l s
  | .linkRetrain l => Sys2Proof.Machine.execLinkRetrain l s
  | .cellExit d x => Sys2Proof.Machine.execCellExit d x s
  | .cellEntry l x => Sys2Proof.Machine.execCellEntry l x s
  | .exitMapChange => Sys2Proof.Machine.execExitMapChange s
  | .rdmaWrite p qpn rkey va data => Sys2Proof.Machine.execRdmaWrite p qpn rkey va data s
  | .rdmaWriteImm p qpn rkey va data imm => Sys2Proof.Machine.execRdmaWriteImm p qpn rkey va data imm s
  | .rdmaRead p qpn rkey va len => Sys2Proof.Machine.execRdmaRead p qpn rkey va len s
  | .fetchAndAdd p qpn rkey va v => Sys2Proof.Machine.execFetchAndAdd p qpn rkey va v s
  | .compareAndSwap p qpn rkey va cmp swap => Sys2Proof.Machine.execCompareAndSwap p qpn rkey va cmp swap s
  | .invalidOpcode h qpn => Sys2Proof.Machine.execInvalidOpcode h qpn s
  | .icrcFail port => Sys2Proof.Machine.execIcrcFail port s
  | .rdmaAck h qpn => Sys2Proof.Machine.execRdmaAck h qpn s
  | .rdmaReadResponse p qpn data => Sys2Proof.Machine.execRdmaReadResponse p qpn data s
  | .ackTimeout h qpn => Sys2Proof.Machine.execAckTimeout h qpn s
  | .cmReq port ver part ip => Sys2Proof.Machine.execCmReq port ver part ip s
  | .cmRtu h qpn => Sys2Proof.Machine.execCmRtu h qpn s
  | .cmRej h qpn => Sys2Proof.Machine.execCmRej h qpn s
  | .cmDreq h qpn => Sys2Proof.Machine.execCmDreq h qpn s
  | .cmDrep h qpn => Sys2Proof.Machine.execCmDrep h qpn s
  | .cnpReceived h qpn => Sys2Proof.Machine.execCnpReceived h qpn s
  | .rateIncrease h qpn => Sys2Proof.Machine.execRateIncrease h qpn s
  | .qpError h qpn syndrome => Sys2Proof.Machine.execQpError h qpn syndrome s
  | .portState port up => Sys2Proof.Machine.execPortState port up s
  | .portRestart port => Sys2Proof.Machine.execPortRestart port s
  | .ringTailWrite r tail => Sys2Proof.Machine.execRingTailWrite r tail s
  | .launch r => Sys2Proof.Machine.execLaunch r s
  | .copy r => Sys2Proof.Machine.execCopy r s
  | .collective r => Sys2Proof.Machine.execCollective r s
  | .reshard r => Sys2Proof.Machine.execReshard r s
  | .barrier r => Sys2Proof.Machine.execBarrier r s
  | .fence r => Sys2Proof.Machine.execFence r s
  | .pitch r => Sys2Proof.Machine.execPitch r s
  | .abort r rec_ => Sys2Proof.Machine.execAbort r rec_ s
  | .query r rec_ => Sys2Proof.Machine.execQuery r rec_ s
  | .completionToken c t => Sys2Proof.Machine.execCompletionToken c t s
  | .eventRingCons r cons_ => Sys2Proof.Machine.execEventRingCons r cons_ s
  | .commandRingEnable who r on_ => Sys2Proof.Machine.execCommandRingEnable who r on_ s
  | .eventRingEnable who r on_ => Sys2Proof.Machine.execEventRingEnable who r on_ s
  | .reduceOpen m src d => Sys2Proof.Machine.execReduceOpen m src d s
  | .reduceClose m src d => Sys2Proof.Machine.execReduceClose m src d s
  | .gather m src d => Sys2Proof.Machine.execGather m src d s
  | .scatter m src d => Sys2Proof.Machine.execScatter m src d s
  | .relayout m src d => Sys2Proof.Machine.execRelayout m src d s
  | .descriptorStart m e ecc => Sys2Proof.Machine.execDescriptorStart m e ecc s
  | .descriptorEnd m e stream => Sys2Proof.Machine.execDescriptorEnd m e stream s
  | .streamTimeout m stream => Sys2Proof.Machine.execStreamTimeout m stream s
  | .arbiterCutoff m ch req => Sys2Proof.Machine.execArbiterCutoff m ch req s
  | .arbLockClear m => Sys2Proof.Machine.execArbLockClear m s
  | .refresh m pc granted => Sys2Proof.Machine.execRefresh m pc granted s
  | .refreshOverdue m pc => Sys2Proof.Machine.execRefreshOverdue m pc s
  | .patrol m line e => Sys2Proof.Machine.execPatrol m line e s
  | .hbmTempRead m temp => Sys2Proof.Machine.execHbmTempRead m temp s
  | .refCheck present ppm => Sys2Proof.Machine.execRefCheck present ppm s
  | .refRestored => Sys2Proof.Machine.execRefRestored s
  | .prcSkewCheck d skew => Sys2Proof.Machine.execPrcSkewCheck d skew s
  | .changeArm die step => Sys2Proof.Machine.execChangeArm die step s
  | .changeAck d => Sys2Proof.Machine.execChangeAck d s
  | .changeDeadline settled => Sys2Proof.Machine.execChangeDeadline settled s
  | .changeCancel d => Sys2Proof.Machine.execChangeCancel d s
  | .changeStop => Sys2Proof.Machine.execChangeStop s
  | .changeResume unlocked => Sys2Proof.Machine.execChangeResume unlocked s
  | .relockFallback d => Sys2Proof.Machine.execRelockFallback d s
  | .currentSample d rail r0 r1 => Sys2Proof.Machine.execCurrentSample d rail r0 r1 s
  | .throttleStep d scope => Sys2Proof.Machine.execThrottleStep d scope s
  | .droopDetect r => Sys2Proof.Machine.execDroopDetect r s
  | .droopRecover r skipped => Sys2Proof.Machine.execDroopRecover r skipped s
  | .ldoSliceFail r slice => Sys2Proof.Machine.execLdoSliceFail r slice s
  | .pmbusPoll site v => Sys2Proof.Machine.execPmbusPoll site v s
  | .moduleTimeout site => Sys2Proof.Machine.execModuleTimeout site s
  | .bumpDrop site group ratio => Sys2Proof.Machine.execBumpDrop site group ratio s
  | .headroomRequest r => Sys2Proof.Machine.execHeadroomRequest r s
  | .headroomDeferTimeout r => Sys2Proof.Machine.execHeadroomDeferTimeout r s
  | .headroomRelease r => Sys2Proof.Machine.execHeadroomRelease r s
  | .retentionHold r => Sys2Proof.Machine.execRetentionHold r s
  | .slackSample r slack => Sys2Proof.Machine.execSlackSample r slack s
  | .temperingPeriodEnd => Sys2Proof.Machine.execTemperingPeriodEnd s
  | .domainReport d mean peak mv10 => Sys2Proof.Machine.execDomainReport d mean peak mv10 s
  | .reportRearm d => Sys2Proof.Machine.execReportRearm d s
  | .pitchPhaseStart hint power => Sys2Proof.Machine.execPitchPhaseStart hint power s
  | .pitchPhaseEnd hint => Sys2Proof.Machine.execPitchPhaseEnd hint s
  | .hubSample b => Sys2Proof.Machine.execHubSample b s
  | .trayLost => Sys2Proof.Machine.execTrayLost s
  | .capUpdate power => Sys2Proof.Machine.execCapUpdate power s
  | .stepControl power => Sys2Proof.Machine.execStepControl power s
  | .heartbeat d milliamps silent => Sys2Proof.Machine.execHeartbeat d milliamps silent s
  | .dieSensorSample site temp => Sys2Proof.Machine.execDieSensorSample site temp s
  | .dieUnpin site => Sys2Proof.Machine.execDieUnpin site s
  | .thermalTrip d temp => Sys2Proof.Machine.execThermalTrip d temp s
  | .quenchLifted => Sys2Proof.Machine.execQuenchLifted s
  | .stbyOkFall => Sys2Proof.Machine.execStbyOkFall s
  | .busUndervoltage => Sys2Proof.Machine.execBusUndervoltage s
  | .coldBoot o => Sys2Proof.Machine.execColdBoot o s
  | .warmPanelReset o => Sys2Proof.Machine.execWarmPanelReset o s
  | .partitionDefine p f => Sys2Proof.Machine.execPartitionDefine p f s
  | .switchOn p => Sys2Proof.Machine.execSwitchOn p s
  | .partitionStarted p scrubFailed => Sys2Proof.Machine.execPartitionStarted p scrubFailed s
  | .switchOff p => Sys2Proof.Machine.execSwitchOff p s
  | .delete p => Sys2Proof.Machine.execDelete p s
  | .compact => Sys2Proof.Machine.execCompact s
  | .spareSwitchIn k => Sys2Proof.Machine.execSpareSwitchIn k s
  | .uncheckedHour pcid => Sys2Proof.Machine.execUncheckedHour pcid s
  | .sweep pcid pass temp unit_ => Sys2Proof.Machine.execSweep pcid pass temp unit_ s
  | .pushedSweep r failed temp unit_ => Sys2Proof.Machine.execPushedSweep r failed temp unit_ s
  | .heartbeatMissing d pcid => Sys2Proof.Machine.execHeartbeatMissing d pcid s
  | .probeTimeout site pcid => Sys2Proof.Machine.execProbeTimeout site pcid s
  | .liveness c kind beatAge progressAge => Sys2Proof.Machine.execLiveness c kind beatAge progressAge s
  | .clear pcid => Sys2Proof.Machine.execClear pcid s
  | .quarantine pcid => Sys2Proof.Machine.execQuarantine pcid s
  | .returnPos pcid => Sys2Proof.Machine.execReturnPos pcid s
  | .replace pcid => Sys2Proof.Machine.execReplace pcid s
  | .retire pcid => Sys2Proof.Machine.execRetire pcid s
  | .unfence pcid => Sys2Proof.Machine.execUnfence pcid s
  | .fenceRouter site q => Sys2Proof.Machine.execFenceRouter site q s
  | .retireSite m => Sys2Proof.Machine.execRetireSite m s
  | .cancel => Sys2Proof.Machine.execCancel s
  | .actionProceed pass => Sys2Proof.Machine.execActionProceed pass s
  | .drillArm slot rec_ => Sys2Proof.Machine.execDrillArm slot rec_ s
  | .drillTrigger slot => Sys2Proof.Machine.execDrillTrigger slot s
  | .drillWindowEnd slot => Sys2Proof.Machine.execDrillWindowEnd slot s
  | .perturbWrite d reg v => Sys2Proof.Machine.execPerturbWrite d reg v s
  | .perturbTimeout d reg => Sys2Proof.Machine.execPerturbTimeout d reg s
  | .licenceInstall rec_ => Sys2Proof.Machine.execLicenceInstall rec_ s
  | .stageOpen sid comp => Sys2Proof.Machine.execStageOpen sid comp s
  | .stageData sid v => Sys2Proof.Machine.execStageData sid v s
  | .stageCommit sid => Sys2Proof.Machine.execStageCommit sid s
  | .hallmarkIssue => Sys2Proof.Machine.execHallmarkIssue s
  | .hello mac m => Sys2Proof.Machine.execHello mac m s
  | .finish mac sid sig tag => Sys2Proof.Machine.execFinish mac sid sig tag s
  | .finishTimeout sid => Sys2Proof.Machine.execFinishTimeout sid s
  | .request mac sid seq body tag => Sys2Proof.Machine.execRequest mac sid seq body tag s
  | .close mac sid seq tag => Sys2Proof.Machine.execClose mac sid seq tag s
  | .sessionIdleTimeout sid => Sys2Proof.Machine.execSessionIdleTimeout sid s
  | .stationUnblock mac => Sys2Proof.Machine.execStationUnblock mac s
  | .serviceBusCutoff req => Sys2Proof.Machine.execServiceBusCutoff req s
  | .firmwareLockClear => Sys2Proof.Machine.execFirmwareLockClear s
  | .busLockClear req => Sys2Proof.Machine.execBusLockClear req s
  | .help => Sys2Proof.Machine.execHelp s
  | .ver => Sys2Proof.Machine.execVer s
  | .id => Sys2Proof.Machine.execId s
  | .state => Sys2Proof.Machine.execState s
  | .log n => Sys2Proof.Machine.execLog n s
  | .get index sub => Sys2Proof.Machine.execGet index sub s
  | .baud n => Sys2Proof.Machine.execBaud n s
  | .unlock answer => Sys2Proof.Machine.execUnlock answer s
  | .lock => Sys2Proof.Machine.execLock s
  | .unlockTimeout => Sys2Proof.Machine.execUnlockTimeout s
  | .set index sub v => Sys2Proof.Machine.execSet index sub v s
  | .busTake => Sys2Proof.Machine.execBusTake s
  | .busGive => Sys2Proof.Machine.execBusGive s
  | .resetWarm => Sys2Proof.Machine.execResetWarm s
  | .resetCold o => Sys2Proof.Machine.execResetCold o s
  | .recover comp bundle => Sys2Proof.Machine.execRecover comp bundle s
  | .illegalInstruction c w => Sys2Proof.Machine.execIllegalInstruction c w s
  | .creditRequestRetry w n => Sys2Proof.Machine.execCreditRequestRetry w n s
  | .regionOn r => Sys2Proof.Machine.execRegionOn r s

end Sys2Proof.Machine
end

