-- ==== Sys2Proof/Safety.lean ====
section
/-!
DEFINITION. Safety.lean: what counts as a safe step and a sound state, and the vocabulary of the statements: when a core has
an instruction to dispatch, which part of the state a command leaves as it was, and the rows of one shape with what each
computes.
-/
namespace Sys2Proof.Machine

open Sys2Proof

/-- Every memory of the panel is in its canonical form: scratchpads, HBM stacks and host-die SRAM. -/
def State.memsWf (s : State) : Bool := Memory.wf s.spm && Memory.wf s.hbm && Memory.wf s.sram

/-- The step does not stop. -/
def State.stepsOn (s : State) : Prop := ∃ t, step s = .next t

/-! ## Frames -/

/-- Nothing but one core differs. -/
def OnlyCore (s t : State) (c : Nat) : Prop := t = { s with cores := t.cores } ∧ ∀ d, d ≠ c → core t d = core s d

/-- Nothing but one core and the scratchpads differ. -/
def OnlyCoreSpm (s t : State) (c : Nat) : Prop :=
  t = { s with cores := t.cores, spm := t.spm } ∧ ∀ d, d ≠ c → core t d = core s d

/-- What the sequencer itself changes when it dispatches an instruction: program counter, instruction buffer, cycle and
stall counts, and the scalar registers; nothing else of the core (R69, R71, R79). -/
def SeqFrame (k k' : Core) : Prop :=
  k' = { k with pc := k'.pc, sregs := k'.sregs, ibuf := k'.ibuf, cyc := k.cyc + 1, wdogRun := 0, stallRow := 0,
                stallRing := none, hold := .none }

/-- Every scalar register but one is unchanged, and that one holds a value; s0 reads as zero (R67). -/
def WritesReg (k k' : Core) (rd : BitVec 5) (v : Word) : Prop :=
  ∀ n, k'.sreg n = if n = rd.toNat ∧ n ≠ 0 then v else k.sreg n

/-- The scalar registers are unchanged. -/
def KeepsRegs (k k' : Core) : Prop := ∀ n, k'.sreg n = k.sreg n

/-- Nothing differs but the logs, the host dies' rings and queue pairs, the ports and the dictionary. -/
def OnlyEvents (s t : State) : Prop := t = { s with dict := t.dict, host := t.host, mgmt := t.mgmt, out := t.out }

/-- The memories are unchanged. -/
def KeepsMem (s t : State) : Prop := t.spm = s.spm ∧ t.hbm = s.hbm ∧ t.sram = s.sram

/-! ## The fabric -/

/-- Nothing differs but the cells in flight. -/
def OnlyNet (s t : State) : Prop := t = { s with fab := { s.fab with net := t.fab.net } }

/-- Nothing of the fabric differs but the cells in flight and the open messages; the cores are as they were. -/
def OnlyMsgs (s t : State) : Prop := t = { s with fab := { s.fab with net := t.fab.net, msgs := t.fab.msgs } }

/-- The cells in flight without one that stood at the interface of its destination. -/
def netWithout (s : State) (x : Cell) : List Flight :=
  dropFirst (fun f => f.at_ == .ni (niOfEp x.dstEp.toNat) && f.cell == x) s.fab.net

/-- A request left its interface, and one response cell of a kind, with an offset and data, stands at the router of its
destination where a route to its source exists (R212, R222). -/
def AnsweredBy (s t : State) (x : Cell) (kind off : Nat) (bs : List Byte) : Prop :=
  ∀ y, routeCell s (srcCell s x.dstEp.toNat 1 kind x.srcEp.toNat x.tag.toNat 0 0 off bs) x.sx.toNat x.sy.toNat x.sz.toNat
      = some y → t.fab.net = netWithout s x ++ [⟨.router (injectLoc y.srcEp.toNat) none, y⟩]

/-- The open messages without one. -/
def msgsWithout (s : State) (m : Msg) : List Msg :=
  s.fab.msgs.filter fun q => !(q.ep.toNat == m.ep.toNat && q.tag.toNat == m.tag.toNat)

/-- What an open message has become. -/
def MsgBecomes (t : State) (m m' : Msg) : Prop := findMsg t m.ep.toNat m.tag.toNat = some m'

/-! ## Dispatch -/

/-- A core has an instruction to dispatch: it runs a task on a clock, its program counter lies in the scratchpad, and no
panel access or barrier holds it (R68, R72, R76, R100). -/
def Ready (s : State) (c : Nat) : Prop :=
  coreRuns s c = true ∧ (core s c).pc < spmSize ∧ ((core s c).hold = .none ∨ (core s c).hold = .wait)

/-- No unretired range of the scoreboard stands in the way of reading n bytes at an address, and an entry is free (R76). -/
def FreeToRead (k : Core) (a n : Nat) : Prop :=
  k.sb.length < 32 ∧ ∀ e ∈ k.sb, e.2.write = true → e.2.hi < a / 64 ∨ (a + n - 1) / 64 < e.2.lo

/-- No unretired range of the scoreboard stands in the way of writing n bytes at an address, and an entry is free (R76). -/
def FreeToWrite (k : Core) (a n : Nat) : Prop :=
  k.sb.length < 32 ∧ ∀ e ∈ k.sb, e.2.hi < a / 64 ∨ (a + n - 1) / 64 < e.2.lo

/-! ## Rows of one shape -/

/-- Scalar arithmetic: what each row computes from ra and the second operand (Table 4.18). -/
def aluRows : List ((CoreId → CtlFields → Instr) × (Word → Word → Word)) :=
  [(.add, fun a b => BitVec.ofNat 64 (a.toNat + b.toNat)),
   (.sub, fun a b => BitVec.ofInt 64 ((a.toNat : Int) - b.toNat)),
   (.mul, fun a b => BitVec.ofNat 64 (a.toNat * b.toNat)),
   (.andOp, fun a b => a &&& b), (.orOp, fun a b => a ||| b), (.xorOp, fun a b => a ^^^ b),
   (.shl, fun a b => BitVec.ofNat 64 (a.toNat * 2 ^ (b.toNat % 64))),
   (.shr, fun a b => BitVec.ofNat 64 (a.toNat / 2 ^ (b.toNat % 64))),
   (.sra, fun a b => a.sshiftRight (b.toNat % 64)),
   (.slt, fun a b => if a.toInt < b.toInt then 1 else 0),
   (.sltu, fun a b => if a.toNat < b.toNat then 1 else 0)]

/-- Conditional branches: when each is taken (Table 4.18). -/
def branchRows : List ((CoreId → CtlFields → Instr) × (Word → Word → Bool)) :=
  [(.beq, fun a b => decide (a = b)), (.bne, fun a b => decide (a ≠ b)),
   (.blt, fun a b => decide (a.toInt < b.toInt)), (.bge, fun a b => decide (b.toInt ≤ a.toInt)),
   (.bltu, fun a b => decide (a.toNat < b.toNat)), (.bgeu, fun a b => decide (b.toNat ≤ a.toNat))]

/-- Local loads: bytes and whether the value is sign-extended (Table 4.18). -/
def loadRows : List ((CoreId → CtlFields → Glitch → Instr) × Nat × Bool) :=
  [(.ld1u, 1, false), (.ld2u, 2, false), (.ld4u, 4, false), (.ld8, 8, false), (.ld1s, 1, true), (.ld2s, 2, true),
   (.ld4s, 4, true)]

/-- Local stores: bytes (Table 4.18). -/
def storeRows : List ((CoreId → CtlFields → Instr) × Nat) := [(.st1, 1), (.st2, 2), (.st4, 4), (.st8, 8)]

/-- The value that a load of n bytes gives a register. -/
def extended (signed : Bool) (n v : Nat) : Word :=
  if signed ∧ 2 ^ (8 * n - 1) ≤ v then BitVec.ofInt 64 ((v : Int) - 2 ^ (8 * n)) else BitVec.ofNat 64 v

/-- Move words with their kind (Table 4.14). -/
def moveRows : List ((CoreId → MovFields → Instr) × Nat) := [(.mcopy, 1), (.m2d, 2), (.mcontrib, 3), (.mfill, 4)]

/-! ## The vector unit -/

/-- No drill makes the two passes of a paired instruction differ (R90, Table 13.10). -/
def Undrilled (s : State) (c : Nat) : Prop := (core s c).paired = false ∨ drillWith s 2 (pcidOf s c) = false

/-- The rounding mode of a lane: by the word's rnd, with the lane's own draw under rnd = 2 (R57, R132). -/
def laneMode (f : VecFields) (k : Core) (l : Nat) : Rnd := ((draws k f.rnd.toNat (enabled k f)).getD l (.near, 0)).1

/-- Lane l of a vector register. -/
def lane (k : Core) (n : BitVec 5) (l : Nat) : BitVec 32 := (k.vreg n).getD l 0

/-- What a lane of an arithmetic word of two sources computes, FP32 or integer (R131). -/
def arithLane (fp : Rnd → BitVec 32 → BitVec 32 → BitVec 32 × Astat) (int : Int → Int → Int) (f : VecFields) (k : Core)
    (l : Nat) : BitVec 32 :=
  let a := lane k f.va l
  let b := (second k f).getD l 0
  if f.fmt = 0 then (fp (laneMode f k l) a b).1 else (intOut (fmtOf f) f.ovf (int (intIn (fmtOf f) a) (intIn (fmtOf f) b))).1

/-- The fmt of an arithmetic word, and its rnd where it rounds FP32 values, are allowed (R131, R132). -/
def arithOk (rounds : Bool) (f : VecFields) : Prop :=
  (f.fmt = 0 ∨ f.fmt = 8 ∨ f.fmt = 10 ∨ f.fmt = 11) ∧ ¬(rounds = true ∧ f.fmt = 0 ∧ f.rnd = 3)

/-- Elementwise words on registers: when the word passes its checks, and the value that an enabled lane of vd takes
(Table 4.11, R131 to R137). -/
def laneRows : List ((CoreId → VecFields → Glitch → Instr) × (VecFields → Prop) × (VecFields → Core → Nat → BitVec 32)) :=
  [(.vmov, fun _ => True, fun f k l => lane k f.va l),
   (.vbcast, fun _ => True, fun f k _ => (k.sreg f.rs.toNat).setWidth 32),
   (.vadd, arithOk true, arithLane fpAdd fun a b => a + b),
   (.vsub, arithOk true, arithLane fpSub fun a b => a - b),
   (.vmul, arithOk true, arithLane fpMul fun a b => a * b),
   (.vmin, arithOk false, arithLane (fun _ => fpMinMax false) fun a b => if a ≤ b then a else b),
   (.vmax, arithOk false, arithLane (fun _ => fpMinMax true) fun a b => if a ≤ b then b else a),
   (.vfma, arithOk true, fun f k l =>
     if f.fmt = 0 then (fpFma (laneMode f k l) (lane k f.va l) ((second k f).getD l 0) (lane k f.vc l)).1
     else (intOut (fmtOf f) f.ovf (intIn (fmtOf f) (lane k f.va l) * intIn (fmtOf f) ((second k f).getD l 0)
       + intIn (fmtOf f) (lane k f.vc l))).1),
   (.vdiv, fun f => f.fmt = 0 ∧ f.rnd ≠ 3, fun f k l => (fpDiv (laneMode f k l) (lane k f.va l) (lane k f.vb l)).1),
   (.vsqrt, fun f => f.fmt = 0 ∧ f.rnd ≠ 3, fun f k l => (fpSqrt (laneMode f k l) (lane k f.va l)).1),
   (.vabs, arithOk false, fun f k l =>
     if f.fmt = 0 then fpAbs (lane k f.va l)
     else (intOut (fmtOf f) f.ovf ((intIn (fmtOf f) (lane k f.va l)).natAbs : Int)).1),
   (.vneg, arithOk false, fun f k l =>
     if f.fmt = 0 then fpNeg (lane k f.va l) else (intOut (fmtOf f) f.ovf (-intIn (fmtOf f) (lane k f.va l))).1),
   (.vand, fun _ => True, fun f k l => lane k f.va l &&& (second k f).getD l 0),
   (.vor, fun _ => True, fun f k l => lane k f.va l ||| (second k f).getD l 0),
   (.vxor, fun _ => True, fun f k l => lane k f.va l ^^^ (second k f).getD l 0),
   (.vshl, fun _ => True, fun f k l => lane k f.va l <<< (((second k f).getD l 0).toNat % 32)),
   (.vshr, fun _ => True, fun f k l => lane k f.va l >>> (((second k f).getD l 0).toNat % 32)),
   (.vsra, fun _ => True, fun f k l => (lane k f.va l).sshiftRight (((second k f).getD l 0).toNat % 32)),
   (.vact, fun f => f.fmt = 0, fun f k l =>
     (fpAct (k.vec.table (f.cond.toNat % 4)).vals (k.vec.table (f.cond.toNat % 4)).lo (k.vec.table (f.cond.toNat % 4)).inv
       (lane k f.va l)).1)]

/-- What a vector word may change of its core: sequencer counts, vector unit and arithmetic status word. -/
def VecFrame (k k' : Core) : Prop :=
  k' = { k with pc := k.pc + 16, ibuf := k'.ibuf, cyc := k.cyc + 1, wdogRun := 0, stallRow := 0, stallRing := none,
                hold := .none, serial := k'.serial, vec := k'.vec, astat := k'.astat }

/-- Every vector register but one is unchanged. -/
def WritesVreg (k k' : Core) (vd : BitVec 5) : Prop := ∀ n : BitVec 5, n ≠ vd → k'.vreg n = k.vreg n

/-- Flags of the arithmetic status word stay set (R66). -/
def FlagsStick (k k' : Core) : Prop := k'.astat &&& k.astat = k.astat

/-! ## The move engine -/

/-- A move of a channel sends nothing remote and is a plain copy of n bytes from a to b of the core's own scratchpad. -/
def LocalCopy (m : MoveOp) (a b n : Nat) : Prop :=
  m.kind = 1 ∧ m.f.srem = false ∧ m.f.drem = false ∧ m.f.len.toNat = n ∧ m.src = ⟨a, 0, 0⟩ ∧ m.dst = ⟨b, 0, 0⟩

end Sys2Proof.Machine
end

