-- ==== Sys2Proof/Certificates/Slice0/Obligations.lean ====
section
/-!
DEFINITION. Obligations.lean: the statements for the provers. Each says what a rule of spec/ says of the model, or what the
model does where its docstring names the sections of spec/ it rests on.
-/

open Sys2Proof Sys2Proof.Machine

/-- For every command c and state whose queue begins with c, the step is exec of c on that state with the rest of
the queue (95_what_each_step_holds.md). -/
def Obligations.StepRunsFront : Prop :=
  ∀ (s : State) (c : Instr) (cs : List Instr), s.pending = c :: cs → step s = exec c { s with pending := cs }

/-- With nothing waiting, a step answers the same state with the panel reference counter one higher, modulo 2^64.
That a tick takes the place of idling is the model's choice (assumption log 1) (10_clocking.md R338 to R340). -/
def Obligations.EmptyQueueTicks : Prop :=
  ∀ s : State, s.pending = [] → ∃ t, step s = .next t ∧ t = { s with prc := t.prc } ∧
    prcWord t = BitVec.ofNat 64 ((prcWord s).toNat + 1)

/-- On a core with an instruction to dispatch, each of add, sub, mul, and, or, xor, shl, shr, sra, slt and sltu
answers a next state in which rd holds the row's operation on ra and op2 (s0 stays zero), the program counter is
16 higher, and every other register, core, memory and field but the sequencer's own counts is as before (R147, R67). -/
def Obligations.ScalarArithmetic : Prop :=
  ∀ r ∈ aluRows, ∀ (c : CoreId) (f : CtlFields) (s : State), Ready s c →
    ∃ t, exec (r.1 c f) s = .next t ∧ OnlyCore s t c ∧ SeqFrame (core s c) (core t c) ∧
      (core t c).pc = (core s c).pc + 16 ∧
      WritesReg (core s c) (core t c) f.rd
        (r.2 ((core s c).sreg f.ra.toNat) (if f.im then f.imm else (core s c).sreg f.rb.toNat))

/-- With a displacement that is a multiple of 16, each of beq, bne, blt, bge, bltu and bgeu answers a next state
whose program counter is pc + imm modulo 2^64 where its comparison of ra and rb holds and pc + 16 where it does
not, whatever im is; no register and nothing else changes (R148). -/
def Obligations.Branches : Prop :=
  ∀ r ∈ branchRows, ∀ (c : CoreId) (f : CtlFields) (s : State), Ready s c → f.imm.toNat % 16 = 0 →
    ∃ t, exec (r.1 c f) s = .next t ∧ OnlyCore s t c ∧ SeqFrame (core s c) (core t c) ∧
      KeepsRegs (core s c) (core t c) ∧
      (core t c).pc = if r.2 ((core s c).sreg f.ra.toNat) ((core s c).sreg f.rb.toNat)
        then ((core s c).pc + f.imm.toNat) % 2 ^ 64 else (core s c).pc + 16

/-- jal with a displacement that is a multiple of 16, and jalr with imm and ra + imm multiples of 16, write pc + 16
to rd and go to pc + imm or ra + imm modulo 2^64; ra is read before rd is written, and nothing else changes (04_instruction_set.md Table 4.18, R148). -/
def Obligations.Jumps : Prop :=
  ∀ (c : CoreId) (f : CtlFields) (s : State), Ready s c → f.imm.toNat % 16 = 0 →
    (∃ t, exec (.jal c f) s = .next t ∧ OnlyCore s t c ∧ SeqFrame (core s c) (core t c) ∧
      WritesReg (core s c) (core t c) f.rd (BitVec.ofNat 64 ((core s c).pc + 16)) ∧
      (core t c).pc = ((core s c).pc + f.imm.toNat) % 2 ^ 64) ∧
    (((core s c).sreg f.ra.toNat + f.imm).toNat % 16 = 0 →
      ∃ t, exec (.jalr c f) s = .next t ∧ OnlyCore s t c ∧ SeqFrame (core s c) (core t c) ∧
        WritesReg (core s c) (core t c) f.rd (BitVec.ofNat 64 ((core s c).pc + 16)) ∧
        (core t c).pc = ((core s c).sreg f.ra.toNat + f.imm).toNat)

/-- Each conditional branch and jal with a displacement that is no multiple of 16, and jalr with imm or ra + imm no
multiple of 16, leaves the program counter, drains the core and gives the task the illegal-instruction status
unless an earlier fault decided it (R148). -/
def Obligations.MisplacedJumpStops : Prop :=
  ∀ (c : CoreId) (f : CtlFields) (s : State), Ready s c →
    let stops (i : Instr) : Prop := ∃ t, exec i s = .next t ∧ (core t c).st = .drain ∧
      (core t c).pc = (core s c).pc ∧ KeepsRegs (core s c) (core t c) ∧
      (core t c).status = some ((core s c).status.getD 7)
    (f.imm.toNat % 16 ≠ 0 → (∀ r ∈ branchRows, stops (r.1 c f)) ∧ stops (.jal c f) ∧ stops (.jalr c f)) ∧
    (((core s c).sreg f.ra.toNat + f.imm).toNat % 16 ≠ 0 → stops (.jalr c f))

/-- Where ra + imm modulo 2^64 is aligned to the access size, its bytes lie below SPM_SIZE and no unretired write
range is in the way, each of ld1u, ld2u, ld4u, ld8, ld1s, ld2s and ld4s puts the little-endian value of those
bytes, zero- or sign-extended by its row, into rd; nothing else changes (R149, R72). -/
def Obligations.LocalLoads : Prop :=
  ∀ r ∈ loadRows, ∀ (c : CoreId) (f : CtlFields) (s : State) (a : Nat), Ready s c →
    a = ((core s c).sreg f.ra.toNat + f.imm).toNat → a % r.2.1 = 0 → a + r.2.1 ≤ spmSize →
    FreeToRead (core s c) a r.2.1 →
    ∃ t, exec (r.1 c f .none) s = .next t ∧ OnlyCore s t c ∧ SeqFrame (core s c) (core t c) ∧
      (core t c).pc = (core s c).pc + 16 ∧
      WritesReg (core s c) (core t c) f.rd (extended r.2.2 r.2.1 (leNat (spmRead s c a r.2.1)))

/-- Where ra + imm modulo 2^64 is aligned, its bytes lie below SPM_SIZE and no unretired range is in the way, each
of st1, st2, st4 and st8 writes the low bytes of rb, lowest first, to those places of the core's scratchpad;
every other byte of every scratchpad, all HBM and SRAM, and every register are as before (04_instruction_set.md Table 4.18, R149, R72). -/
def Obligations.LocalStores : Prop :=
  ∀ r ∈ storeRows, ∀ (c : CoreId) (f : CtlFields) (s : State) (a : Nat), Ready s c → s.memsWf = true →
    a = ((core s c).sreg f.ra.toNat + f.imm).toNat → a % r.2 = 0 → a + r.2 ≤ spmSize →
    FreeToWrite (core s c) a r.2 →
    ∃ t, exec (r.1 c f) s = .next t ∧ OnlyCoreSpm s t c ∧
      SeqFrame (core s c) { core t c with gath := (core s c).gath, merged := (core s c).merged } ∧
      KeepsRegs (core s c) (core t c) ∧ (core t c).pc = (core s c).pc + 16 ∧
      (∀ i, i < r.2 → memGet t.spm (spmKey c (a + i)) = ((core s c).sreg f.rb.toNat).extractLsb' (8 * i) 8) ∧
      (∀ b, (∀ i, i < r.2 → b ≠ spmKey c (a + i)) → memGet t.spm b = memGet s.spm b)

/-- Where ra + imm modulo 2^64 is not aligned to the access size or its bytes do not lie below SPM_SIZE, each local
load and store leaves every memory and register as it was, drains the core and gives the task the
illegal-instruction status unless an earlier fault decided it (R149). -/
def Obligations.LocalAccessFaults : Prop :=
  ∀ (c : CoreId) (f : CtlFields) (s : State) (a : Nat), Ready s c →
    a = ((core s c).sreg f.ra.toNat + f.imm).toNat →
    let stops (i : Instr) : Prop := ∃ t, exec i s = .next t ∧ (core t c).st = .drain ∧ t.spm = s.spm ∧ t.hbm = s.hbm ∧
      t.sram = s.sram ∧ KeepsRegs (core s c) (core t c) ∧ (core t c).status = some ((core s c).status.getD 7)
    (∀ r ∈ loadRows, ∀ g, (a % r.2.1 ≠ 0 ∨ spmSize < a + r.2.1) → stops (r.1 c f g)) ∧
    (∀ r ∈ storeRows, (a % r.2 ≠ 0 ∨ spmSize < a + r.2) → stops (r.1 c f))

/-- Where the address in space 0x2 or 0x3 is a multiple of 8 and the source NI can send the request, ldp and stp
open one message of the core's endpoint for that address, move the program counter by 16 and hold dispatch until
the response; no register and no byte of memory changes (R72, R149). -/
def Obligations.PanelAccessSends : Prop :=
  ∀ (c : CoreId) (f : CtlFields) (s u : State) (a : Word), Ready s c → a = (core s c).sreg f.ra.toNat + f.imm →
    (a.toNat / 2 ^ 60 = 2 ∨ a.toNat / 2 ^ 60 = 3) → a.toNat % 8 = 0 →
    let holds (i : Instr) (p : Purpose) (rd : Option (BitVec 5)) : Prop := ∃ t m, exec i s = .next t ∧
      t = { u with cores := t.cores } ∧ (∀ d, d ≠ c.val → core t d = core s d) ∧ (core t c).pc = (core s c).pc + 16 ∧
      (core t c).hold = .access rd (core s c).pc ∧ KeepsRegs (core s c) (core t c) ∧
      t.spm = s.spm ∧ t.hbm = s.hbm ∧ t.sram = s.sram ∧ t.fab.msgs = s.fab.msgs ++ [m] ∧
      m.ep.toNat = c.val ∧ m.addr = a ∧ m.purpose = p
    (sendTo s (epCore c) (corePart s c) (.ldp c f.rd) a (fun d => some (ldpReq d)) = .sent u →
      holds (.ldp c f) (.ldp c f.rd) (some f.rd)) ∧
    (sendTo s (epCore c) (corePart s c) (.stp c) a (fun d => some (stpReq d ((core s c).sreg f.rb.toNat))) = .sent u →
      holds (.stp c f) (.stp c) none)

/-- With no unretired write range ifence empties the instruction buffer; rprc writes the panel reference counter of
the core's die to rd; end, with no partition stop received, takes the core to DRAIN and leaves the status that its token will
carry as it was, so that a fault met while it drains still decides it; rseed, with an empty matrix queue and
matrix issue not paused, sets CORE_RSEED (to the low half of ra with im = 1) and re-seeds the 64 LFSRs of both
units from it (R70, R105, R150, R58, 04_instruction_set.md Table 4.18). -/
def Obligations.SequencerControl : Prop :=
  ∀ (c : CoreId) (f : CtlFields) (s : State), Ready s c →
    ((∀ e ∈ (core s c).sb, e.2.write = false) → ∃ t, exec (.ifence c f) s = .next t ∧ OnlyCore s t c ∧
      SeqFrame (core s c) (core t c) ∧ (core t c).ibuf = [] ∧ KeepsRegs (core s c) (core t c) ∧
      (core t c).pc = (core s c).pc + 16) ∧
    (∃ t, exec (.rprc c f) s = .next t ∧ OnlyCore s t c ∧ SeqFrame (core s c) (core t c) ∧
      (core t c).pc = (core s c).pc + 16 ∧ WritesReg (core s c) (core t c) f.rd (diePrc s (siteOfDie (dieOfCore c)))) ∧
    ((core s c).partStop = false → ∃ t, exec (.endTask c f) s = .next t ∧ OnlyCore s t c ∧ (core t c).st = .drain ∧
      (core t c).status = (core s c).status ∧ KeepsRegs (core s c) (core t c)) ∧
    ((core s c).mat.queue = [] → s.clk.paused = false → ∃ t, exec (.rseed c f) s = .next t ∧ OnlyCore s t c ∧
      (core t c).pc = (core s c).pc + 16 ∧ KeepsRegs (core s c) (core t c) ∧
      (core t c).rseed = (if f.im then ((core s c).sreg f.ra.toNat).setWidth 32 else (core s c).rseed) ∧
      (core t c).vec.lfsr = (List.range 64).map (lfsrSeed (core t c).rseed) ∧
      (core t c).mat.lfsr = (List.range 64).map (lfsrSeed (core t c).rseed) ∧
      (core t c).mat.accs = (core s c).mat.accs ∧ (core t c).vec.v = (core s c).vec.v)

/-- With no partition stop received, eset stores v = (s[rs] + imm) mod 2^32 in the named counter and eadd adds v to it
modulo 2^32 where nothing waits in the sync queue, and each enters the queue behind a signal that waits for a tag;
ewait goes on where (e - v) mod 2^32 is below 2^31, with every other counter and register as before, and where the
condition is false keeps the program counter and counts one stall cycle (R96). -/
def Obligations.EventCounters : Prop :=
  ∀ (c : CoreId) (f : SynFields) (s : State) (v : BitVec 32), Ready s c → (core s c).partStop = false →
    v = ((core s c).sreg f.rs.toNat).setWidth 32 + f.imm →
    let e := (core s c).ev f.ctr.toNat
    let goes (i : Instr) (new : BitVec 32) : Prop := ∃ t, exec i s = .next t ∧ OnlyCore s t c ∧
      (core t c).pc = (core s c).pc + 16 ∧ KeepsRegs (core s c) (core t c) ∧
      ∀ n, (core t c).ev n = if n = f.ctr.toNat then new else (core s c).ev n
    let waits (i : Instr) (q : SynQ) : Prop := ∃ t, exec i s = .next t ∧ OnlyCore s t c ∧
      (core t c).pc = (core s c).pc + 16 ∧ KeepsRegs (core s c) (core t c) ∧ (core t c).evc = (core s c).evc ∧
      (core t c).synq = (core s c).synq ++ [q]
    ((core s c).synq = [] → goes (.eset c f) v ∧ goes (.eadd c f) (e + v)) ∧
    (∀ q qs, (core s c).synq = q :: qs → synWaits s c q = true → qs.length < 7 →
      waits (.eset c f) (.set f.ctr.toNat v) ∧ waits (.eadd c f) (.add f.ctr.toNat v)) ∧
    ((e - v).toNat < 2 ^ 31 → goes (.ewait c f) e) ∧
    (¬ (e - v).toNat < 2 ^ 31 → ∃ t, exec (.ewait c f) s = .next t ∧ OnlyCore s t c ∧
      (core t c).pc = (core s c).pc ∧ (core t c).stall = (core s c).stall + 1 ∧ (core t c).evc = (core s c).evc)

/-- A member of the context's group that executes bar waits at it, a core outside the group goes on; esig with an
empty sync queue and an address in space 0x2 or 0x6 that the source NI can send opens one signal message, and waits
in the queue where no tag of the core is free; when every member of a context waits at it on a running clock,
BARRIER_RELEASE moves each of them past its bar (R100, R146, R316). -/
def Obligations.BarriersAndSignals : Prop :=
  (∀ (c : CoreId) (f : SynFields) (s : State), Ready s c → (core s c).partStop = false →
    (∃ t, exec (.bar c f) s = .next t ∧ OnlyCore s t c ∧ KeepsRegs (core s c) (core t c) ∧
      if barrierMember s c f.bctx.toNat then
        (core t c).hold = .barrier f.bctx.toNat ∧ (core t c).pc = (core s c).pc
      else (core t c).hold = .none ∧ (core t c).pc = (core s c).pc + 16) ∧
    ((((core s c).sreg f.rs.toNat).toNat / 2 ^ 60 = 2 ∨ ((core s c).sreg f.rs.toNat).toNat / 2 ^ 60 = 6) →
      (core s c).synq = [] →
      (∀ u, freeTag s (epCore c) ≠ 1024 → sendTo s (epCore c) (corePart s c) (.esig c (core s c).pc)
          ((core s c).sreg f.rs.toNat) (fun _ => some (signalReq f.ctr.toNat)) = .sent u →
        ∃ t, exec (.esig c f) s = .next t ∧ t = { u with cores := t.cores } ∧ (core t c).pc = (core s c).pc + 16 ∧
          KeepsRegs (core s c) (core t c) ∧ ∀ d, d ≠ c.val → core t d = core s d) ∧
      (freeTag s (epCore c) = 1024 → ∃ t, exec (.esig c f) s = .next t ∧ OnlyCore s t c ∧
        (core t c).pc = (core s c).pc + 16 ∧ KeepsRegs (core s c) (core t c) ∧
        (core t c).synq = [.sig f.ctr.toNat ((core s c).sreg f.rs.toNat) (core s c).pc]))) ∧
  (∀ (r : RingNo) (slot : Nat) (ctx : Fin 4) (s : State) (m : Cmd), findCmd s r slot = some m →
    barrierCores m ctx ≠ [] → (barrierCores m ctx).Nodup →
    (∀ d ∈ barrierCores m ctx, atBarrier (core s d) ctx = true ∧ clocked s d = true) →
    ∃ t, exec (.barrierRelease r slot ctx) s = .next t ∧ t = { s with cores := t.cores } ∧
      ∀ d, if d ∈ barrierCores m ctx then (core t d).hold = .none ∧ (core t d).pc = (core s d).pc + 16
        else core t d = core s d)

/-- PARTITION_STOP stops a running core on a clock at once where a barrier or a wait blocks it and is remembered otherwise; a
core that has received it dispatches no sync-class instruction and no end, and drains with the partition-stop
status unless an earlier fault decided it (R101). -/
def Obligations.PartitionStopPoints : Prop :=
  (∀ (c : CoreId) (s : State), coreDieRuns s c = true → (core s c).st = .run →
    ∃ t, exec (.partitionStop c) s = .next t ∧ OnlyCore s t c ∧
    ((∃ x, (core s c).hold = .barrier x) ∨ (core s c).hold = .wait →
      (core t c).st = .drain ∧ (core t c).status = some ((core s c).status.getD 2)) ∧
    ((∀ x, (core s c).hold ≠ .barrier x) → (core s c).hold ≠ .wait →
      (core t c).st = .run ∧ (core t c).partStop = true)) ∧
  (∀ (c : CoreId) (f : SynFields) (g : CtlFields) (s : State), Ready s c → (core s c).partStop = true →
    ∀ i ∈ [Instr.eset c f, .eadd c f, .ewait c f, .esig c f, .bar c f, .endTask c g],
      ∃ t, exec i s = .next t ∧ OnlyCore s t c ∧ (core t c).st = .drain ∧ (core t c).pc = (core s c).pc ∧
        (core t c).status = some ((core s c).status.getD 2) ∧ (core t c).evc = (core s c).evc)

/-- A word of mcopy, m2d, mcontrib or mfill that passes its checks and meets no condition of Table 3.2 appends one
entry to the move queue, which keeps the word's fields and the values of s[rs], s[rd] and s[rl] at dispatch; the
program counter moves by 16, registers and memories are unchanged (R73, R91, R140). -/
def Obligations.MovesEnterTheQueue : Prop :=
  ∀ r ∈ moveRows, ∀ (c : CoreId) (f : MovFields) (s : State), Ready s c → movCheck r.2 f (core s c) = .pass →
    (holdRow (core s c) (movRanges r.2 f (core s c)) (movFull (core s c))).1 = 0 →
    ∃ t m, exec (r.1 c f) s = .next t ∧ OnlyCore s t c ∧ (core t c).movq = (core s c).movq ++ [m] ∧
      m.kind = r.2 ∧ m.f = f ∧ m.pc = (core s c).pc ∧ m.srcAddr = (core s c).sreg f.rs.toNat ∧
      m.dstAddr = (core s c).sreg f.rd.toNat ∧ m.shape = (core s c).sreg f.rl.toNat ∧
      (core t c).pc = (core s c).pc + 16 ∧ KeepsRegs (core s c) (core t c) ∧ (core t c).chans = (core s c).chans

/-- When the units of a core run and a channel is idle, MOVE_START takes the first move of the queue that names the
channel, leaving the others in order; where a panel address of it lies in a space that its opcode does not take
the channel stops and the task ends with the move-fault status, and a copy within the core's own scratchpad
writes the source's bytes to its destination and no other byte (R91, R142, R95, R106). -/
def Obligations.MoveStartTakesTheOldest : Prop :=
  ∀ (c : CoreId) (ch : ChanNo) (s : State) (m : MoveOp), unitsRun s c = true → ((core s c).chan ch).phase = .idle →
    (core s c).movq.find? (fun q => q.f.ch.toNat == ch.val) = some m →
    (∀ a, badAddr m = some a → ∃ t, exec (.moveStart c ch .none) s = .next t ∧ ((core t c).chan ch).phase = .stopped ∧
      (core t c).st = .drain ∧ (core t c).status = some ((core s c).status.getD 6) ∧ t.spm = s.spm ∧ t.hbm = s.hbm ∧
      (core t c).movq = (core s c).movq.filter (fun q => q.f.ch.toNat != ch.val)) ∧
    (∀ a b n, LocalCopy m a b n → n ≤ 24576 → s.memsWf = true → a + n ≤ 2 ^ 20 → b + n ≤ 2 ^ 20 →
      ∃ t, exec (.moveStart c ch .none) s = .next t ∧ ((core t c).chan ch).mv = some m ∧
        (core t c).movq = dropFirst (fun q => q.f.ch.toNat == ch.val) (core s c).movq ∧
        (∀ i, i < n → memGet t.spm (spmKey c (b + i)) = memGet s.spm (spmKey c (a + i))) ∧
        (∀ x, (∀ i, i < n → x ≠ spmKey c (b + i)) → memGet t.spm x = memGet s.spm x) ∧ t.hbm = s.hbm ∧ t.sram = s.sram)

/-- When every byte of a channel's move is sent and acknowledged, MOVE_COMPLETE adds 1 to the local counter if lev
is set and to no other; without sig the channel is idle, and with sig in space 0x2 or 0x6 one signal message is
sent and the channel waits for its acknowledgement; CREDIT_REQUEST_RETRY makes a channel that waits after a
grant of none, once its wait is over, busy again, unless the request is turned away; before that the request waits (R93). -/
def Obligations.MoveCompletes : Prop :=
  (∀ (c : CoreId) (ch : ChanNo) (s : State) (m : MoveOp), unitsRun s c = true → movDone s c ch = true →
    ((core s c).chan ch).mv = some m →
    let counts (t : State) : Prop := ∀ n, (core t c).ev n =
      if m.f.lev = true ∧ n = m.f.lctr.toNat then (core s c).ev n + 1 else (core s c).ev n
    (m.f.sig = false → ∃ t, exec (.moveComplete c ch) s = .next t ∧ OnlyCore s t c ∧ counts t ∧
      ((core t c).chan ch).phase = .idle ∧ KeepsRegs (core s c) (core t c)) ∧
    (m.f.sig = true → (m.dstAddr.toNat / 2 ^ 60 = 2 ∨ m.dstAddr.toNat / 2 ^ 60 = 6) →
      ∀ u, sendTo s (epCore c) (corePart s c) (.movSig c ch) m.dstAddr (fun _ => some (signalReq m.f.sctr.toNat)) = .sent u →
        ∃ t, exec (.moveComplete c ch) s = .next t ∧ counts t ∧ ((core t c).chan ch).phase = .signal ∧
          t.fab.msgs = u.fab.msgs ∧ t.spm = s.spm)) ∧
  (∀ (c : CoreId) (ch : ChanNo) (due : Nat) (s : State), unitsRun s c = true → ((core s c).chan ch).phase = .retry due →
    (due ≤ s.prc → ∃ t, exec (.creditRequestRetry (.core c) ch) s = .next t ∧
      (∀ d, ((core t c).chan ch).phase ≠ .retry d) ∧ ((core t c).chan ch).mv = ((core s c).chan ch).mv) ∧
    (s.prc < due → exec (.creditRequestRetry (.core c) ch) s = .next s))

/-- Each of vmov, vbcast, vadd, vsub, vmul, vmin, vmax, vfma, vdiv, vsqrt, vabs, vneg, vand, vor, vxor, vshl, vshr,
vsra and vact that passes its checks puts its row's value into every lane of vd that the predicate enables (all
lanes with pen = 0) and leaves the other lanes; no other register, predicate, table, scalar register or byte of
memory changes, and no flag of CORE_ASTAT is cleared (R89). -/
def Obligations.VectorLanes : Prop :=
  ∀ r ∈ laneRows, ∀ (c : CoreId) (f : VecFields) (s : State), Ready s c → r.2.1 f → Undrilled s c →
    ∃ t, exec (r.1 c f .none) s = .next t ∧ OnlyCore s t c ∧ VecFrame (core s c) (core t c) ∧
      WritesVreg (core s c) (core t c) f.vd ∧ (core t c).vec.p = (core s c).vec.p ∧
      (core t c).vec.tab = (core s c).vec.tab ∧ FlagsStick (core s c) (core t c) ∧
      ∀ l, l < 64 → lane (core t c) f.vd l =
        if (enabled (core s c) f).getLsbD l then r.2.2 f (core s c) l else lane (core s c) f.vd l

/-- vpset copies s[rs] to p[pd]; vcmp with a defined fmt and condition sets bit l of p[pd] to the comparison of va
and b in lane l where the lane is enabled and keeps it elsewhere; vsel, whatever pen is, gives lane l of vd va's
value where bit l of p[pg] is 1 and b's value where it is 0; every other predicate and register is as before (R135). -/
def Obligations.VectorPredicates : Prop :=
  ∀ (c : CoreId) (f : VecFields) (s : State), Ready s c → Undrilled s c →
    let k := core s c
    let others (t : State) : Prop := OnlyCore s t c ∧ VecFrame k (core t c) ∧ FlagsStick k (core t c) ∧
      ∀ n : BitVec 3, n ≠ f.pd → (core t c).vec.pred n.toNat = k.vec.pred n.toNat
    (∃ t, exec (.vpset c f .none) s = .next t ∧ others t ∧ (core t c).vec.v = k.vec.v ∧
      (core t c).vec.pred f.pd.toNat = k.sreg f.rs.toNat) ∧
    (arithOk false f → f.cond ≠ 7 → ∃ t, exec (.vcmp c f .none) s = .next t ∧ others t ∧ (core t c).vec.v = k.vec.v ∧
      ∀ l, l < 64 → ((core t c).vec.pred f.pd.toNat).getLsbD l =
        if (enabled k f).getLsbD l then (cmpLane f (lane k f.va l) ((second k f).getD l 0)).1
        else (k.vec.pred f.pd.toNat).getLsbD l) ∧
    (∃ t, exec (.vsel c f .none) s = .next t ∧ OnlyCore s t c ∧ VecFrame k (core t c) ∧ (core t c).vec.p = k.vec.p ∧
      WritesVreg k (core t c) f.vd ∧ (core t c).astat = k.astat ∧
      ∀ l, l < 64 → lane (core t c) f.vd l =
        if (k.vec.pred f.pg.toNat).getLsbD l then lane k f.va l else (second k f).getD l 0)

/-- vredsum, vredmax and vredmin that pass their checks set lanes 1 to 63 of vd to zero; lane 0 holds, for an
integer fmt, the exact sum, maximum or minimum of the enabled lanes, saturated or wrapped once, and for FP32 the
result of the tree of steps 32, 16, 8, 4, 2 and 1 in which lane l takes lane l with lane l + k; no other
register changes (R136). -/
def Obligations.VectorReductions : Prop :=
  ∀ (c : CoreId) (f : VecFields) (s : State), Ready s c → Undrilled s c →
    let k := core s c
    let gives (i : Instr) (rnd : Nat) (fp : Rnd → BitVec 32 → BitVec 32 → BitVec 32 × Astat) (neutral : BitVec 32)
        (op : Int → Int → Int) (z : Int) : Prop :=
      ∃ t, exec i s = .next t ∧ OnlyCore s t c ∧ VecFrame k (core t c) ∧ WritesVreg k (core t c) f.vd ∧
        (∀ l, 0 < l → l < 64 → lane (core t c) f.vd l = 0) ∧
        lane (core t c) f.vd 0 =
          if f.fmt = 0 then ([32, 16, 8, 4, 2, 1].foldl (fun x n => treeStep rnd n fp x)
              ((List.range 64).map fun l => if (enabled k f).getLsbD l then lane k f.va l else neutral, k.vec.lfsr, 0)).1.getD 0 0
          else (intOut (fmtOf f) f.ovf (((List.range 64).map fun l =>
              if (enabled k f).getLsbD l then intIn (fmtOf f) (lane k f.va l) else z).foldl op z)).1
    (arithOk true f → gives (.vredsum c f .none) f.rnd.toNat fpAdd 0x80000000 (fun a b => a + b) 0) ∧
    (arithOk false f → gives (.vredmax c f .none) 0 (fun _ => fpMinMax true) 0xFF800000 (fun a b => if a ≤ b then b else a)
      (-(2 ^ ((fmtOf f).width - 1) : Nat))) ∧
    (arithOk false f → gives (.vredmin c f .none) 0 (fun _ => fpMinMax false) 0x7F800000 (fun a b => if a ≤ b then a else b)
      ((2 ^ ((fmtOf f).width - 1) : Nat) - 1))

/-- vcvt between two defined formats with mx2 = 0 writes, for each enabled element, the code of its value converted
once by rnd and ovf, and keeps the others; vmxp of FP32 lanes with an MX target packs lanes 0 to 31 and 32 to 63,
whatever pen is, writes the 64 elements to vd and then the two scale codes to bytes 0 and 1 of vc, all other bytes kept; a
block that holds a NaN or an infinity is all zero with scale 0xFF and sets cvt_invalid, and a block of zeros has scale
0; vmxu gives each enabled lane its element times its block's scale, rounded once to FP32, and the canonical NaN where
that scale is 0xFF; flags stay set, and no other register, predicate or table changes; a word that fails these
conditions, rnd = 3 among them, changes no register and drains the core with the format-fault status (R43, R63, R64, R65, R133, R138). -/
def Obligations.VectorConversions : Prop :=
  ∀ (c : CoreId) (f : VecFields) (s : State), Ready s c → Undrilled s c →
    let k := core s c
    let runs (i : Instr) (t : State) : Prop := exec i s = .next t ∧ OnlyCore s t c ∧ VecFrame k (core t c) ∧
      FlagsStick k (core t c) ∧ (core t c).vec.p = k.vec.p ∧ (core t c).vec.tab = k.vec.tab
    let stops (i : Instr) : Prop := ∃ t, exec i s = .next t ∧ (core t c).st = .drain ∧ (core t c).pc = k.pc ∧
      KeepsRegs k (core t c) ∧ (core t c).vec = k.vec ∧ (core t c).status = some (k.status.getD 5)
    (∀ src tgt, Fmt.ofCode f.fmt.toNat = some src → Fmt.ofCode f.fmt2.toNat = some tgt → f.mx2 = false → f.rnd ≠ 3 →
      ∃ t, runs (.vcvt c f .none) t ∧ WritesVreg k (core t c) f.vd ∧
        (core t c).vreg f.vd = putElems tgt.width (enabled k f) ((List.range 64).map fun l =>
          if (enabled k f).getLsbD l then (convVal tgt (laneMode f k l) f.ovf
            (cvtIn src tgt ((getElems src.width (k.vreg f.va)).getD l 0)).1).1 else 0) (k.vreg f.vd)) ∧
    (Fmt.ofCode f.fmt.toNat = none ∨ Fmt.ofCode f.fmt2.toNat = none ∨ f.mx2 = true ∨ f.rnd = 3 → stops (.vcvt c f .none)) ∧
    (∀ m, Fmt.ofCode f.fmt2.toNat = some m → f.mx2 = true → m.mxAllowed = true → f.rnd ≠ 3 →
      (f.fmt = 0 →
        let block (n : Nat) : List Nat × Nat × Astat := mxPack m
          ((List.range 32).map fun l => fpIn (lane k f.va (n + l)))
          ((List.range 32).map fun l => ((draws k f.rnd.toNat (BitVec.allOnes 64)).getD (n + l) (.near, 0)).1)
        let packed := putElems m.width (BitVec.allOnes 64) ((block 0).1 ++ (block 32).1) (k.vreg f.vd)
        let old := if f.vd = f.vc then packed else k.vreg f.vc
        ∃ t, runs (.vmxp c f .none) t ∧ (∀ n, n ≠ f.vd → n ≠ f.vc → (core t c).vreg n = k.vreg n) ∧
          (f.vd ≠ f.vc → (core t c).vreg f.vd = packed) ∧
          (∀ l, 0 < l → l < 64 → lane (core t c) f.vc l = old.getD l 0) ∧
          bits (lane (core t c) f.vc 0).toNat 7 0 = (block 0).2.1 ∧
          bits (lane (core t c) f.vc 0).toNat 15 8 = (block 32).2.1 ∧
          bits (lane (core t c) f.vc 0).toNat 31 16 = bits (old.getD 0 0).toNat 31 16 ∧
          ((block 0).2.1 = 0xFF ∨ (block 32).2.1 = 0xFF → (core t c).astat &&& fCvtInvalid = fCvtInvalid)) ∧
      (∃ t, runs (.vmxu c f .none) t ∧ WritesVreg k (core t c) f.vd ∧ ∀ l, l < 64 →
        let scale := bits (lane k f.vc 0).toNat (if l < 32 then 7 else 15) (if l < 32 then 0 else 8)
        let elem := decodeVal m true ((getElems m.width (k.vreg f.va)).getD l 0)
        ((enabled k f).getLsbD l = false → lane (core t c) f.vd l = lane k f.vd l) ∧
        ((enabled k f).getLsbD l = true → scale = 255 → lane (core t c) f.vd l = 0x7FC00000) ∧
        ((enabled k f).getLsbD l = true → scale ≠ 255 → lane (core t c) f.vd l =
          BitVec.ofNat 32 (convVal .fp32 (laneMode f k l) f.ovf (scaleVal elem ((scale : Int) - 127))).1)) ∧
      ∀ (vs : List (Val × Astat)) (ms : List Rnd),
        ((∃ v ∈ vs, v.1 = .nan ∨ ∃ neg, v.1 = .inf neg) → (mxPack m vs ms).1 = List.replicate 32 0 ∧ (mxPack m vs ms).2.1 = 0xFF) ∧
        ((∀ v ∈ vs, ∃ neg e, v.1 = .fin neg 0 e) → (mxPack m vs ms).2.1 = 0)) ∧
    (mxOk f = false ∨ f.rnd = 3 → stops (.vmxp c f .none) ∧ stops (.vmxu c f .none)) ∧
    (f.fmt ≠ 0 → stops (.vmxp c f .none))

/-- With an absolute operand that is aligned and lies below SPM_SIZE and an empty scoreboard, vld loads the enabled
lanes of vd, vtload loads 256 table values and takes lo and inv from s[rs], and neither changes a byte of
memory; vst without predicate writes the 64 lanes of va and vpst the 8 bytes of p[pg], lowest byte first, and
neither changes any other byte, register or predicate (R137, R139, 04_instruction_set.md Table 4.11). -/
def Obligations.VectorMemory : Prop :=
  ∀ (c : CoreId) (f : VecFields) (s : State) (a : Nat), Ready s c → Undrilled s c → (core s c).sb = [] → s.memsWf = true →
    operand (core s c) f.spo = .flat a →
    let k := core s c
    let word (i : Nat) : BitVec 32 := BitVec.ofNat 32 (leNat (spmRead s c (a + 4 * i) 4))
    (a % 4 = 0 → a + 256 ≤ spmSize → ∃ t, exec (.vld c f .none) s = .next t ∧ OnlyCore s t c ∧ KeepsRegs k (core t c) ∧
      WritesVreg k (core t c) f.vd ∧ ∀ l, l < 64 → lane (core t c) f.vd l =
        if (enabled k f).getLsbD l then word l else lane k f.vd l) ∧
    (a % 4 = 0 → a + 1024 ≤ spmSize → ∃ t, exec (.vtload c f .none) s = .next t ∧ OnlyCore s t c ∧
      KeepsRegs k (core t c) ∧ (core t c).vec.v = k.vec.v ∧
      (core t c).vec.table (f.cond.toNat % 4) = ⟨(List.range 256).map word, (k.sreg f.rs.toNat).extractLsb' 0 32,
        (k.sreg f.rs.toNat).extractLsb' 32 32⟩) ∧
    (a % 4 = 0 → a + 256 ≤ spmSize → f.pen = false →
      ∃ t, exec (.vst c f .none) s = .next t ∧ OnlyCoreSpm s t c ∧ KeepsRegs k (core t c) ∧ (core t c).vec = k.vec ∧
        (∀ i, i < 256 → memGet t.spm (spmKey c (a + i)) = (lane k f.va (i / 4)).extractLsb' (8 * (i % 4)) 8) ∧
        (∀ x, (∀ i, i < 256 → x ≠ spmKey c (a + i)) → memGet t.spm x = memGet s.spm x)) ∧
    (a % 8 = 0 → a + 8 ≤ spmSize → ∃ t, exec (.vpst c f .none) s = .next t ∧ OnlyCoreSpm s t c ∧ KeepsRegs k (core t c) ∧
      (core t c).vec = k.vec ∧
      (∀ i, i < 8 → memGet t.spm (spmKey c (a + i)) = (k.vec.pred f.pg.toNat).extractLsb' (8 * i) 8) ∧
      (∀ x, (∀ i, i < 8 → x ≠ spmKey c (a + i)) → memGet t.spm x = memGet s.spm x))

/-- With the matrix queue empty and issue not paused, an mload that passes its checks with absolute ranges keeps the
descriptor's fmt, mx, k and anchor in the lane store with the operand's bytes; an mmul adds each row's blocks to
rows 0 to M - 1 of every lane, starting from zero with clr set, leaves rows M to 31 as they were or zeroes them
with clr, takes the effective anchor, and counts 64 blocks per row and block and, with clr, one tile; no byte of
memory and no scalar register changes (R81). -/
def Obligations.MatrixLoadAndMultiply : Prop :=
  ∀ (c : CoreId) (f : MatFields) (s : State), Ready s c → (core s c).mat.queue = [] → s.clk.paused = false →
    let k := core s c
    let d := descOf (k.sreg f.td.toNat) (k.sreg (f.td.toNat + 1))
    ∀ fm, Fmt.ofCode d.code = some fm → d.ring = false →
    (mloadCheck f k = .pass → (holdRow k (mloadRanges f k) false).1 = 0 →
      ∃ t, exec (.mload c f .none) s = .next t ∧ OnlyCore s t c ∧ KeepsRegs k (core t c) ∧
        (core t c).pc = k.pc + 16 ∧ (core t c).mat.accs = k.mat.accs ∧
        (core t c).mat.lane = some ⟨⟨fm, d.mx, d.k, signedOf 8 d.anchor⟩,
          spmRead s c d.base (64 * kPad d.k * fm.width / 8), spmRead s c d.sbase (if d.mx then 64 * kBlocks d.k else 0)⟩) ∧
    (∀ l, k.mat.lane = some l → mmulCheck f k = .pass → (holdRow k (mmulRanges f k) false).1 = 0 →
      let m := f.m1.toNat + 1
      let data := spmRead s c d.base (m * kPad d.k * fm.width / 8)
      let scales := spmRead s c d.sbase (if d.mx then m * kBlocks d.k else 0)
      ∃ t, exec (.mmul c f .none) s = .next t ∧ OnlyCore s t c ∧ KeepsRegs k (core t c) ∧
        (core t c).pc = k.pc + 16 ∧ (core t c).mat.anchor = some (effAnchor l.view d fm f.anchor) ∧
        (core t c).tile = (if f.clr then k.tile + 1 else k.tile) ∧
        (core t c).mblk = (k.mblk + 64 * m * kBlocks d.k) % 2 ^ 64 ∧
        (∀ i ln, i < m → ln < 64 → ((core t c).mat.row i).getD ln Acc.zero =
          rowLane l d fm (effAnchor l.view d fm f.anchor) data scales i ln
            (if f.clr then Acc.zero else (k.mat.row i).getD ln Acc.zero)) ∧
        (∀ i, m ≤ i → (core t c).mat.row i = if f.clr then List.replicate 64 Acc.zero else k.mat.row i))

/-- With the matrix queue empty and issue not paused, an mread that passes its checks with absolute ranges leaves
every accumulator, assay accumulator and the anchor as they were and writes no byte outside its output range;
with exact set the bytes are the exact-form records of rows 0 to M - 1 in row order, and otherwise the packed
codes of the converted accumulators (R82). -/
def Obligations.MatrixReadout : Prop :=
  ∀ (c : CoreId) (f : MatFields) (s : State), Ready s c → (core s c).mat.queue = [] → s.clk.paused = false →
    let k := core s c
    let d := descOf (k.sreg f.td.toNat) (k.sreg (f.td.toNat + 1))
    let m := f.m1.toNat + 1
    let g := (Fmt.ofCode d.code).getD .fp32
    let n := if f.exact then m * 2048 else m * 64 * g.width / 8
    let codes := (List.range m).flatMap fun r => (List.range 64).map fun l =>
      ((convLane k.mat (k.mat.anchor.getD 0) g f.rnd.toNat f.ovf d.scale l m 0 (k.mat.lfsr.getD l 0)).1.getD r (0, 0)).1
    d.ring = false → mreadCheck f k = .pass → (holdRow k (mreadRanges f k) false).1 = 0 →
    ∃ t, exec (.mread c f .none) s = .next t ∧ (core t c).mat.accs = k.mat.accs ∧ (core t c).mat.assay = k.mat.assay ∧
      (core t c).mat.anchor = k.mat.anchor ∧ KeepsRegs k (core t c) ∧ t.hbm = s.hbm ∧ t.sram = s.sram ∧
      t.spm = memWrite s.spm (spmKey c d.base) (if f.exact then
        (List.range m).flatMap fun r => (List.range 64).flatMap fun l =>
          ((k.mat.row r).getD l Acc.zero).toExact (k.mat.anchor.getD 0) else pack g.width codes) ∧
      (∀ x, (∀ i, i < n → x ≠ spmKey c (d.base + i)) → memGet t.spm x = memGet s.spm x)

/-- TASK_START on a core that accepts it sets s1 to s5 by Table 3.5 and no other scalar register, the program
counter to the entry offset and CORE_RSEED to the launch seed XOR (lcid x 0x9E3779B9), clears CORE_FAULT, the
tile counts and (with astat_clear) CORE_ASTAT, empties the instruction buffer and enters RUN; DRAIN_COMPLETE on
a drained core enters REPORT; TOKEN_ACK for a core whose token the host die has returns it to IDLE with every
event counter zero; TASK_STOP empties the queues of a running or draining core with the stopped status unless a
fault decided it; token acknowledgements and task stops wait while the die's clock is held (R103, R104, R105, R98,
R107, R349). -/
def Obligations.TaskLifecycle : Prop :=
  (∀ (c : CoreId) (m : TaskStartMsg) (s : State), acceptsTask s c = true → ∃ t, exec (.taskStart c m) s = .next t ∧
    (core t c).st = .run ∧ (core t c).pc = m.entry.toNat ∧ (core t c).ibuf = [] ∧
    (core t c).sreg 1 = m.args ∧ (core t c).sreg 2 = BitVec.ofNat 64 m.rank.toNat ∧
    (core t c).sreg 3 = BitVec.ofNat 64 c ∧ (core t c).sreg 4 = BitVec.ofNat 64 (m.task.toNat + 2 ^ 32 * m.step.toNat) ∧
    (core t c).sreg 5 = BitVec.ofNat 64 m.nranks.toNat ∧ (∀ n, 5 < n → (core t c).sreg n = (core s c).sreg n) ∧
    (core t c).rseed = m.seed ^^^ BitVec.ofNat 32 (c * 0x9E3779B9) ∧ (core t c).fault = 0 ∧
    (core t c).checked = 0 ∧ (core t c).unchecked = 0 ∧ (core t c).tile = 0 ∧ (core t c).evc = (core s c).evc ∧
    (core t c).astat = (if m.astatClear then 0 else (core s c).astat) ∧
    (core t c).vec.lfsr = (List.range 64).map (lfsrSeed (core t c).rseed) ∧ t.spm = s.spm ∧
    (∀ d, d ≠ c.val → core t d = core s d)) ∧
  (∀ (c : CoreId) (s : State), drained s c = true → ∃ t, exec (.drainComplete c) s = .next t ∧ OnlyCore s t c ∧
    (core t c).st = .report ∧ KeepsRegs (core s c) (core t c) ∧ (core t c).status = (core s c).status) ∧
  (∀ (c : CoreId) (s : State), (core s c).st = .report → awaitsToken s c = false → coreDieRuns s c = true →
    ∃ t, exec (.tokenAck c) s = .next t ∧ OnlyCore s t c ∧ (core t c).st = .idle ∧ (∀ n, (core t c).ev n = 0) ∧
      KeepsRegs (core s c) (core t c)) ∧
  (∀ (c : CoreId) (s : State), coreDieRuns s c = true → ((core s c).st = .run ∨ (core s c).st = .drain) →
    ∃ t, exec (.taskStop c) s = .next t ∧
    (core t c).st = .drain ∧ (core t c).movq = [] ∧ (core t c).mat.queue = [] ∧ (core t c).synq = [] ∧
    (core t c).status = some ((core s c).status.getD 1) ∧ t.spm = s.spm ∧ ∀ d, d ≠ c.val → core t d = core s d) ∧
  (∀ (c : CoreId) (s : State), coreDieRuns s c = false →
    exec (.taskStop c) s = .next s ∧ exec (.tokenAck c) s = .next s)

/-- RANGE_RETIRE of a finished entry without ring reservations removes that entry from the scoreboard and nothing
else; on a die whose clock runs, a stall run at its limit stops the task with the stall status; a word that is no instruction stops it with
the illegal-instruction status; the gatherer's timeout drains the entry of its line and changes no byte (R75, R174, R115, R160). -/
def Obligations.TaskEvents : Prop :=
  (∀ (c : CoreId) (n : Nat) (e : SbEntry) (s : State), unitsRun s c = true → aget n (core s c).sb = some e →
    e.ready = true → e.resv = [] → ∃ t, exec (.rangeRetire c n) s = .next t ∧ OnlyCore s t c ∧
      core t c = { core s c with sb := adel n (core s c).sb }) ∧
  (∀ (c : CoreId) (s : State), coreDieRuns s c = true → (core s c).st = .run → 2 ^ (core s c).wdogLimit ≤ (core s c).wdogRun →
    ∃ t, exec (.stallWatchdog c) s = .next t ∧ (core t c).st = .drain ∧ t.spm = s.spm ∧
      (core t c).status = some ((core s c).status.getD 8) ∧ (core t c).pc = (core s c).pc) ∧
  (∀ (c : CoreId) (w : BitVec 128) (s : State), Ready s c → isInstruction w = false →
    ∃ t, exec (.illegalInstruction c w) s = .next t ∧ (core t c).st = .drain ∧ t.spm = s.spm ∧
      (core t c).status = some ((core s c).status.getD 7) ∧ KeepsRegs (core s c) (core t c)) ∧
  (∀ (c : CoreId) (line : Nat) (s : State), coreDieRuns s c = true → ∃ t, exec (.gathererTimeout c line) s = .next t ∧ OnlyCore s t c ∧
    core t c = { core s c with gath := (core s c).gath.filter fun e => e.line != line })

/-- On a core that is present, clocked and in no reset, a ring configuration that is aligned and fits sets base, size and
roles with both pointers zero and any other changes no ring; a push of no more than the free bytes to a remote
producer's ring moves the published tail and a pop of no more than the bytes held moves the published head,
modulo twice the size, and larger amounts move nothing; a write to CORE_EVC sets that counter alone (R97, R164, R171). -/
def Obligations.RingAndCounterWrites : Prop :=
  ∀ (c : CoreId) (n : Fin 16) (v : Word) (s : State), takesWrites s c = true →
    let r := (core s c).ring n
    let base := v.toNat % 2 ^ 24
    let size := v.toNat / 2 ^ 24 % 2 ^ 24
    let m := v.toNat % 2 ^ 24
    (base % 64 = 0 → size % 64 = 0 → base + size ≤ spmSize → ∃ t, exec (.spmRingCfg c n v) s = .next t ∧ OnlyCore s t c ∧
      (core t c).ring n = ⟨base, size, v.getLsbD 48, v.getLsbD 49, false, 0, 0, 0, 0, [], []⟩ ∧
      ∀ i, i ≠ n.val → (core t c).ring i = (core s c).ring i) ∧
    (¬(base % 64 = 0 ∧ size % 64 = 0 ∧ base + size ≤ spmSize) → ∃ t, exec (.spmRingCfg c n v) s = .next t ∧
      t.cores = s.cores ∧ t.spm = s.spm) ∧
    (r.prod = true → ∃ t, exec (.spmRingPush c n v) s = .next t ∧ (core t c).ring n =
      (if m ≤ r.free then { r with tail := (r.tail + m) % (2 * r.size) } else r) ∧ t.spm = s.spm) ∧
    (r.cons = true → ∃ t, exec (.spmRingPop c n v) s = .next t ∧ (core t c).ring n =
      (if m ≤ r.used then { r with head := (r.head + m) % (2 * r.size) } else r) ∧ t.spm = s.spm) ∧
    ∀ i : Fin 64, ∃ t, exec (.coreEvcWrite c i v) s = .next t ∧ OnlyCore s t c ∧
      ∀ j, (core t c).ev j = if j = i.val then BitVec.ofNat 32 v.toNat else (core s c).ev j

/-- On a die whose clock runs, a cell with an uncorrectable edge error, of another version, or on VC2 outside rappel
mode leaves the fabric and changes no core and no memory, and so does every cell in a fenced router; a unicast cell
that stands at a router that is not fenced goes where its next hop leads when a credit is held and waits unchanged
otherwise, and one of the reserved channel code 3, for which no buffer exists, waits at every hop to a router (the
model's choice, assumption log 74); with no fenced router known, a cell in segment 0 of leg 1 crosses to the
neighbour in that segment's direction with one hop fewer, its position one higher when the segment ends (R186, R187, R193, R218, R231). -/
def Obligations.CellRoutes : Prop :=
  ∀ (at_ : RouterLoc) (din : Option Dir) (x : Cell) (s : State), dieClocked s (routerDie at_) = true →
    let left := dropFirst (fun f => f.at_ == .router at_ din && f.cell == x) s.fab.net
    let gone (ecc : Bool) : Prop := ∃ t, exec (.cellRoute at_ din x ecc) s = .next t ∧ t.fab = { s.fab with net := left } ∧
      t.cores = s.cores ∧ KeepsMem s t
    gone true ∧ (x.ver ≠ 1 → gone false) ∧ (x.ver = 1 → x.vc = 2 → s.links.topo.rappel = false → gone false) ∧
    (fencedAt s at_ = true → gone false) ∧
    (∀ site q f, at_ = .grid site q → fenced s site q = false → ⟨.router at_ din, x⟩ ∈ s.fab.net → x.ver = 1 →
      (x.vc ≠ 2 ∨ s.links.topo.rappel = true) → x.mc = false → gridHop s site q din x = .to f → drillEats s f = false →
      (exec (.cellRoute at_ din x false) s = .next (if hasCredit s f.at_ f.cell then
        { s with fab := { s.fab with net := left ++ [f] } } else s)) ∧
      ∀ l d, x.vc = 3 → f.at_ = .router l (some d) → exec (.cellRoute at_ din x false) s = .next s) ∧
    (∀ (site : SiteNo) (q : Fin 4) (t : Nat), x.pos = 0 → 1 ≤ x.l1s0.toNat % 32 → holesAt s site = [] →
      let d := dirOfCode (x.l1s0.toNat / 32)
      illegalTurn (siteCol site) din d = false → siteOfPlace (stepDir d (placeOfSite site)) = some t →
      gridHop s site q din x = .to ⟨.router (gridLoc t (edgeRouter t (dirBack d) x.half)) (some d),
        { x with l1s0 := x.l1s0 - 1, pos := if x.l1s0.toNat % 32 = 1 then 1 else 0 }⟩)

/-- A one-cell request at a core that is present, absorbs nothing, may be reached from its source and meets no tombstone
leaves its interface and is answered: WRITE puts its bytes into the scratchpad at the cell's offset and nowhere else, READ
of up to 48 bytes returns them, REG_WRITE of an event counter stores it, REG_READ returns the register, SIGNAL
adds one to its counter; MWRITE puts its bytes into the scratchpad of every selected core of the cluster (R97, R111, R163, R207, R212). -/
def Obligations.RequestsAtCores : Prop :=
  (∀ (c : CoreId) (x : Cell) (s : State), epKind x.dstEp.toNat = .core c → notTaken s x = none →
    srcMay s x (partOfCore s c) = true → tombed s (niOfEp x.dstEp.toNat) x = false →
    let off := x.offset.toNat
    (atDest s 1 x = true → x.cnt = 0 → off + (Cell.data x).length ≤ spmSize →
      ∃ t, exec (.write x) s = .next t ∧ t.spm = memWrite s.spm (spmKey c off) (Cell.data x) ∧ t.hbm = s.hbm ∧
        t.sram = s.sram ∧ (∀ d, core t d = { core s d with gath := (core t d).gath, merged := (core t d).merged }) ∧
        AnsweredBy s t x 0x10 0 [0, 0]) ∧
    (atDest s 2 x = true → 1 ≤ Cell.num x 0 3 → Cell.num x 0 3 ≤ 48 → off + Cell.num x 0 3 ≤ spmSize →
      ∃ t, exec (.read x .clean) s = .next t ∧ OnlyNet s t ∧
        AnsweredBy s t x 0x11 (Cell.num x 3 5) (spmRead s c off (Cell.num x 0 3))) ∧
    (∀ i, i < 64 → atDest s 3 x = true → off = 3 * 2 ^ 32 + 0x200 + 8 * i →
      ∃ t, exec (.regWrite x) s = .next t ∧ KeepsMem s t ∧ AnsweredBy s t x 0x10 0 [0, 0] ∧
        ∀ j, (core t c).ev j = if j = i then BitVec.ofNat 32 (Cell.num x 0 8) else (core s c).ev j) ∧
    (∀ r, atDest s 4 x = true → regAt s x = some r →
      ∃ t, exec (.regRead x) s = .next t ∧ OnlyNet s t ∧ AnsweredBy s t x 0x12 0 (leBytes 8 (readReg s r).toNat)) ∧
    (atDest s 5 x = true → Cell.byte x 0 < 64 →
      ∃ t, exec (.signal x) s = .next t ∧ KeepsMem s t ∧ AnsweredBy s t x 0x10 0 [0, 0] ∧
        ∀ j, (core t c).ev j = if j = Cell.byte x 0 then (core s c).ev j + 1 else (core s c).ev j)) ∧
  (∀ (k : ClusterNo) (x : Cell) (s : State), arrived s (niOfCluster k) (siteOfDie (k.val / 4)) 0x19 x = true →
    s.fab.mslots.find? (isSlot (niOfCluster k) (Cell.src x) x.tag) = none → tombed s (niOfCluster k) x = false → x.cnt = 0 → x.idx = 0 →
    x.offset.toNat + (Cell.data x).length ≤ spmSize →
    (∀ d ∈ mcastCores k x, mcastSkips s d = false ∧ srcMay s x (partOfCore s d) = true) →
    ∃ t, exec (.mwrite k x) s = .next t ∧ t.hbm = s.hbm ∧
      t.spm = (mcastCores k x).foldl (fun m d => memWrite m (spmKey d x.offset.toNat) (Cell.data x)) s.spm ∧
      ∀ d, core t d = { core s d with gath := (core t d).gath, merged := (core t d).merged })

/-- A one-cell request at a memory site that is present, absorbs nothing, may be reached and meets no tombstone leaves its
interface and is answered: WRITE puts its bytes into the stack at the cell's offset, READ of up to 48 bytes with clean ECC
returns them; CREDIT_REQUEST grants an input of an open stream the cells asked for up to a window of 512;
CONTRIB of granted bytes keeps them for their input where no output position becomes ready; no core changes (R212, R239, R253, R254, R255). -/
def Obligations.RequestsAtMemorySites : Prop :=
  ∀ (m : MemSiteNo) (x : Cell) (s : State), epKind x.dstEp.toNat = .mem m → tombed s (niOfEp x.dstEp.toNat) x = false →
    let off := x.offset.toNat
    let bs := Cell.data x
    (notTaken s x = none → srcMay s x (ownerOfSite s m) = true → off / 2 ^ 32 ≠ 15 →
      (atDest s 1 x = true → x.cnt = 0 → hbmOk s m 0 off bs.length = true →
        ∃ t, exec (.write x) s = .next t ∧ t.hbm = memWrite s.hbm (hbmKey m off) bs ∧ t.spm = s.spm ∧ t.sram = s.sram ∧
          t.cores = s.cores ∧ AnsweredBy s t x 0x10 0 [0, 0]) ∧
      (atDest s 2 x = true → 1 ≤ Cell.num x 0 3 → Cell.num x 0 3 ≤ 48 → hbmOk s m 0 off (Cell.num x 0 3) = true →
        drillWith s 7 m = false →
        ∃ t, exec (.read x .clean) s = .next t ∧ OnlyNet s t ∧
          AnsweredBy s t x 0x11 (Cell.num x 3 5) (hbmRead s m off (Cell.num x 0 3)))) ∧
    (∀ st i j, notTaken s x = none → atDest s 6 x = true → stream s m (Cell.byte x 0 % 64) = some st →
      inputIndex st (Cell.src x) = some i → st.ins[i]? = some j →
      let g := min (Cell.num x 2 2) (512 - inUse st j)
      ∃ t, exec (.creditRequest x) s = .next t ∧ KeepsMem s t ∧ t.cores = s.cores ∧
        stream t m (Cell.byte x 0 % 64) = some (modInput st i fun y => { y with granted := y.granted + g }) ∧
        AnsweredBy s t x 0x17 0
          (leBytes 1 (Cell.byte x 0 % 64) ++ leBytes 1 0 ++ leBytes 2 g ++ leBytes 4 (48 * j.granted))) ∧
    (∀ o st i j, contribLost s x = none → atDest s 0x18 x = true → x.cnt = 0 →
      o < 2 ^ 32 → off = portMark + o → isReducePort o = true → stream s m (portStream o) = some st →
      inputIndex st (Cell.src x) = some i → st.ins[i]? = some j → st.written ≤ portPos o →
      portPos o + bs.length ≤ 48 * j.granted → portPos o + bs.length ≤ redLen st.desc →
      let st' := modInput st i fun y => { y with data := putBytes y.data (portPos o) bs }
      (outRoom st' = 0 ∨ outReady st' st'.written (outRoom st') = false) →
      ∃ t, exec (.contrib x) s = .next t ∧ KeepsMem s t ∧ t.cores = s.cores ∧ stream t m (portStream o) = some st' ∧
        AnsweredBy s t x 0x10 0 [0, 0])

/-- WRITE_ACK and REG_DATA close the message of a panel access and dispatch goes on, a load's register taking the
value; READ_DATA keeps a cell of a message that is not complete, and its last cell writes a move's bytes to
scratchpad; ADDRESS_ERROR_RESPONSE, RESET_NACK and CORE_ABSENT close the message of a panel access, keep its tag
closed and stop the task with the address-fault status; BUSY makes the cell wait 2^min(n, 6) times the base time for
the n-th busy response, and BUSY_RETRY after that wait, and not before, sends that cell again on a route chosen for
it anew; CREDIT_GRANT closes the request, after a grant of none the channel or the stream waits the base time for its
retry, and a stream's credits rise by the cells granted (R72, R149, R200, R209, R210, R211, R214, R254). -/
def Obligations.ResponsesAtTheirRequester : Prop :=
  (∀ (x : Cell) (s : State) (m : Msg), respLost s x = none → msgOf s x = some m →
    (∀ (c : CoreId) rd pc, m.ep.toNat = epCore c → (core s c).chans = [] → (core s c).synq = [] →
      (core s c).hold = .access rd pc →
      (m.purpose = .stp c → m.want ≤ m.got.length + 1 → atDest s 0x10 x = true → ∃ t, exec (.writeAck x) s = .next t ∧
        KeepsMem s t ∧ t.fab.msgs = msgsWithout s m ∧ core t c = { core s c with hold := .none }) ∧
      (∀ r, m.purpose = .ldp c r → rd = some r → atDest s 0x12 x = true → ∃ t, exec (.regData x) s = .next t ∧
        KeepsMem s t ∧ t.fab.msgs = msgsWithout s m ∧ (core t c).hold = .none ∧
        WritesReg (core s c) (core t c) r (BitVec.ofNat 64 (Cell.num x 0 8))) ∧
      (∀ e ∈ [(Instr.addressErrorResponse x, 0x13), (.resetNack x, 0x14), (.coreAbsent x, 0x15)],
        atDest s e.2 x = true → (m.purpose = .stp c ∨ ∃ r, m.purpose = .ldp c r) → (core s c).st = .run →
        ∃ t, exec e.1 s = .next t ∧ KeepsMem s t ∧ t.fab.msgs = msgsWithout s m ∧
          t.fab.closed = s.fab.closed ++ [⟨m.ep, m.tag, s.prc, m.limit⟩] ∧ (core t c).st = .drain ∧
          (core t c).status = some ((core s c).status.getD 9) ∧ KeepsRegs (core s c) (core t c))) ∧
    (wantsData m.purpose = true → aget x.idx.toNat m.got = none → atDest s 0x11 x = true →
      let got := aput x.idx.toNat (Cell.data x) m.got
      (got.length < m.want → ∃ t, exec (.readData x) s = .next t ∧ OnlyMsgs s t ∧ MsgBecomes t m { m with got := got }) ∧
      (∀ (c : CoreId) (ch : ChanNo) i mv, m.want ≤ got.length → m.ep.toNat = epCore c →
        m.purpose = .movRead c ch (.loc i) → (core s c).synq = [] → (core s c).chans = [(ch.val, ⟨.busy, some mv, []⟩)] →
        ∃ t, exec (.readData x) s = .next t ∧ t.fab.msgs = msgsWithout s m ∧ t.hbm = s.hbm ∧
          t.spm = (locWrite s c mv.dst i (gotBytes got) false).spm)) ∧
    (atDest s 0x16 x = true → ∃ t, exec (.busy x) s = .next t ∧ OnlyMsgs s t ∧
      MsgBecomes t m { m with busy := m.busy + 1, waiting := m.waiting ++
        [(x.idx.toNat, s.prc + usTicks (2 ^ min (m.busy + 1) 6 * dget s 0x5000 3))] }) ∧
    (∀ (c : CoreId) (ch : ChanNo) w mv p ps, m.purpose = .movCredit c ch w → (core s c).synq = [] → atDest s 0x17 x = true →
      (core s c).chan ch = ⟨.busy, some mv, p :: ps⟩ → Cell.byte x 1 = 0 → Cell.num x 2 2 = 0 →
      ∃ t, exec (.creditGrant x) s = .next t ∧ KeepsMem s t ∧ t.fab.msgs = msgsWithout s m ∧
        (core t c).chan ch = ⟨.retry (s.prc + usTicks (dget s 0x5000 3)), some mv, p :: ps⟩) ∧
    (∀ i n st, m.purpose = .redCredit i n → atDest s 0x17 x = true → stream s i n = some st → Cell.byte x 1 = 0 →
      1 ≤ Cell.num x 2 2 → (outRoom st = 0 ∨ outReady st st.written (outRoom st) = false) →
      ∃ t, exec (.creditGrant x) s = .next t ∧ KeepsMem s t ∧ t.fab.msgs = msgsWithout s m ∧
        stream t i n = some { st with outCr := st.outCr + Cell.num x 2 2 }) ∧
    (∀ i n st, m.purpose = .redCredit i n → atDest s 0x17 x = true → stream s i n = some st → Cell.byte x 1 = 0 →
      Cell.num x 2 2 = 0 → ∃ t, exec (.creditGrant x) s = .next t ∧ KeepsMem s t ∧ t.fab.msgs = msgsWithout s m ∧
        stream t i n = some { st with again := some (s.prc + usTicks (dget s 0x5000 3)) })) ∧
  (∀ (ep : BitVec 16) (tag : BitVec 10) (idx : BitVec 9) (s : State) (m : Msg) (y : Cell),
    findMsg s ep.toNat tag.toNat = some m → m.cells[idx.toNat]? = some y →
    (∀ z due, (idx.toNat, due) ∈ m.waiting → due ≤ s.prc → rerouteCell s y = some z →
      ∃ t, exec (.busyRetry ep tag idx) s = .next t ∧ OnlyMsgs s t ∧
        t.fab.net = s.fab.net ++ [⟨.router (injectLoc z.srcEp.toNat) none, z⟩] ∧
        MsgBecomes t m { m with waiting := dropFirst (fun w => w.1 == idx.toNat) m.waiting }) ∧
    ((∀ w ∈ m.waiting, w.1 = idx.toNat → s.prc < w.2) → exec (.busyRetry ep tag idx) s = .next s))

/-- A target slot whose timeout has passed leaves its interface and a tombstone of its message takes its place; a
tombstone and, at an endpoint with a free tag, a closed tag end after twice the timeout and not before; a panel access whose response has not
come within twice the timeout is closed, its tag stays closed, and the task stops with the address-fault status (R213, R214). -/
def Obligations.MessageTimeouts : Prop :=
  (∀ (ni : Nat) (src : BitVec 28) (tag : BitVec 10) (s : State) (y : TSlot),
    s.fab.slots.find? (isSlot ni src tag) = some y →
    (y.start + usTicks y.limit ≤ s.prc → ∃ t ys, exec (.targetSlotTimeout ni src tag) s = .next t ∧
      t.fab.slots = s.fab.slots.filter (fun z => !isSlot ni src tag z) ∧
      t.fab.tombs = ys ++ [⟨ni, src, tag, s.prc, y.limit⟩] ∧ (∀ z ∈ ys, z ∈ s.fab.tombs) ∧ t.cores = s.cores ∧ KeepsMem s t) ∧
    (s.prc < y.start + usTicks y.limit → exec (.targetSlotTimeout ni src tag) s = .next s)) ∧
  (∀ (ni : Nat) (src : BitVec 28) (tag : BitVec 10) (s : State), ∃ t, exec (.tombstoneExpiry ni src tag) s = .next t ∧
    t = { s with fab := { s.fab with tombs := t.fab.tombs } } ∧ ∀ y, y ∈ t.fab.tombs ↔
      y ∈ s.fab.tombs ∧ ¬(y.ni = ni ∧ y.src = src ∧ y.tag = tag ∧ y.start + usTicks (2 * y.limit) ≤ s.prc)) ∧
  (∀ (ep : BitVec 16) (tag : BitVec 10) (s : State) (m : Msg) (c : CoreId) rd pc, findMsg s ep.toNat tag.toNat = some m →
    m.start + usTicks (2 * m.limit) ≤ s.prc → m.ep.toNat = epCore c →
    (m.purpose = .stp c ∨ ∃ r, m.purpose = .ldp c r) → (core s c).chans = [] → (core s c).synq = [] →
    (core s c).hold = .access rd pc → (core s c).st = .run → ∃ t, exec (.requesterTimeout ep tag) s = .next t ∧ KeepsMem s t ∧
      t.fab.msgs = msgsWithout s m ∧ t.fab.closed = s.fab.closed ++ [⟨m.ep, m.tag, s.prc, m.limit⟩] ∧
      (core t c).st = .drain ∧ (core t c).status = some ((core s c).status.getD 9)) ∧
  (∀ (ep : BitVec 16) (tag : BitVec 10) (s : State), freeTag s ep.toNat ≠ 1024 → ∃ t, exec (.tagReopen ep tag) s = .next t ∧
    t = { s with fab := { s.fab with closed := t.fab.closed } } ∧ ∀ y, y ∈ t.fab.closed ↔
      y ∈ s.fab.closed ∧ ¬(y.ep = ep ∧ y.tag = tag ∧ y.start + usTicks (2 * y.limit) ≤ s.prc))

/-- A site's window end stores for each output and half the level of its share, and zero for an output without a
neighbour, and the last of the sites completes the map; a die takes the root's newest complete map and returns to none
100 us after it, and not before; the 100 us record, at the end of its window and not before, takes the time and the next
number; a router fenced for the first time enters the route-hole map, alone, and loses the cells that
stood in it; a die takes the root's hole map; a hop-table update with no router fenced publishes the distances
of the formula, and the transit tables take the present hole map (R29, R31, R201, R202, R203, R231, R285). -/
def Obligations.FabricMaps : Prop :=
  ∀ s : State,
    (∀ (site : SiteNo) (occ : List Nat), ∃ t, exec (.congestionWindowEnd site occ) s = .next t ∧
      t = { s with fab := { s.fab with words := t.fab.words, reported := t.fab.reported, whole := t.fab.whole,
                                       occSum := t.fab.occSum } } ∧
      t.fab.whole = (if nextReported s.fab.reported site = [] then some t.fab.words else s.fab.whole) ∧
      (∀ u, u ≠ site.val → aget u t.fab.words = aget u s.fab.words) ∧
      ∀ d half, levelOf t.fab.words site d half = if hasNeighbour site d then
        levelOfShare (occ.getD (2 * d.code + if half then 1 else 0) 0) else 0) ∧
    (∀ (d : DieNo) w, s.fab.whole = some w → ∃ t, exec (.congestionMap d) s = .next t ∧
      t = { s with fab := { s.fab with maps := t.fab.maps } } ∧
      ∀ e, wordsAt t e = if e = d.val then w else wordsAt s e) ∧
    (s.fab.whole = none → ∀ d : DieNo, exec (.congestionMap d) s = .next s) ∧
    (∀ (d : DieNo) m, aget d.val s.fab.maps = some m →
      (m.1 + usTicks 100 ≤ s.prc → keysRise s.fab.maps = true → ∃ t, exec (.congestionMapStale d) s = .next t ∧
        t = { s with fab := { s.fab with maps := t.fab.maps } } ∧ ∀ e, wordsAt t e = if e = d.val then [] else wordsAt s e) ∧
      (s.prc < m.1 + usTicks 100 → exec (.congestionMapStale d) s = .next s)) ∧
    (s.fab.cmap.1 + usTicks 100 ≤ s.prc → ∃ t, exec .cmapRecord s = .next t ∧
      t = { s with fab := { s.fab with cmap := t.fab.cmap, occSum := [] } } ∧
      t.fab.cmap.1 = s.prc ∧ t.fab.cmap.2.1 = (s.fab.cmap.2.1 + 1) % 2 ^ 32) ∧
    (s.prc < s.fab.cmap.1 + usTicks 100 → exec .cmapRecord s = .next s) ∧
    (∀ (site : SiteNo) (q : Fin 4) (cause : BitVec 4), (isMemSite site = false ∨ q = 0) → fenced s site q = false →
      ∃ t, exec (.routerFence site q cause) s = .next t ∧ KeepsMem s t ∧ t.fab.holesPrc = s.prc ∧
        (∀ u r, r < 4 → fenced t u r = (fenced s u r || (u == site.val && r == q.val))) ∧
        ∀ f, f ∈ t.fab.net ↔ f ∈ s.fab.net ∧ ∀ d, f.at_ ≠ .router (.grid site q) d) ∧
    (∀ d : DieNo, ∃ t, exec (.routeHoleMap d) s = .next t ∧ t = { s with fab := { s.fab with holeMaps := t.fab.holeMaps } } ∧
      ∀ e, holesAt t e = if e = d.val then s.fab.holes else holesAt s e) ∧
    (∃ t, exec .hopTableUpdate s = .next t ∧
      t = { s with fab := { s.fab with hops := t.fab.hops, hopsGen := (s.fab.hopsGen + 2) % 2 ^ 32 } } ∧
      (s.fab.holes = [] → ∀ m d, hopEntry t m d = plainDistance d m)) ∧
    (∃ t, exec .transitTableRecompute s = .next t ∧ t = { s with fab := { s.fab with transit := some s.fab.holes } })

/-- A commit for a defined partition whose cores are all IDLE and whose map is not being loaded starts the load with
status loading; when it ends, an image of 1 to 65,536 entries that can be read and holds no bad entry comes into
force with status loaded and its generation count one higher, and one with a bad entry leaves the map in force
and gets status refused (R228, R229). -/
def Obligations.RankMapLoads : Prop :=
  ∀ (p : PartNo) (s : State),
    (partSt s p ≠ 0 → partBusy s p = false → p.val ∉ s.fab.loads → ∃ t, exec (.rmapCommit p) s = .next t ∧
      t = { s with dict := t.dict, fab := { s.fab with loads := s.fab.loads ++ [p.val] } } ∧ dget t (0x6100 + p) 0x0E = 1) ∧
    (∀ bs, p.val ∈ s.fab.loads →
      let n := dget s (0x6100 + p) 0x0B
      let a := BitVec.ofNat 64 (dget s (0x6100 + p) 0x0A)
      1 ≤ n → n ≤ 65536 → spaceOf a = 0 → (∀ x, drillWith s 7 x = false) → readRange s (some p.val) a (8 * n) = some bs →
      (firstBad s p 0 (entriesOf n bs) = none → ∃ t, exec (.rankMapLoaded p) s = .next t ∧ p.val ∉ t.fab.loads ∧
        KeepsMem s t ∧ t.cores = s.cores ∧ dget t (0x6100 + p) 0x0E = 2 ∧
        dget t (0x6100 + p) 0x0D = (dget s (0x6100 + p) 0x0D + 1) % 2 ^ 32 ∧
        ∀ q, agetD q [] t.fab.rmaps = if q = p.val then entriesOf n bs else agetD q [] s.fab.rmaps) ∧
      (∀ r k w, firstBad s p 0 (entriesOf n bs) = some (r, k, w) → ∃ t, exec (.rankMapLoaded p) s = .next t ∧
        p.val ∉ t.fab.loads ∧ t.fab.rmaps = s.fab.rmaps ∧ KeepsMem s t ∧ t.cores = s.cores ∧
        dget t (0x6100 + p) 0x0E = 3))

/-- A write by an endpoint that may reach a core stores an event counter, clears the CORE_ASTAT flags whose bit is
1, and leaves everything as it was at the read-only CORE_STATE; a write into the SPM_ window acts as the ring
commands do; a write of a multicast mask of a memory site reads back; base-camp firmware's write of the
reassembly timeout is stored from 50 to 10,000 and changes nothing outside that range, and waits while the monitor
holds the service bus (R11, R12, R111, R162, R265, R471). -/
def Obligations.RegisterWrites : Prop :=
  (∀ (c : CoreId) (off by_ : BitVec 16) (v : Word) (s : State), coreTakes s c by_.toNat off.toNat = true →
    let e := exec (.registerWrite (.core c off by_) v) s
    (∀ i, i < 64 → off.toNat = 0x200 + 8 * i → ∃ t, e = .next t ∧ OnlyCore s t c ∧
      ∀ j, (core t c).ev j = if j = i then v.setWidth 32 else (core s c).ev j) ∧
    (off = 0x30 → ∃ t, e = .next t ∧ OnlyCore s t c ∧ (core t c).astat = (core s c).astat &&& ~~~v.setWidth 16) ∧
    (off = 0x10 → e = .next s)) ∧
  (∀ (c : CoreId) (n : Fin 16) (off : BitVec 12) (by_ : BitVec 16) (v : Word) (s : State),
    coreTakes s c by_.toNat off.toNat = true →
    (off.toNat = 0x100 + 32 * n → exec (.registerWrite (.spm c off by_) v) s = exec (.spmRingCfg c n v) s) ∧
    (off.toNat = 0x110 + 32 * n → exec (.registerWrite (.spm c off by_) v) s = exec (.spmRingPush c n v) s) ∧
    (off.toNat = 0x118 + 32 * n → exec (.registerWrite (.spm c off by_) v) s = exec (.spmRingPop c n v) s)) ∧
  (∀ (m : MemSiteNo) (i : Fin 8) (off : BitVec 12) (by_ : BitVec 16) (v : Word) (s : State),
    siteTakes s m by_.toNat off.toNat = true → off.toNat = 0x100 + 8 * i →
    ∃ t, exec (.registerWrite (.cru m off by_) v) s = .next t ∧ t = { s with msites := t.msites } ∧
      cruReg t m off.toNat = v) ∧
  (∀ (v : Word) (s : State), firmwareUp s = true →
    let e := exec (.registerWrite (.cairn .firmware 0x5000 1) v) s
    (s.mgmt.bus.taken = false →
      (50 ≤ v.toNat → v.toNat ≤ 10000 → ∃ t, e = .next t ∧ t = { s with dict := t.dict } ∧ dget t 0x5000 1 = v.toNat) ∧
      (v.toNat < 50 ∨ 10000 < v.toNat → e = .next s)) ∧
    (s.mgmt.bus.taken = true → e = .next (waitBus s 0)))

/-- On a ready panel a core, cluster or region reset that joins no other, with no spare to switch in, leaves every
core of its unit that has state as after core reset with its scratchpad as it was, and no other core changed; a
partition reset of a partition that is on makes it resetting and is recorded with its start; the row then leaves its
cores as after core reset and notes when; once twice the reassembly timeout has passed after that, and not before,
the row completes it and the partition is on again; no byte of memory changes (R109, R110, R403, R404, R406,
12_bringup_reset.md Table 12.7). -/
def Obligations.ResetsBelowThePanel : Prop :=
  ∀ s : State, panelReady s = true →
    let asReset (t : State) (d : Nat) : Prop := if coreGated s d then core t d = core s d
      else ∃ n, core t d = afterReset (core s d) n
    let unit (i : Instr) (level u : Nat) : Prop := joins s level u = false →
      (level = 2 → ∀ d ∈ unitCores 2 u, needsSwitch s d = false) → ∃ t, exec i s = .next t ∧ KeepsMem s t ∧
        ∀ d, if d ∈ unitCores level u then asReset t d else core t d = core s d
    (∀ c : CoreId, unit (.coreReset c) 1 c) ∧ (∀ k : ClusterNo, unit (.clusterReset k) 2 k) ∧
    (∀ r : RegionNo, unit (.regionReset r) 3 r) ∧
    (∀ p : PartNo, runReset s 4 p = none → partSt s p = 3 → ∃ t, exec (.partitionReset p) s = .next t ∧ KeepsMem s t ∧
      runReset t 4 p = some ⟨4, p.val, firstCore s p, s.prc, none⟩ ∧ ∀ q, partSt t q = if q = p.val then 4 else partSt s q) ∧
    (∀ (p : PartNo) (r : RunReset), runReset s 4 p = some r → partSt s p = 4 → r.swept = none →
      ∃ t, exec (.partitionReset p) s = .next t ∧ KeepsMem s t ∧ runReset t 4 p = some { r with swept := some s.prc } ∧
        (∀ q, partSt t q = partSt s q) ∧ ∀ d ∈ coresOfPart s p, asReset t d) ∧
    (∀ (p : PartNo) (r : RunReset) (w : Nat), runReset s 4 p = some r → partSt s p = 4 → r.swept = some w →
      (w + twiceTimeout s ≤ s.prc → ∃ t, exec (.partitionReset p) s = .next t ∧ KeepsMem s t ∧ runReset t 4 p = none ∧
        (∀ q, partSt t q = if q = p.val then 3 else partSt s q)) ∧
      (s.prc < w + twiceTimeout s → exec (.partitionReset p) s = .next s))

/-- A released link reaches codeword lock, takes its round trip and sends the panel's capability record three times; a
capability record of version 1, once three identical copies have come in a row, brings the locked link up, with full
credits where no cell waits to go again, or holds it with the code of the first check that fails; without lock after
500 ms it is down with reason 1 or 2 and not before; loss of lock takes an up link down; a retrain attempt
releases it again while attempts are left and fences it when they are used up and the peer's training has failed
too; fence, unfence and retrain act in the states that Table 8.11 allows; no other link changes; the exit map
shows exactly the link dies with a link up (R278, R279, R280, R282, 08_links.md Table 8.8). -/
def Obligations.LinkStates : Prop :=
  (∀ (l : LinkNo) (s : State),
    let x := link s l
    let only (i : Instr) (p : State → Prop) : Prop := ∃ t, exec i s = .next t ∧ p t ∧ t.cores = s.cores ∧ KeepsMem s t ∧
      t.fab = s.fab ∧ ∀ k, k ≠ l.val → link t k = link s k
    (∀ rtt, x.state = 1 → only (.linkTraining l true true rtt) fun t =>
      link t l = { x with locked := true, rtt := rtt.toNat } ∧
      t.out = s.out ++ [.capability l (List.replicate 3 (capFragments (ownCaps s l)))]) ∧
    (∀ cs, heardRecord cs = none → exec (.capabilityRecord l cs) s = .next s) ∧
    (∀ cs r, heardRecord cs = some r → x.state = 1 → x.locked = true → r.ver = 1 →
      (trainFault s l r = none → only (.capabilityRecord l cs) fun t => (link t l).state = 2 ∧ (link t l).caps = some r ∧
        (link t l).rxSeq = 0 ∧ ((∀ w ∈ x.buf ++ x.resend, w.cells = []) →
          (link t l).cr0 = 1024 ∧ (link t l).cr1 = 1024 ∧ (link t l).cr2 = 256)) ∧
      (∀ k, trainFault s l r = some k → only (.capabilityRecord l cs) fun t =>
        link t l = { x with state := 3, reason := k, caps := some r })) ∧
    (∀ sig, x.state = 1 → x.locked = false →
      (x.since + usTicks 500000 ≤ s.prc → only (.trainingTimeout l sig) fun t =>
        link t l = { x with state := 4, reason := if sig then 2 else 1 }) ∧
      (s.prc < x.since + usTicks 500000 → exec (.trainingTimeout l sig) s = .next s)) ∧
    (x.state = 2 → only (.lossOfLock l) fun t => (link t l).state = 4 ∧ (link t l).reason = 2 ∧ (link t l).lost = true) ∧
    (∀ peer, x.state = 4 → x.lost = true →
      (x.attempts < dget s 0x5800 9 → x.since + usTicks 100000 ≤ s.prc → only (.retrainAttempt l peer) fun t =>
        (link t l).state = 1 ∧ (link t l).attempts = x.attempts + 1 ∧ (link t l).since = s.prc) ∧
      (dget s 0x5800 9 ≤ x.attempts → peer = true → only (.retrainAttempt l peer) fun t => (link t l).state = 5)) ∧
    (x.state ≠ 0 → x.state ≠ 5 → only (.linkFence l) fun t => link t l = { x with state := 5, lost := false }) ∧
    (x.state = 5 → linkServes s l = true → only (.linkUnfence l) fun t => (link t l).state = 1 ∧ (link t l).attempts = 0) ∧
    ((x.state = 2 ∨ x.state = 3 ∨ x.state = 4) → linkServes s l = true → only (.linkRetrain l) fun t =>
      (link t l).state = 1 ∧ (link t l).attempts = 0 ∧ (link t l).since = s.prc)) ∧
  (∀ s : State, ∃ t, exec .exitMapChange s = .next t ∧ t.cores = s.cores ∧ t.links.links = s.links.links ∧
    (∀ d, d < 24 → bit (exitBits s) d = !(upLinks s d).isEmpty) ∧ t.links.exitMap = exitBits s)

/-- On a link that is up, the next codeword in order advances the receive count, puts the cells that its 640 bytes
complete at the entry link die and keeps the bytes of the one that it cuts, and the first bad codeword asks for a
replay from the expected number; a retry request sends the kept codewords again from the one it names; a credit
message raises its virtual channel's credits up to 1,024, 1,024 and 256; a cell at an exit link die with enough
credits whose turn it is goes on the link that its tag selects, one credit fewer, changed as the torus hop says, waits
otherwise, and is discarded without a link; a cell at an entry link die enters the panel by its entry route (R194,
R195, R267, R269, R270, R271, R277, R283, R284). -/
def Obligations.LinkTraffic : Prop :=
  (∀ (l : LinkNo) (s : State), (link s l).state = 2 →
    let x := link s l
    (∀ w : Codeword, w.bad = false → w.num.toNat = x.rxSeq → ∃ t, exec (.codewordReceive l w) s = .next t ∧
      t.cores = s.cores ∧ KeepsMem s t ∧ (link t l).rxSeq = (x.rxSeq + 1) % 1024 ∧ (link t l).replay = false ∧
      (link t l).rxRest = (streamCells x.rxRest w.stream).2 ∧
      ∀ c ∈ (streamCells x.rxRest w.stream).1, c.ver ≠ 0 → c.cls = 2 → ⟨.entry l, c⟩ ∈ t.fab.net) ∧
    (∀ w : Codeword, w.bad = true → x.replay = false → x.buf.length < 512 → ∃ t, exec (.codewordReceive l w) s = .next t ∧
      t.fab = s.fab ∧ t.cores = s.cores ∧ (link t l).replay = true ∧ (link t l).rxSeq = x.rxSeq ∧
      t.out = s.out ++ [.codeword l ⟨x.txSeq, 2, x.rxSeq, 0, 0, [], x.txRest, 0⟩]) ∧
    (∀ (q : BitVec 10) (i : Nat), x.buf.findIdx? (fun w => w.num == q.toNat) = some i →
      ∃ t, exec (.retryRequest l q) s = .next t ∧ t.links = s.links ∧ t.fab = s.fab ∧ t.cores = s.cores ∧
        t.out = s.out ++ (x.buf.drop i).map fun w => .codeword l w) ∧
    (x.resend = [] → ∀ n : BitVec 4,
      (∃ t, exec (.linkCredit l 0 n) s = .next t ∧ t = { s with links := t.links } ∧
        link t l = { x with cr0 := min 1024 (x.cr0 + n.toNat) }) ∧
      (∃ t, exec (.linkCredit l 1 n) s = .next t ∧ t = { s with links := t.links } ∧
        link t l = { x with cr1 := min 1024 (x.cr1 + n.toNat) }) ∧
      (∃ t, exec (.linkCredit l 2 n) s = .next t ∧ t = { s with links := t.links } ∧
        link t l = { x with cr2 := min 256 (x.cr2 + n.toNat) }))) ∧
  (∀ (d : LinkDieNo) (x : Cell) (s : State), ⟨.exit d, x⟩ ∈ s.fab.net →
    let left := dropFirst (fun f => f.at_ == .exit d && f.cell == x) s.fab.net
    (∀ k l0 ls, torusDir x = some k → upLinks s d = l0 :: ls →
      let l := (l0 :: ls).getD (x.tag.toNat % 4 % (ls.length + 1)) l0
      let y := hopCell s x k
      let may := creditsNeeded s x k ≤ (link s l).credits y.vc ∧ (link s l).buf.length < 512 ∧ (link s l).resend = [] ∧
        yields s d x l = false
      (may → ∃ t w, exec (.cellExit d x) s = .next t ∧ t.fab = { s.fab with net := left } ∧ t.cores = s.cores ∧
        t.out = s.out ++ [.codeword l w] ∧ w.cells = [y] ∧ (link t l).buf = (link s l).buf ++ [w] ∧
        (link t l).credits y.vc = (link s l).credits y.vc - 1 ∧ (link t l).lastOwn = ownCell s x) ∧
      (¬ may → exec (.cellExit d x) s = .next s)) ∧
    (upLinks s d = [] → ∃ t, exec (.cellExit d x) s = .next t ∧ t.fab = { s.fab with net := left } ∧ t.out = s.out)) ∧
  (∀ (l : LinkNo) (x : Cell) (s : State), ⟨.entry l, x⟩ ∈ s.fab.net → dieClocked s (240 + l.val / 4) = true →
    let left := dropFirst (fun f => f.at_ == .entry l && f.cell == x) s.fab.net
    (∀ y b, entryCell s (l.val / 4) x = some (y, b) → ∃ t, exec (.cellEntry l x) s = .next t ∧ t.cores = s.cores ∧
      t.fab = { s.fab with net := left ++ [⟨.router (injectLoc (epLink (l.val / 4))) none, y⟩] }) ∧
    (entryCell s (l.val / 4) x = none → ∃ t, exec (.cellEntry l x) s = .next t ∧ t.fab = { s.fab with net := left }))

/-- On a ready queue pair with nothing waiting, RDMA_WRITE and RDMA_WRITE_IMM through window 0 write record slots of
the SRAM of the host die that the address names and are acknowledged; RDMA_READ returns the bytes of window 0; FETCH_AND_ADD and
COMPARE_AND_SWAP on a reservation word store the sum, or the swap value where the old word equals the compare
value, and return the old word; a write through a fabric window of one piece opens its message and gives no
answer yet; a key that names no window gets NAK 2 and changes no memory; a packet marked CE does the same after a CNP
has gone back, at most one in each interval; INVALID_OPCODE gets NAK 1; ICRC_FAIL counts one discarded packet (R293,
R297, R298, R299, R300, R301, R302). -/
def Obligations.InboundRdma : Prop :=
  (∀ (h : HostNo) (qpn : BitVec 24) (key : BitVec 32) (va : Word) (s : State) (q : Qp), findQp s h qpn = some q →
    q.st = .ready → (∀ y ∈ s.host.ins, ¬(y.host = h.val ∧ y.qpn = qpn) ∧ y.op < s.host.nextOp) →
    (∀ d off, windowOf s q.part key = some 0 → sramOff va = some (d, off) →
      (∀ bs imm, 1 ≤ bs.length → bs.length ≤ 2 ^ 31 → ringTarget s d q.part off bs.length = some .slots →
        ∀ i ∈ [Instr.rdmaWrite ⟨h, false⟩ qpn key va bs, .rdmaWriteImm ⟨h, false⟩ qpn key va bs imm], ∃ t, exec i s = .next t ∧
          t.sram = memWrite s.sram (sramKey d off) bs ∧ t.spm = s.spm ∧ t.hbm = s.hbm ∧ t.cores = s.cores ∧
          t.out = s.out ++ [.ack h qpn]) ∧
      (∀ (n : BitVec 32) bs, 1 ≤ n.toNat → n.toNat ≤ 2 ^ 31 → ringRead s d q.part off n.toNat = some bs →
        ∃ t, exec (.rdmaRead ⟨h, false⟩ qpn key va n) s = .next t ∧ KeepsMem s t ∧ t.out = s.out ++ [.readResponse h qpn bs]) ∧
      (∀ r, off % 8 = 0 → ringTarget s d q.part off 8 = some (.resv r) →
        let old := (cring s r).resv
        (∀ v, ∃ t, exec (.fetchAndAdd ⟨h, false⟩ qpn key va v) s = .next t ∧ KeepsMem s t ∧ (cring t r).resv = old + v ∧
          (cring t r).tail = (cring s r).tail ∧ t.out = s.out ++ [.atomicResponse h qpn old]) ∧
        (∀ cmp new, ∃ t, exec (.compareAndSwap ⟨h, false⟩ qpn key va cmp new) s = .next t ∧ KeepsMem s t ∧
          (cring t r).resv = (if old = cmp then new else old) ∧ (cring t r).tail = (cring s r).tail ∧
          t.out = s.out ++ [.atomicResponse h qpn old]))) ∧
    (∀ w bs p u, windowOf s q.part key = some w → w ≠ 0 → w ≠ 4 → inBivouac s = false →
      fabricOk s q.part w va bs.length = true → 1 ≤ bs.length → bs.length ≤ 2 ^ 31 → opPieces (.write key va bs) = [p] →
      sendTo { s with host := { s.host with nextOp := s.host.nextOp + 1, ins := s.host.ins ++
          [⟨s.host.nextOp, h, qpn, .write key va bs, true, [p], 0, [], none⟩] } }
        (epHost h) (some q.part) (.hostWrite s.host.nextOp) va (fun d => pieceReq d p) = .sent u →
      ∃ t, exec (.rdmaWrite ⟨h, false⟩ qpn key va bs) s = .next t ∧ KeepsMem s t ∧ t.fab = u.fab ∧ t.out = s.out) ∧
    (windowOf s q.part key = none → ∀ (bs : List Byte) (n : BitVec 32) v, 1 ≤ bs.length → bs.length ≤ 2 ^ 31 →
      1 ≤ n.toNat → n.toNat ≤ 2 ^ 31 →
      ∀ i ∈ [Instr.rdmaWrite ⟨h, false⟩ qpn key va bs, .rdmaRead ⟨h, false⟩ qpn key va n, .fetchAndAdd ⟨h, false⟩ qpn key va v],
        ∃ t os, exec i s = .next t ∧ KeepsMem s t ∧ t.cores = s.cores ∧ t.out = s.out ++ os ++ [.nak h qpn 2]) ∧
    (∀ bs imm n v w, ∀ f ∈ [fun p => Instr.rdmaWrite p qpn key va bs, fun p => .rdmaWriteImm p qpn key va bs imm,
        fun p => .rdmaRead p qpn key va n, fun p => .fetchAndAdd p qpn key va v, fun p => .compareAndSwap p qpn key va v w],
      exec (f ⟨h, true⟩) s = exec (f ⟨h, false⟩) (markedBy s h qpn true)) ∧
    (markedBy s h qpn true).out = s.out ++ (if q.cnpSent.all fun t0 => decide (t0 + usTicks (dget s 0x6800 7) ≤ s.prc)
      then [.cnp h qpn] else []) ∧
    exec (.invalidOpcode h qpn) s = .next { s with out := s.out ++ [.nak h qpn 1] }) ∧
  (∀ (port : PortNo) (s : State), ∃ t, exec (.icrcFail port) s = .next t ∧
    t = { s with host := { s.host with icrc := t.host.icrc } } ∧
    ∀ p, agetD p 0 t.host.icrc = if p = port.val then agetD p 0 s.host.icrc + 1 else agetD p 0 s.host.icrc)

/-- A connection request that passes its checks opens one queue pair at the full rate and answers REP, and one that
fails gets REJ with its reason; RTU makes an opening pair ready, REJ abandons it, DREQ ends a pair with DREP,
DREP ends one in the error state; a CNP halves the rate, and 55 us later it rises by a twentieth of the full
rate, at most to it; an acknowledgement ends the oldest outbound operation; an ACK timeout sends it again while
retries are left and takes the pair to the error state after that; an error takes the running event rings of the
pair to state 2; a port's state is recorded and a restart takes what its entries hold (R291, R294, R295, R296, R297, R328). -/
def Obligations.QueuePairs : Prop :=
  (∀ (port : PortNo) (ver part : Byte) (ip : Ip) (s : State), dget s (0x6810 + port) 2 ≠ 0 →
    (rejReason s (port.val / 2) ver.toNat part.toNat ip = none → ∃ t q, exec (.cmReq port ver part ip) s = .next t ∧
      t.host.qps = s.host.qps ++ [q] ∧ q.st = .opening ∧ q.host = port.val / 2 ∧ q.part = part.toNat ∧ q.rate = fullRate ∧
      t.out = s.out ++ [.cm (port.val / 2) q.qpn 2 [16, 16]]) ∧
    (∀ k, rejReason s (port.val / 2) ver.toNat part.toNat ip = some k → exec (.cmReq port ver part ip) s =
      .next { s with out := s.out ++ [.cm (port.val / 2) 0 4 [BitVec.ofNat 8 k]] })) ∧
  (∀ (h : HostNo) (qpn : BitVec 24) (s : State) (q : Qp), findQp s h qpn = some q →
    let gives (i : Instr) (q' : Option Qp) : Prop := ∃ t, exec i s = .next t ∧ findQp t h qpn = q' ∧ t.cores = s.cores ∧
      KeepsMem s t
    (q.st = .opening → gives (.cmRtu h qpn) (some { q with st := .ready }) ∧ gives (.cmRej h qpn) none) ∧
    gives (.cmDreq h qpn) none ∧ (q.st = .error → gives (.cmDrep h qpn) none) ∧
    gives (.cnpReceived h qpn) (some { q with rate := q.rate / 2, lastCnp := s.prc }) ∧
    (q.rate < fullRate → q.lastCnp + usTicks 55 ≤ s.prc → gives (.rateIncrease h qpn)
      (some { q with rate := min fullRate (q.rate + fullRate / 20), lastCnp := s.prc })) ∧
    (∀ o os, q.outs = o :: os →
      (∀ r i e, o.for_ = .event r i e → gives (.rdmaAck h qpn) (some { q with outs := os, retries := 0 })) ∧
      (∀ r i c, o.for_ = .cmdWrite r i → findCmd s r i = some c → c.st = .started → c.left.length = 1 →
        ∃ t c', exec (.rdmaAck h qpn) s = .next t ∧ findCmd t r i = some c' ∧ c'.st = .done) ∧
      (∀ r i c dst data, o.for_ = .cmdRead r i dst → data.length = readLen o.pkt → findCmd s r i = some c →
        c.aborted = false → let w := writeRange s (some (dget s (0x6880 + r) 1)) dst data
        w.2 = true → ∃ t, exec (.rdmaReadResponse ⟨h, false⟩ qpn data) s = .next t ∧ t.spm = w.1.spm ∧ t.hbm = w.1.hbm) ∧
      (o.since + ackTicks q ≤ s.prc → q.retries < q.retryMax → ∃ t, exec (.ackTimeout h qpn) s = .next t ∧
        t.out = s.out ++ [o.pkt] ∧
        findQp t h qpn = some { q with retries := q.retries + 1, outs := { o with since := s.prc } :: os }) ∧
      (o.since + ackTicks q ≤ s.prc → q.retryMax ≤ q.retries → q.st ≠ .error → ∃ t q', exec (.ackTimeout h qpn) s = .next t ∧
        findQp t h qpn = some q' ∧ q'.st = .error) ∧
      (s.prc < o.since + ackTicks q → exec (.ackTimeout h qpn) s = .next s)) ∧
    (∀ b, q.st ≠ .error → ∃ t q', exec (.qpError h qpn b) s = .next t ∧ findQp t h qpn = some q' ∧ q'.st = .error ∧
      ∀ r ∈ ringsOfQp s h qpn, (ering t r).state = 2)) ∧
  (∀ (port : PortNo) (s : State), (∀ up, ∃ t, exec (.portState port up) s = .next t ∧
      dget t (0x6810 + port) 2 = (if up then 1 else 0) ∧ OnlyEvents s t) ∧
    ∃ t, exec (.portRestart port) s = .next t ∧ dget t (0x6810 + port) 2 = 0 ∧ OnlyEvents s t ∧
      aget port t.host.ports = some (portCfg s port))

/-- A tail write of a ring that runs accepts its one new record, which passes the checks, as a queued command and
moves head past it; a tail more than the ring's size ahead of head stops the ring in state 2, except that a disabled
ring stays disabled (the model's choice, assumption log 82); on a ring that does not run any other tail is only stored; a consumer write stores cons, and a waiting record is written once there
is space; with the service bus free, base-camp firmware enables a disabled command ring with a valid configuration from zero and disables
it, and does the same for an event ring (R305, R307, R308, R310, R325, R328). -/
def Obligations.HostRings : Prop :=
  ∀ (r : RingNo) (s : State), (∀ q, (cring s q).state ≠ 3) →
    (∀ tail : Word,
      let c := cring s r
      let rec_ := ringRec s r c.head.toNat
      (c.state = 1 → (tail - c.head).toNat = 1 → ringAccepts s r = true → cmdOp rec_ ≠ 8 → cmdOp rec_ ≠ 9 →
        checkRec s r rec_ = 0 → ∃ t, exec (.ringTailWrite r tail) s = .next t ∧ cring t r = { c with tail := tail, head := tail } ∧
          t.host.cmds = s.host.cmds ++ [newCmd r s.host.nextCmd rec_] ∧ t.cores = s.cores ∧ KeepsMem s t) ∧
      (ringSize s r < (tail - c.head).toNat → ∃ t, exec (.ringTailWrite r tail) s = .next t ∧
        cring t r = { c with state := if c.state = 0 then 0 else 2 } ∧ t.host.cmds = s.host.cmds ∧ OnlyEvents s t) ∧
      (c.state = 0 ∨ c.state = 2 → (tail - c.head).toNat ≤ ringSize s r → exec (.ringTailWrite r tail) s = .next (setCring s r { c with tail := tail }))) ∧
    (∀ v : Word,
      let e := ering s r
      (e.ovq = [] → e.firstLost = none → exec (.eventRingCons r v) s = .next (setEring s r { e with cons := v })) ∧
      (∀ x, e.state = 1 → e.ovq = [x] → e.firstLost = none → (e.prod - v).toNat < eringSize s r →
        ∃ t, exec (.eventRingCons r v) s = .next t ∧ ering t r = { e with cons := v, prod := e.prod + 1, ovq := [] } ∧
          OnlyEvents s t ∧ t.out.length = s.out.length + 1)) ∧
    (firmwareUp s = true → s.mgmt.bus.taken = false →
      (dget s (0x6880 + r) 5 ≠ 1 → ringCfgValid s r = true → ∃ t, exec (.commandRingEnable .firmware r true) s = .next t ∧
        cring t r = ⟨0, 0, 0, 1⟩ ∧ OnlyEvents s t) ∧
      (∃ t, exec (.commandRingEnable .firmware r false) s = .next t ∧ (cring t r).state = 0 ∧ OnlyEvents s t) ∧
      (dget s (0x6900 + r) 9 ≠ 1 → eringCfgValid s r = true → ∃ t, exec (.eventRingEnable .firmware r true) s = .next t ∧
        (ering t r).state = 1 ∧ (ering t r).lost = 0 ∧ OnlyEvents s t) ∧
      (∃ t, exec (.eventRingEnable .firmware r false) s = .next t ∧ (ering t r).state = 0 ∧ OnlyEvents s t))

/-- Where no drill acts on a memory site, the next command of a ring, with a place for its completion, starts: a launch whose cores are IDLE sends one
task start to each of its cores and waits for their tokens; a copy between panel addresses writes the source's
bytes to its destination and completes; a reshard with one valid entry puts its descriptor into the re-layout
queue of the site and a collective opens its stream; a barrier records its group; a fence completes when every
command before it has committed and holds its ring otherwise; a pitch gives its hint to the power manager (R313, R314, R315, R316, R317, R318, R320). -/
def Obligations.HostCommands : Prop :=
  ∀ (r : RingNo) (s : State) (c : Cmd), nextStart s r = some c → findCmd s r c.idx = some c → c.ring = r.val →
    freePlaces s (complRing s r) ≠ 0 → (∀ x, drillWith s 7 x = false) →
    let isDone (t : State) : Prop := ∃ d, findCmd t r c.idx = some d ∧ d.st = .done
    (cmdOp c.rec_ = 1 → launchReady s c = true → launchCores s c ≠ [] → ∃ t d, exec (.launch r) s = .next t ∧
      findCmd t r c.idx = some d ∧ d.st = .started ∧ d.left = (launchCores s c).map Prod.snd ∧ t.cores = s.cores ∧
      KeepsMem s t ∧ t.host.belay = s.host.belay ++ (launchCores s c).map fun x => (x.2, .start (startMsg r c.idx c.rec_ x.1))) ∧
    (∀ bs, cmdOp c.rec_ = 2 → copySrcHost c.rec_ = false → copyDstHost c.rec_ = false →
      readRange s (some (ringPart s r)) (copySrc c.rec_) (copyLen c.rec_) = some bs →
      let w := writeRange s (some (ringPart s r)) (copyDst c.rec_) bs
      w.2 = true → ∃ t, exec (.copy ⟨r, .clean⟩) s = .next t ∧ t.spm = w.1.spm ∧ t.hbm = w.1.hbm ∧ isDone t) ∧
    (∀ b, (cmdOp c.rec_ = 3 ∨ cmdOp c.rec_ = 4) → recField c.rec_ 139 128 = 1 →
      readRange s (some (ringPart s r)) (listEntry c.rec_ 0) 128 = some b →
      let m := (b.getD 64 0).toNat % 16
      let d := hostDesc b (r.val / 64) 0
      ownerOfSite s m = ringPart s r → absorbsSite s m = false → absent s (epMem m) = false → dfield d 3 0 = 1 →
      commonOk d = true →
      (cmdOp c.rec_ = 3 → dfield d 7 4 = 1 → redOpenOk d = true → stream s m (redStream d) = none →
        ∃ t x, exec (.collective r) s = .next t ∧ KeepsMem s t ∧ stream t m (redStream d) = some x ∧ x.desc = d ∧
          x.written = 0 ∧ x.owner = some (r.val, c.idx, 0)) ∧
      (cmdOp c.rec_ = 4 → relayoutOk d = true → (msite s m).relq.length < 16 → ∃ t x, exec (.reshard r) s = .next t ∧
        KeepsMem s t ∧ (msite t m).relq = (msite s m).relq ++ [x] ∧ x.desc = d ∧ x.owner = some (r.val, c.idx, 0))) ∧
    (cmdOp c.rec_ = 5 → ∃ t, exec (.barrier r) s = .next t ∧ isDone t ∧ t.cores = s.cores ∧
      aget (4 * r.val + recField c.rec_ 65 64) t.host.groups =
        some (recField c.rec_ 120 96, recField c.rec_ 152 128, recField c.rec_ 175 160)) ∧
    (cmdOp c.rec_ = 6 → (fenceDone s c = true → ∃ t, exec (.fence r) s = .next t ∧ isDone t ∧ KeepsMem s t) ∧
      (fenceDone s c = false → ∃ t, exec (.fence r) s = .next t ∧ findCmd t r c.idx = some { c with st := .started } ∧
        fenceHolds t r = true)) ∧
    (cmdOp c.rec_ = 7 → s.pwr.quench = none → ∃ t h, exec (.pitch r) s = .next t ∧ isDone t ∧
      t.pwr.hints = s.pwr.hints ++ [h] ∧ h.start = s.prc + usTicks (recField c.rec_ 159 144) ∧
      h.regions = pitchRegions s r c.rec_ ∧ h.active = false)

/-- An abort that passes its checks and names a queued command completes both at once; a query of a partition's
panel address range writes its result there and completes; a token of a reporting core is counted once: the core
is no longer waited for, status words are joined, counts are added, and the first status other than ok stays (R108, R319, R322, R324). -/
def Obligations.AbortsQueriesAndTokens : Prop :=
  (∀ (r : RingNo) (rec_ : List Byte) (s : State), (cring s r).state = 1 → ringAccepts s r = true → checkRec s r rec_ = 0 →
    placesNeeded s r rec_ ≤ freePlaces s (complRing s r) → (∀ c ∈ s.host.cmds, c.idx < s.host.nextCmd) →
    let isDone (t : State) (q i : Nat) : Prop := ∃ d, findCmd t q i = some d ∧ d.st = .done
    (∀ c, cmdOp rec_ = 8 → abortOf s rec_ = some c → cmdOp c.rec_ ≠ 8 → c.st = .queued →
      findCmd s c.ring c.idx = some c → ∃ t, exec (.abort r rec_) s = .next t ∧ isDone t c.ring c.idx ∧
        isDone t r s.host.nextCmd ∧ t.cores = s.cores ∧ KeepsMem s t) ∧
    (cmdOp rec_ = 9 → queryKind rec_ ≠ 2 → copyDstHost rec_ = false →
      let w := writeRange s (some (ringPart s r)) (copyDst rec_) (queryBytes s r rec_)
      w.2 = true → ∃ t, exec (.query r rec_) s = .next t ∧ isDone t r s.host.nextCmd ∧ t.spm = w.1.spm ∧ t.hbm = w.1.hbm)) ∧
  (∀ (c : CoreId) (s : State) (r : RingNo) (i : Nat) (m : Cmd), (core s c).st = .report → (core s c).launch = some (r, i) →
    findCmd s r i = some m → m.st = .started → c.val ∈ m.left →
    let k := tokenOf (core s c)
    ∃ t d, exec (.completionToken c k) s = .next t ∧ findCmd t r i = some d ∧ t.cores = s.cores ∧
      d.astat = m.astat ||| k.astat ∧ d.tstat = (if m.tstat = 0 then k.status.toNat else m.tstat) ∧
      d.checked = (m.checked + k.checked.toNat) % 2 ^ 32 ∧ d.unchecked = (m.unchecked + k.unchecked.toNat) % 2 ^ 32 ∧
      (m.left.erase c.val ≠ [] → d.st = .started ∧ d.left = m.left.erase c.val) ∧
      (m.left.erase c.val = [] → d.st = .done))

/-- A descriptor of version 1 with fields in range, from an endpoint that may reach the site, acts: an open of a
free stream opens it with its inputs and nothing written, a close ends the stream, gather, scatter and re-layout
descriptors enter their engine's queue behind the others; an idle engine starts its first descriptor, and a
re-layout of one piece on this panel writes the bytes it reads; at its end a descriptor leaves the queue, or a
stream is closed, with its status word in the log; a stream without output for its timeout ends with status
timeout and not before (R248, R249, R250, R257, R259, R260, R261). -/
def Obligations.EngineDescriptors : Prop :=
  (∀ (m : MemSiteNo) (src : BitVec 16) (d : List Byte) (s : State), maySubmit s m src.toNat = true →
    absorbsSite s m = false → absent s (epMem m) = false → dfield d 3 0 = 1 → commonOk d = true →
    let entry : QDesc := ⟨d, src, false, 0, 0, [], .clean, false, false, none⟩
    (dfield d 7 4 = 1 → redOpenOk d = true → stream s m (redStream d) = none → ∃ t x, exec (.reduceOpen m src d) s = .next t ∧
      t = { s with msites := t.msites } ∧ stream t m (redStream d) = some x ∧ x.desc = d ∧ x.written = 0 ∧
      x.ins = (redInputs d).map fun k => ⟨k, 0, []⟩) ∧
    (dfield d 7 4 = 2 → stream s m (redStream d) ≠ none → keysRise (msite s m).streams = true → ∃ t, exec (.reduceClose m src d) s = .next t ∧
      stream t m (redStream d) = none ∧ t.cores = s.cores ∧ KeepsMem s t) ∧
    (gatherOk d = true → (msite s m).gatq.length < 16 →
      ∀ i, (dfield d 7 4 = 1 ∧ i = Instr.gather m src d) ∨ (dfield d 7 4 = 2 ∧ i = .scatter m src d) →
      ∃ t, exec i s = .next t ∧ t = { s with msites := t.msites } ∧ (msite t m).gatq = (msite s m).gatq ++ [entry]) ∧
    (relayoutOk d = true → (msite s m).relq.length < 16 → ∃ t, exec (.relayout m src d) s = .next t ∧
      t = { s with msites := t.msites } ∧ (msite t m).relq = (msite s m).relq ++ [entry])) ∧
  (∀ (m : MemSiteNo) (e : Engine) (s : State) (q : QDesc), e ≠ .reduce → headDesc s m (engNo e) = some q →
    (q.started = false → ∀ ecc, ∃ t q', exec (.descriptorStart m e ecc) s = .next t ∧
      headDesc t m (engNo e) = some q' ∧ q'.started = true ∧ q'.desc = q.desc) ∧
    (∀ a b n inc d1 d2 bs u, q.started = false → e = .relayout → relayoutWork s m q.desc = [(⟨.rem a, .rem b, n⟩, inc)] →
      (∀ x, drillWith s 7 x = false) → (msite s m).locks = [] →
      resolve s (some (ownerOfSite s m)) a = some d1 → d1.here s = true → destRead s m 3 d1 n = some bs →
      resolve s (some (ownerOfSite s m)) b = some d2 → d2.here s = true → destWrite s m 3 d2 bs = some u →
      ∃ t, exec (.descriptorStart m e .clean) s = .next t ∧ t.hbm = u.hbm ∧ t.spm = u.spm ∧ t.sram = s.sram) ∧
    (descDone s m (engNo e) = true → (∀ c ∈ s.host.cmds, c.todo = []) → ∀ n, ∃ t, exec (.descriptorEnd m e n) s = .next t ∧
      engQueue (msite t m) (engNo e) = (engQueue (msite s m) (engNo e)).drop 1 ∧ t.cores = s.cores ∧ KeepsMem s t ∧
      agetD (0x200 * engNo e + 8 * (descTag q.desc % 16)) 0 (msite t m).logs =
        statusWord (descTag q.desc) q.status q.count)) ∧
  (∀ (m : MemSiteNo) (n : Fin 64) (s : State) (x : Stream), stream s m n = some x →
    keysRise (msite s m).streams = true →
    let ends (i : Instr) (status : Nat) : Prop := ∃ t, exec i s = .next t ∧ stream t m n = none ∧ t.cores = s.cores ∧
      KeepsMem s t ∧ agetD (8 * (descTag x.desc % 16)) 0 (msite t m).logs =
        statusWord (descTag x.desc) status (x.written / redElem x.desc)
    (streamDone s m n = true → (∀ c ∈ s.host.cmds, c.todo = []) →
      ends (.descriptorEnd m .reduce n) (if x.badAnchor then 5 else 0)) ∧
    (x.lastPrc + usTicks x.window ≤ s.prc → ends (.streamTimeout m n) 6) ∧
    (s.prc < x.lastPrc + usTicks x.window → exec (.streamTimeout m n) s = .next s))

/-- A cut-off of a requester that has held a channel for longer than the hold ceiling, and of no other, locks it out of
that channel alone and the clear removes every lock-out; a refresh turn that
is granted clears the waited intervals of its pseudo-channel, one that is not adds one up to 4, and an overdue
one is granted; the patrol moves to the next line, wrapping at the stack's end, and counts a corrected line and a retry of the link; a
temperature read stores the value, shortens the refresh interval from 85 C, and marks the stack hot above 95 C
until it has been at 93 C or below (R238, R240, R241, R245, R246, R247). -/
def Obligations.MemorySiteEvents : Prop :=
  ∀ (m : MemSiteNo) (s : State),
    let x := msite s m
    (∀ (ch : Fin 32) (req : Fin 5) (held : Nat), lockedOut s m ch req = false →
      (usTicks (dget s 0xA000 1) < held → ∃ t, exec (.arbiterCutoff m ch ⟨req, held⟩) s = .next t ∧
        t.cores = s.cores ∧ KeepsMem s t ∧ ∀ c q, c < 32 → q < 5 →
          lockedOut t m c q = (lockedOut s m c q || (c == ch.val && q == req.val))) ∧
      (held ≤ usTicks (dget s 0xA000 1) → exec (.arbiterCutoff m ch ⟨req, held⟩) s = .next s)) ∧
    (∃ t, exec (.arbLockClear m) s = .next t ∧ t = { s with msites := t.msites } ∧ ∀ c q, lockedOut t m c q = false) ∧
    (∀ pc : Fin 64, keysRise x.refWait = true →
      (∀ g, ∃ t, exec (.refresh m pc g) s = .next t ∧ t = { s with msites := t.msites } ∧
        ∀ p, agetD p 0 (msite t m).refWait = if p = pc.val then (if g then 0 else min 4 (agetD p 0 x.refWait + 1))
          else agetD p 0 x.refWait) ∧
      (agetD pc.val 0 x.refWait = 4 → ∃ t, exec (.refreshOverdue m pc) s = .next t ∧ t = { s with msites := t.msites } ∧
        ∀ p, agetD p 0 (msite t m).refWait = if p = pc.val then 0 else agetD p 0 x.refWait)) ∧
    (∀ line, line < hbmLines → lockedOut s m (chanOf (64 * line)) 4 = false → drillWith s 7 m = false →
      (∃ t, exec (.patrol m line .clean) s = .next t ∧ t = { s with msites := t.msites } ∧
        (msite t m).patrolPos = (line + 1) % hbmLines) ∧
      (∃ t, exec (.patrol m line (.corrected 0)) s = .next t ∧ t = { s with msites := t.msites, dict := t.dict } ∧
        bits (dget t (0xA100 + m) 2) 31 0 = min (2 ^ 32 - 1) (bits (dget s (0xA100 + m) 2) 31 0 + 1)) ∧
      (∃ t, exec (.patrol m line (.parity 0)) s = .next t ∧ t = { s with msites := t.msites, dict := t.dict } ∧
        bits (dget t (0xA100 + m) 2) 63 48 = min (2 ^ 16 - 1) (bits (dget s (0xA100 + m) 2) 63 48 + 1))) ∧
    (∀ temp : BitVec 16, ∃ t, exec (.hbmTempRead m temp) s = .next t ∧ t.cores = s.cores ∧ KeepsMem s t ∧
      (msite t m).temp = temp ∧ (msite t m).fastRef = decide (680 ≤ temp.toInt) ∧
      (msite t m).hotRaised = (decide (760 < temp.toInt) || (x.hotRaised && decide (744 < temp.toInt))))

/-- A reference that is missing or more than 200 ppm off takes a locked or relocking mesh to holding once it has
been bad for 10 us, 1562.5 ticks, and not before; a good one that returns starts the relocking, and lock restored returns
it to locked; base-camp firmware's comparison records the skew, and no comparison changes the panel reference counter or a
core; its write of a die's CLK_STATE sets the count of failed locks, and waits while the monitor holds the service bus
(R336, R337, R342, R357, R471). -/
def Obligations.ReferenceAndCounters : Prop :=
  ∀ s : State,
    (∀ (present : Bool) (ppm : Int), (present = false ∨ ppm < -200 ∨ 200 < ppm) →
      let since := s.clk.refBadAt.getD s.prc
      (refState s ≠ 1 → 3125 ≤ 2 * (s.prc - since) → ∃ t, exec (.refCheck present ppm) s = .next t ∧
        refState t = 1 ∧ t.clk.refOk = false ∧ t.cores = s.cores ∧ KeepsMem s t ∧ t.prc = s.prc) ∧
      (refState s = 1 ∨ 2 * (s.prc - since) < 3125 → ∃ t, exec (.refCheck present ppm) s = .next t ∧
        refState t = refState s ∧ t.clk.refBadAt = some since ∧ t = { s with clk := t.clk })) ∧
    (∀ ppm : Int, -200 ≤ ppm → ppm ≤ 200 → ∃ t, exec (.refCheck true ppm) s = .next t ∧ t.clk.refOk = true ∧
      t.clk.refBadAt = none ∧ refState t = (if refState s = 1 then 2 else refState s) ∧
      t = { s with clk := t.clk, dict := t.dict }) ∧
    (refState s = 2 → ∃ t, exec .refRestored s = .next t ∧ refState t = 0 ∧ t.clk.refLostAt = none ∧ t.cores = s.cores ∧
      KeepsMem s t) ∧
    (∀ (d : DieNo) (skew : Int),
      (firmwareUp s = true → ∃ t, exec (.prcSkewCheck d skew) s = .next t ∧ t.prc = s.prc ∧ KeepsMem s t ∧
        t.cores = s.cores ∧ ∀ e, aget e t.clk.skew = if e = d.val then some skew else aget e s.clk.skew) ∧
      (firmwareUp s = false → exec (.prcSkewCheck d skew) s = .next s)) ∧
    (∀ (d : DieNo) (v : Word), firmwareUp s = true →
      let e := exec (.registerWrite (.clk d) v) s
      (s.mgmt.bus.taken = false → ∃ t, e = .next t ∧ t = { s with clk := { s.clk with lockFail := t.clk.lockFail } } ∧
        ∀ x, aget x t.clk.lockFail = if x = d.val then some (bits v.toNat 31 16) else aget x s.clk.lockFail) ∧
      (s.mgmt.bus.taken = true → e = .next (waitBus s 0)))

/-- With no change armed, on a ready panel 50 us after the last resume, an arm to another step at or below the limit
and outside a quench arms a change no sooner than the lead; after a quench a rise is armed only by one step, at most once a
second, once flow has been high enough for 10 s, and another arm of a rise changes nothing; an acknowledgement is kept
once; at the deadline a
missing acknowledgement or an unsettled rise cancels it and otherwise it stays; at C with every acknowledgement
the clocks of its dies stop; 320 ticks later it is gone, the panel runs at the new step, and dies that have not
re-locked wait; such a die falls back to step 0 after 640 ticks, pinned; a cancel is done when every die of the
change has disarmed (R346, R347, R348, R349, R350, R351, R353, R386). -/
def Obligations.StepChanges : Prop :=
  ∀ s : State,
    (∀ step : BitVec 4, mayArm s = true → s.pwr.quench = none → step.toNat ≠ s.clk.step → step.toNat ≤ s.pwr.limits.step →
      let slow := s.pwr.slowRise = true ∧ s.clk.step < step.toNat
      (¬slow ∨ (slowOk s = true ∧ step.toNat = s.clk.step + 1) → ∃ t g, exec (.changeArm none step) s = .next t ∧
        t.clk.change = some g ∧ g.step = step.toNat ∧ g.die = none ∧ g.acks = [] ∧ g.stopped = false ∧
        s.prc + dget s 0x4000 4 ≤ g.at_ ∧ t.clk.step = s.clk.step ∧ t.cores = s.cores) ∧
      (slow → slowOk s = false ∨ step.toNat ≠ s.clk.step + 1 → exec (.changeArm none step) s = .next s)) ∧
    (∀ g, s.clk.change = some g → g.stopped = false →
      (∀ d : DieNo, g.covers d = true → ∃ t, exec (.changeAck d) s = .next t ∧ t = { s with clk := t.clk } ∧
        t.clk.change = some { g with acks := if g.acks.contains d.val then g.acks else g.acks ++ [d.val] }) ∧
      (∀ settled, g.at_ ≤ s.prc + usTicks 5 →
        ((firstMissing s g).isSome = true ∨ (rises s g = true ∧ settled = false) → ∃ t,
          exec (.changeDeadline settled) s = .next t ∧ t.clk.change = none ∧
          t.clk.cancelled = some { g with acks := [] } ∧ t.clk.step = s.clk.step ∧ KeepsMem s t) ∧
        (firstMissing s g = none → (rises s g = false ∨ settled = true) → exec (.changeDeadline settled) s = .next s)) ∧
      (g.at_ ≤ s.prc → firstMissing s g = none → exec .changeStop s =
        .next { s with clk := { s.clk with change := some { g with stopped := true } } })) ∧
    (∀ g, s.clk.change = some g → g.stopped = true → g.die = none → g.at_ + 320 ≤ s.prc → ∀ u : List DieNo,
      ∃ t, exec (.changeResume u) s = .next t ∧ t.clk.change = none ∧ t.clk.step = g.step ∧
        t.clk.lastResume = some (g.at_ + 320) ∧ t.clk.late = s.clk.late ++ u.map (fun d => (d.val, g.at_)) ∧
        t.clk.changesAll = s.clk.changesAll + 1 ∧ KeepsMem s t) ∧
    (∀ (d : DieNo) c, s.clk.late.find? (fun x => x.1 == d.val) = some (d.val, c) → c + 640 ≤ s.prc →
      ∃ t, exec (.relockFallback d) s = .next t ∧ dieStep t d = 0 ∧ d.val ∈ t.clk.lockPin ∧
        t.clk.late.find? (fun x => x.1 == d.val) = none ∧ t.clk.step = s.clk.step ∧ KeepsMem s t) ∧
    (∀ (d : DieNo) g, s.clk.cancelled = some g → g.covers d = true → ∃ t, exec (.changeCancel d) s = .next t ∧
      t = { s with clk := t.clk } ∧ t.clk.cancelled = if (firstMissing s (g.ack d)).isSome then some (g.ack d) else none)

/-- A current sample enters the windows of the rail and both regions, and a rail whose mean exceeds its limit begins
to withhold 2 cycles of every 8; a throttle step raises n by one, at most to 7, above the limit after 1 us and
lowers it by one below 95 percent of it after 5 us; a droop starts skipping and counts, and its end counts the
skipped edges; a failed slice is isolated, and with fewer than 12 left the region goes dark and its cores are
lost; a poll records the module's failed phases, a silent module counts as having 5 phases, and a bump group
above twice the median is recorded (R364, R365, R366, R367, R369, R370, R371). -/
def Obligations.PowerControllers : Prop :=
  (∀ (d : CellDie) (a b0 b1 : Nat) (s : State),
    let site := siteOfDie d
    let w := sampleIn (rail s site).win a
    ∃ t, exec (.currentSample d a b0 b1) s = .next t ∧ t.cores = s.cores ∧ KeepsMem s t ∧ (rail t site).win = w ∧
      (region t (2 * d.val)).win = sampleIn (region s (2 * d.val)).win b0 ∧
      (region t (2 * d.val + 1)).win = sampleIn (region s (2 * d.val + 1)).win b1 ∧
      ((rail s site).thr = 0 → (rail t site).thr = if railLimit s site < meanOf w then 2 else 0)) ∧
  (∀ (d : CellDie) (scope : Fin 3) (s : State),
    let l := limiter s d scope
    (l.thr ≠ 0 → l.limit < meanOf l.win → l.thrAt + usTicks 1 ≤ s.prc → ∃ t, exec (.throttleStep d scope) s = .next t ∧
      t = { s with pwr := t.pwr } ∧ (limiter t d scope).thr = min 7 (l.thr + 1)) ∧
    (l.thr ≠ 0 → 100 * meanOf l.win < 95 * l.limit → (scope.val = 2 ∨ forced s (2 * d.val + scope.val) = false) →
      l.thrAt + usTicks 5 ≤ s.prc → ∃ t, exec (.throttleStep d scope) s = .next t ∧ t = { s with pwr := t.pwr } ∧
      (limiter t d scope).thr = l.thr - 1)) ∧
  (∀ (r : RegionNo) (s : State),
    let x := region s r
    (x.pstate = 0 → x.skipping = false → ∃ t, exec (.droopDetect r) s = .next t ∧ t = { s with pwr := t.pwr } ∧
      (region t r).skipping = true ∧ (region t r).droopCnt = min 0xFFFF (x.droopCnt + 1)) ∧
    (∀ n, x.skipping = true → ∃ t, exec (.droopRecover r n) s = .next t ∧ t = { s with pwr := t.pwr } ∧
      region t r = { x with skipping := false, skipped := min (2 ^ 26 - 1) (x.skipped + n) }) ∧
    (∀ n : Fin 16, n.val ∉ x.failed →
      (x.failed.length < 4 → ∃ t, exec (.ldoSliceFail r n) s = .next t ∧ region t r = { x with failed := n.val :: x.failed } ∧
        t.cores = s.cores ∧ KeepsMem s t) ∧
      (4 ≤ x.failed.length → x.pstate ≠ 3 → ∃ t, exec (.ldoSliceFail r n) s = .next t ∧ (region t r).pstate = 3 ∧
        KeepsMem s t ∧ ∀ c ∈ coresOfRegion r, coreGated s c = false → (core t c).st = .gated))) ∧
  (∀ (site : SiteNo) (s : State),
    (∀ v : PmbusReading, firmwareUp s = true → ∃ t, exec (.pmbusPoll site v) s = .next t ∧ t.cores = s.cores ∧ KeepsMem s t ∧
      (rail t site).phaseMask = v.phaseFail.toNat ∧ (rail t site).silent = false ∧ (rail t site).modFault = v.statusFault ∧
      (rail t site).phasePin = decide ((rail t site).phases ≤ 5)) ∧
    (firmwareUp s = true → (rail s site).silent = false → ∃ t, exec (.moduleTimeout site) s = .next t ∧ t.cores = s.cores ∧
      KeepsMem s t ∧ limitPhases (rail t site) = 5 ∧ (rail t site).phasePin = true) ∧
    (∀ (g : Fin 64) (ratio : BitVec 16), (isMemSite site = false ∨ g.val < 32) → g.val ∉ (rail s site).bumps →
      512 < ratio.toNat → ∃ t, exec (.bumpDrop site g ratio) s = .next t ∧ t.cores = s.cores ∧ KeepsMem s t ∧
        (rail t site).bumps = (rail s site).bumps ++ [g.val]))

/-- A region that is to be woken asks for headroom and is granted it where it fits outside a quench, else it waits
and the deferral is counted; after 200 us the other region of the die is throttled; the end of the ramp turns a
granted region on, and 20 us later the allowance is free; the hold puts an idle region into retention with its
cores kept but for their gatherers; a slack sample keeps the lowest, and the end of a period raises the offset
of a region that was low or drooped and adds to the falls that the offset of one above 15 percent is due later (R362, R363, R372, R373). -/
def Obligations.RegionStates : Prop :=
  (∀ (r : RegionNo) (s : State),
    let x := region s r
    (x.wake = true → (x.pstate = 1 ∨ x.pstate = 2) → x.head = .none → powered s = true →
      (s.pwr.quench = none → headFits s r = true → ∃ t, exec (.headroomRequest r) s = .next t ∧ t = { s with pwr := t.pwr } ∧
        region t r = { x with head := .granted none }) ∧
      (s.pwr.quench ≠ none ∨ headFits s r = false → ∃ t, exec (.headroomRequest r) s = .next t ∧ t = { s with pwr := t.pwr } ∧
        region t r = { x with head := .waiting s.prc false } ∧
        (rail t (siteOfRegion r)).deferCnt = min 0xFFFF ((rail s (siteOfRegion r)).deferCnt + 1))) ∧
    (∀ t0, x.head = .waiting t0 false → s.pwr.quench = none → t0 + usTicks 200 ≤ s.prc →
      ∃ t, exec (.headroomDeferTimeout r) s = .next t ∧ t.cores = s.cores ∧ KeepsMem s t ∧ (region t (twin r)).thr ≠ 0 ∧
        ((region t r).head = .waiting t0 true ∨ (region t r).head = .granted none)) ∧
    (∀ t0, x.head = .granted (some t0) → t0 + usTicks 20 ≤ s.prc → ∃ t, exec (.headroomRelease r) s = .next t ∧
      t = { s with pwr := t.pwr } ∧ region t r = { x with head := .none }) ∧
    (x.head = .granted none → (x.pstate = 1 ∨ x.pstate = 2) → ∃ t, exec (.regionOn r) s = .next t ∧ t.cores = s.cores ∧
      KeepsMem s t ∧ (region t r).pstate = 0 ∧ (region t r).wake = false ∧ (region t r).head = .granted (some s.prc)) ∧
    (partOfRegion s r < 16 → dget s (0x6100 + partOfRegion s r) 0x10 ≠ 0 → x.pstate = 0 → regionIdle s r = true →
      hinted s r = false → ∃ t, exec (.retentionHold r) s = .next t ∧ t = { s with pwr := t.pwr, cores := t.cores } ∧
        (region t r).pstate = 1 ∧ ∀ c, core t c = if c / 16 = r.val ∧ coreGated s c = false then { core s c with gath := [] }
          else core s c) ∧
    (∀ v : Byte, tempers s = true → x.pstate = 0 → siteOfRegion r ∉ s.clk.pinned → perturbed s r = 0 →
      drilledRegion s r = false → powered s = true → ∃ t, exec (.slackSample r v) s = .next t ∧
        t = { s with pwr := t.pwr } ∧ (region t r).slack = some (min v.toNat (x.slack.getD 255)))) ∧
  (∀ s : State, tempers s = true → s.pwr.temperEnd ≤ s.prc → panelReady s = true → keysRise s.pwr.regions = true →
    ∃ t, exec .temperingPeriodEnd s = .next t ∧ t.cores = s.cores ∧ KeepsMem s t ∧
      t.pwr.temperEnd = s.prc + 3600 * secTicks * dget s 0x2000 8 ∧ ∀ r x, aget r s.pwr.regions = some x →
        (region t r).slack = none ∧ (region t r).droopMark = false ∧
        (x.droopMark = true ∨ (∃ v, x.slack = some v ∧ v < 32) → x.offset < 20 → (region t r).offset = x.offset + 1) ∧
        (∀ v, x.droopMark = false → x.slack = some v → 60 < v → -10 < x.offset - x.falls →
          (region t r).offset = x.offset ∧ (region t r).falls = x.falls + 1))

/-- A pitch phase that begins wakes the sleeping regions of its hint and holds phase shedding off on their dies, and
its end removes the hint and turns shedding on again where no other hint covers the die; a report stores mean
and peak of a current domain or a lower minimum of a voltage domain, which a rearm forgets; a new hub block
gives the readings it marks valid, and its read waits while the monitor holds the service bus; readings lost for 1 s put the cap at half the power limit; a cap update takes
the settings and keeps the cap at or below the power limit, the flow cap and both side caps; step control arms
one step down above the cap and the ceiling where the step lies above it; a heartbeat of a die ends its count of missing
ones, and records a cell or memory die's rail power and the fast-cap share (R375, R376, R379, R380, R381, R426, R471, R501, R502). -/
def Obligations.HintsReportsAndCaps : Prop :=
  (∀ (h : Nat) (power : Nat) (s : State) (x : Hint), findHint s h = some x →
    (x.active = false → x.start ≤ s.prc + usTicks 50 → s.pwr.quench = none → powered s = true →
      ∃ t y, exec (.pitchPhaseStart h power) s = .next t ∧ t.cores = s.cores ∧ KeepsMem s t ∧ findHint t h = some y ∧
        y.active = true ∧ (∀ r ∈ x.regions, (region s r).pstate = 1 ∨ (region s r).pstate = 2 → (region t r).wake = true) ∧
        ∀ d ∈ hintSites x, (rail t d).noShed = true) ∧
    (x.stop ≤ s.prc → ∃ t, exec (.pitchPhaseEnd h) s = .next t ∧ findHint t h = none ∧ KeepsMem s t ∧
      ∀ d ∈ hintSites x, (∀ y ∈ s.pwr.hints, y.id ≠ h → y.active = true → d ∉ hintSites y) → (rail t d).noShed = false)) ∧
  (∀ (d : Fin 720) (mean peak mv : BitVec 32) (s : State),
    (dget s (0x2400 + d) 1 = 0 → ∃ t, exec (.domainReport d mean peak mv) s = .next t ∧ t = { s with pwr := t.pwr } ∧
      aget d.val t.pwr.reports = some ⟨mean.toNat, peak.toNat, s.prc⟩) ∧
    (dget s (0x2400 + d) 1 ≠ 0 → ∃ t, exec (.domainReport d mean peak mv) s = .next t ∧ t = { s with pwr := t.pwr } ∧
      ∃ r, aget d.val t.pwr.reports = some r ∧
        r.val = match aget d.val s.pwr.reports with
          | some q => min q.val mv.toNat
          | none => mv.toNat) ∧
    (dget s (0x2400 + d) 1 = 1 → keysRise s.pwr.reports = true → ∃ t, exec (.reportRearm d) s = .next t ∧
      t = { s with pwr := t.pwr } ∧ aget d.val t.pwr.reports = none)) ∧
  (∀ s : State, firmwareUp s = true →
    (∀ b : HubBlock, s.tray.assigned = true → bit (dget s 0x8030 2) 4 = false → b.ver = 1 → b.seq.toNat ≠ s.tray.seq →
      (s.mgmt.bus.taken = false → ∃ t, exec (.hubSample (some b)) s = .next t ∧ t.cores = s.cores ∧ KeepsMem s t ∧
        t.tray.seq = b.seq.toNat ∧
        t.pwr.inlet = reading b.inletOk b.inlet.toInt ∧ t.pwr.outlet = reading b.outletOk b.outlet.toInt ∧
        t.pwr.plate = reading b.plateOk b.plate.toInt ∧ t.pwr.flow = reading b.flowOk b.flow.toNat) ∧
      (s.mgmt.bus.taken = true → exec (.hubSample (some b)) s = .next (waitBus s 4))) ∧
    (∀ t0, s.pwr.trayLost = false → s.tray.outletBad = some t0 → t0 + secTicks ≤ s.prc → ∃ t, exec .trayLost s = .next t ∧
      t.pwr.trayLost = true ∧ capNow t = s.pwr.limits.power / 2 ∧ t.cores = s.cores ∧ KeepsMem s t) ∧
    (∀ power, powered s = true → ∃ t, exec (.capUpdate power) s = .next t ∧ t.cores = s.cores ∧ KeepsMem s t ∧
      dget t 0x2000 3 = power ∧ t.pwr.limits.power = dget s 0x2000 1 ∧
      (s.pwr.trayLost = true → capNow t = t.pwr.limits.power / 2) ∧
      (s.pwr.trayLost = false → capNow t ≤ t.pwr.limits.power ∧ capNow t ≤ flowCap t ∧
        1000 * capNow t ≤ t.pwr.outletCap ∧ 1000 * capNow t ≤ t.pwr.plateCap)) ∧
    (∀ power, powered s = true → mayArm s = true → s.pwr.quench = none → s.pwr.hints = [] →
      (dget s 0x4000 3 < s.clk.step → ∃ t g, exec (.stepControl power) s = .next t ∧ t.clk.change = some g ∧
        g.step = dget s 0x4000 3) ∧
      (s.clk.step ≤ dget s 0x4000 3 → capNow s < power → s.clk.step ≠ 0 → ∃ t g, exec (.stepControl power) s = .next t ∧
        t.clk.change = some g ∧ g.step = s.clk.step - 1) ∧
      (s.clk.step ≤ dget s 0x4000 3 → power ≤ capNow s → 90 * capNow s ≤ 100 * power → ∃ t,
        exec (.stepControl power) s = .next t ∧ t.clk = s.clk ∧ t.cores = s.cores))) ∧
  (∀ (d : DieNo) (mw : Nat) (silent : List (BitVec 14)) (s : State), powered s = true → d.val ∉ s.health.lostDies →
    keysRise s.health.missed = true → ∃ t, exec (.heartbeat d mw silent) s = .next t ∧
      t = { s with pwr := t.pwr, health := t.health } ∧ (d.val < 240 → (rail t d).beat = mw) ∧
      aget d.val t.health.missed = none ∧
      let sum := (t.pwr.rails.map fun e => if isMemSite e.1 then 0 else e.2.beat).sum
      t.pwr.share = if 1000 * capNow s < sum then 120000 * (1000 * capNow s) / sum else 120000)

/-- A sample of a powered die's sensor is kept with the spans above 100 C and below 92 C; a die above 100 C for 1 ms is
pinned, and its idle regions go to off; a die above 105 C that runs pinned throttles until it is below 100 C; after 1 s
below 92 C outside a quench the pin is released, and not before; a quench whose conditions have held for 5 s is lifted and matrix
issue resumes, and not before; a trip above 115 C records the die and its temperature, pulls TRIP_N low and removes
power, as do the fall of STBY_OK and an undervoltage of the bus, which marks every module with a fault; without power a
sensor and a trip do nothing (R382, R383, R386, R495, R498). That what was in flight is gone at once and that the
memories are read as they were until the next boot clears them is the model's choice (assumption log 49). -/
def Obligations.HeatAndPowerLoss : Prop :=
  ∀ s : State,
    (∀ (site : SiteNo) (temp : Int),
      let r := rail s site
      let hot : Option Nat := if 800 < temp then some (r.hotSince.getD s.prc) else none
      let pins : Bool := r.hotPin || (decide (800 < temp) && decide (r.hotSince.getD s.prc + usTicks 1000 ≤ s.prc))
      (powered s = true → ∃ t, exec (.dieSensorSample site temp) s = .next t ∧ KeepsMem s t ∧
        (rail t site).temp = temp ∧ (rail t site).hotSince = hot ∧ (rail t site).hotPin = pins ∧
        (rail t site).coolSince = (if temp < 736 ∧ pins = true then some (r.coolSince.getD s.prc) else none) ∧
        (rail t site).hotThr = (if 840 < temp then pins || s.clk.pinned.contains site.val else r.hotThr && decide (800 ≤ temp)) ∧
        (pins = true → r.hotPin = false → ∀ g ∈ regionsOfSite site, (region s g).pstate ≤ 1 → regionIdle s g = true →
          (region t g).pstate = 2) ∧
        (pins = r.hotPin → t.cores = s.cores ∧ t.pwr.regions = s.pwr.regions)) ∧
      (powered s = false → exec (.dieSensorSample site temp) s = .next s)) ∧
    (∀ site : SiteNo,
      let r := rail s site
      let due : Prop := r.hotPin = true ∧ s.pwr.quench = none ∧ ∃ t0, r.coolSince = some t0 ∧ t0 + secTicks ≤ s.prc
      (due → ∃ t, exec (.dieUnpin site) s = .next t ∧ t.cores = s.cores ∧ KeepsMem s t ∧
        rail t site = { r with hotPin := false, hotThr := false, coolSince := none }) ∧
      (¬due → exec (.dieUnpin site) s = .next s)) ∧
    (let due : Prop := ∃ q l, s.pwr.quench = some q ∧ s.pwr.liftSince = some l ∧ l + 5 * secTicks ≤ s.prc
     (due → ∃ t, exec .quenchLifted s = .next t ∧ t.pwr.quench = none ∧ t.clk.paused = false ∧ t.pwr.slowRise = true) ∧
     (¬due → exec .quenchLifted s = .next s)) ∧
    let dark (t : State) : Prop := powered t = false ∧ t.tray.latch = true ∧ t.fab.net = [] ∧ t.fab.msgs = [] ∧
      t.links.links = [] ∧ t.host.qps = [] ∧ KeepsMem s t ∧ t.cores = s.cores
    (∀ (d : DieNo) (temp : Int),
      (powered s = true → 920 < temp → ∃ t, exec (.thermalTrip d temp) s = .next t ∧ dark t ∧
        t.tray.tripN = false ∧ t.pwr.trip = some (d.val, temp)) ∧
      (powered s = false ∨ temp ≤ 920 → exec (.thermalTrip d temp) s = .next s)) ∧
    (∃ t, exec .stbyOkFall s = .next t ∧ dark t ∧ t.tray.stbyOk = false) ∧
    (∃ t, exec .busUndervoltage s = .next t ∧ dark t ∧
      (firmwareUp s = true → ∀ m : SiteNo, (rail t m).modFault = true))

/-- A cold boot starts with the reference counter at zero and every memory empty, and the ROM starts nothing when
the PUF secret fails (cause 2), a floor fails (cause 3) or both slots fail (cause 1); without a reference the mesh stays
unlocked and step 2 is the last (that is the model's choice, assumption log 86); a warm panel reset clears
the scratchpads and keeps HBM, host-die SRAM (the model's choice, assumption log 15) and the reference counter; where the links have trained, either
ends with the panel ready and the time it took; a definition write is stored, sets the owners of memory sites
and takes the partition to off; switching on begins with starting and the marks of what changes owner, the end
of the scrubs gives a partition that is on with dies and sites that read zero; switching off stops it, its row then
resets its cores and notes when, and once twice the reassembly timeout has passed after that, and not before, ends
off with its regions unpowered; deleting frees its sites; a requested compaction is stored; a spare that is
switched in serves the logical core from its reset state with a zero scratchpad (R390, R394, R397, R398, R399, R400, R404, R416, R417, R442, R180, R237). -/
def Obligations.BootsAndPartitions : Prop :=
  (∀ (o : BootObs) (s : State), s.parts.booting = none → ∃ t, exec (.coldBoot o) s = .next t ∧ t.prc = 0 ∧ t.spm = [] ∧
    t.hbm = [] ∧ t.sram = [] ∧
    (o.pufOk = false → t.mgmt.romHalt = some 2 ∧ t.cores = []) ∧
    (o.pufOk = true → o.floorsOk = false → t.mgmt.romHalt = some 3 ∧ t.cores = []) ∧
    (o.pufOk = true → o.floorsOk = true → (∀ a, slotFault (coldClear o s) 0 a ≠ none) →
      t.mgmt.romHalt = some 1 ∧ t.cores = []) ∧
    (o.pufOk = true → o.floorsOk = true → slotFault (coldClear o s) 0 (activeSlot (coldClear o s) 0) = none →
      o.refPresent = false → t.mgmt.romHalt = none ∧ t.clk.mesh = false ∧ dget t 0x6000 2 = 2)) ∧
  (∀ (o : BootObs) (s : State), s.parts.booting = none → mayWarm s = true →
    ∃ t, exec (.warmPanelReset o) s = .next t ∧ t.spm = [] ∧ t.hbm = s.hbm ∧ t.sram = s.sram ∧ t.prc = s.prc) ∧
  (∀ (o o' : BootObs) (s : State),
    (s.parts.booting = some (false, o') → s.mgmt.romHalt = none → powered s = true →
      ∃ t, exec (.coldBoot o) s = .next t ∧ dget t 0x6000 1 = 2 ∧ dget t 0x6000 4 = o'.durationMs.toNat) ∧
    (s.parts.booting = some (true, o') →
      ∃ t, exec (.warmPanelReset o) s = .next t ∧ dget t 0x6000 1 = 2 ∧ dget t 0x6000 4 = o'.durationMs.toNat)) ∧
  (∀ (p : PartNo) (f : PartField) (s : State), defineOk s p f = true →
    ∃ t, exec (.partitionDefine p f) s = .next t ∧ KeepsMem s t ∧ t.cores = s.cores ∧
      partSt t p = (if partSt s p = 0 then 1 else partSt s p) ∧
      match f with
      | .rect v => dget t (0x6100 + p) 2 = v.toNat ∧ hasRect t p = true
      | .sites v => dget t (0x6100 + p) 3 = v.toNat ∧ ∀ m : Fin 16, ownerOfSite t m =
          if bit v.toNat m = true then p.val else if ownerOfSite s m = p.val then 0xFF else ownerOfSite s m
      | .owner v => dget t (0x6100 + p) 4 = v.toNat) ∧
  (∀ (p : PartNo) (s : State),
    (mayStart s p = true → panelReady s = true → ∃ t, exec (.switchOn p) s = .next t ∧ KeepsMem s t ∧ t.cores = s.cores ∧
      partSt t p = 2 ∧ (∀ k ∈ handedOver s p, k ∈ t.parts.scrub) ∧
      (handedOver s p ≠ [] → aget p.val t.host.salts = some (s.fresh + 16)) ∧
      (keysRise s.parts.st = true → ∀ r ∈ regionsOfPart s p, (region s r).pstate = 1 ∨ (region s r).pstate = 2 →
        (region t r).wake = true)) ∧
    (partSt s p = 2 → aget p.val s.parts.waiting = none → ∃ t, exec (.partitionStarted p []) s = .next t ∧ partSt t p = 3 ∧
      (∀ d ∈ diesOfPart s p, d ∈ s.parts.scrub → ∀ k a, k < 32 → a < spmSize → spmRead t (32 * d + k) a 1 = [0]) ∧
      (∀ m ∈ sitesOf s p, 256 + m ∈ s.parts.scrub → ∀ a, a < 2 ^ 36 → memGet t.hbm (m * 2 ^ 36 + a) = 0)) ∧
    (panelReady s = true → runReset s 4 p = none → partSt s p = 3 → ∃ t, exec (.switchOff p) s = .next t ∧ partSt t p = 5) ∧
    (∀ r, panelReady s = true → runReset s 4 p = some r → partSt s p = 5 → r.swept = none →
      ∃ t, exec (.switchOff p) s = .next t ∧ KeepsMem s t ∧ partSt t p = 5 ∧ runReset t 4 p = some { r with swept := some s.prc } ∧
        ∀ d ∈ coresOfPart s p, coreGated s d = false → ∃ n, core t d = afterReset (core s d) n) ∧
    (∀ r w, panelReady s = true → runReset s 4 p = some r → partSt s p = 5 → r.swept = some w →
      (w + twiceTimeout s ≤ s.prc → ∃ t, exec (.switchOff p) s = .next t ∧ partSt t p = 1 ∧ runReset t 4 p = none ∧
        KeepsMem s t ∧ ∀ g ∈ regionsOfPart s p, (region s g).pstate ≠ 3 → (region t g).pstate = 2) ∧
      (s.prc < w + twiceTimeout s → exec (.switchOff p) s = .next s)) ∧
    (partSt s p = 1 → keysRise s.parts.st = true → ∃ t, exec (.delete p) s = .next t ∧ KeepsMem s t ∧ t.cores = s.cores ∧
      partSt t p = 0 ∧ ∀ m : Fin 16, ownerOfSite s m = p.val → ownerOfSite t m = 0xFF)) ∧
  (∀ s : State, exec .compact s = .next (dset s 0x7000 5 1)) ∧
  (∀ (k : ClusterNo) (j : Fin 8) (s : State),
    let c := 8 * k.val + j.val
    let sp := bits (repairWord s k) 35 32
    panelReady s = true → clusterIdle s k = true → s.parts.resets = [] → partSt s (partOfCore s (8 * k.val)) ≠ 4 →
    partSt s (partOfCore s (8 * k.val)) ≠ 5 → s.health.exchange = [] → needsSwitch s c = true →
    (∀ i : Fin 8, i ≠ j → needsSwitch s (8 * k.val + i.val) = false) → sp ≠ 15 →
      ∃ t, exec (.spareSwitchIn k) s = .next t ∧ posOfCore t c = sp ∧ core t c = Core.reset ∧
        ∀ a, a < spmSize → spmRead t c a 1 = [0])

/-- The end of a powered hour restarts the counts of a position; a sweep that passes counts, one that fails counts a
failure and makes the position suspect, and one that a task start abandons records nothing; a failure with margin pushed
sets the marginal flag; a heartbeat that does not come counts; a probe missed counts, the third of a serving core loses it
and, once its heartbeats are missing, the third of a memory site's transit domain loses the site; a running core whose
progress was seen last a liveness window ago while its heartbeat goes on, and a die whose heartbeats are missing while its
cores answer their probes, open a liveness episode once, and a heartbeat with progress closes it (R412, R418, R420, R421, R422, R423, R424, R425, R426, R427). -/
def Obligations.HealthObservations : Prop :=
  (∀ (pcid : BitVec 14) (s : State), keysRise s.health.hourTiles = true →
    ∃ t, exec (.uncheckedHour pcid) s = .next t ∧ t.cores = s.cores ∧ KeepsMem s t ∧ aget pcid.toNat t.health.hourTiles = none ∧
      bits (healthRec t pcid.toNat) 55 40 = 0 ∧ condOf t pcid.toNat = condOf s pcid.toNat) ∧
  (∀ (pcid : BitVec 14) (temp : BitVec 16) (u : BitVec 4) (c : Nat) (s : State), coreOfPcid s pcid.toNat = some c →
    maySweep s c = true →
      (startComes s c = true → ∀ pass, ∃ t, exec (.sweep pcid pass temp u) s = .next t ∧
        t = { s with cores := t.cores, fresh := s.fresh + 1 } ∧ (core t c).st = .idle ∧ (core t c).ibuf = []) ∧
      (startComes s c = false → ∃ t, exec (.sweep pcid true temp u) s = .next t ∧ KeepsMem s t ∧ (core t c).st = .idle ∧ (core t c).ibuf = [] ∧
        bits (healthRec t pcid.toNat) 31 16 = min 0xFFFF (bits (healthRec s pcid.toNat) 31 16 + 1) ∧
        condOf t pcid.toNat = condOf s pcid.toNat) ∧
      (startComes s c = false → ∃ t, exec (.sweep pcid false temp u) s = .next t ∧ KeepsMem s t ∧ (core t c).st = .idle ∧
        bits (healthRec t pcid.toNat) 39 32 = min 0xFF (bits (healthRec s pcid.toNat) 39 32 + 1) ∧
        condOf t pcid.toNat = 1)) ∧
  (∀ (r : RegionNo) (failed : List (BitVec 14)) (temp : BitVec 16) (u : BitVec 4) (s : State),
    (∀ c ∈ coresOfRegion r, coreGated s c = false → (core s c).st = .idle ∧ sweepOpen s c = true) →
    diePerturbed s (siteOfRegion r) = false → dget s 0x7000 4 ≠ 0 →
      ∃ t, exec (.pushedSweep r failed temp u) s = .next t ∧ KeepsMem s t ∧
        ((∃ c ∈ coresOfRegion r, coreGated s c = false ∧ startComes s c = true) → t.health = s.health) ∧
        ((∀ c ∈ coresOfRegion r, coreGated s c = false → startComes s c = false) →
          ∀ c ∈ coresOfRegion r, coreGated s c = false → maySweep s c = true → pcidOf s c ∈ failed.map BitVec.toNat →
            bit (healthRec t (pcidOf s c)) 3 = true)) ∧
  (∀ (d : DieNo) (s : State), powered s = true → d.val ∉ s.health.lostDies →
    exec (.heartbeatMissing d none) s = .next { s with health := { s.health with
      missed := aput d (agetD d 0 s.health.missed + 1) s.health.missed } } ∧
    ∀ p : BitVec 14, siteOfDie (p.toNat / 64) = d → exec (.heartbeatMissing d (some p)) s = .next { s with health := { s.health with
      silent := aput p.toNat (agetD p.toNat 0 s.health.silent + 1) s.health.silent } }) ∧
  (∀ (site : SiteNo) (p : BitVec 14) (s : State), powered s = true → site.val ∉ s.health.lostDies →
    probesOf s (16384 + site.val) < 3 → isMemSite site = false → dieOfSite site = p.toNat / 64 → probesCore s p.toNat = true →
      (probesOf s p.toNat < 2 → ∃ t, exec (.probeTimeout site (some p)) s = .next t ∧ t = { s with health := t.health } ∧
        probesOf t p.toNat = probesOf s p.toNat + 1) ∧
      (∀ c, probesOf s p.toNat = 2 → coreOfPcid s p.toNat = some c → coreGated s c = false →
        ∃ t, exec (.probeTimeout site (some p)) s = .next t ∧ KeepsMem s t ∧ core t c = { Core.reset with st := .gated } ∧
          condOf t p.toNat = 4)) ∧
  (∀ (site : SiteNo) (s : State), powered s = true → site.val ∉ s.health.lostDies → isMemSite site = true →
    probesOf s (16384 + site.val) = 2 →
      (3 ≤ agetD site 0 s.health.missed → ∃ t, exec (.probeTimeout site none) s = .next t ∧ KeepsMem s t ∧
        site.val ∈ t.health.lostDies ∧ memOfSite site ∈ t.health.lostSites) ∧
      (agetD site 0 s.health.missed < 3 → exec (.probeTimeout site none) s = .next s)) ∧
  (∀ (c : CoreId) (a b : BitVec 16) (s : State),
    let site := siteOfDie (dieOfCore c)
    let opens (i : Instr) (key : Nat) : Prop :=
      (key ∉ s.health.episodes → ∃ t, exec i s = .next t ∧
        OnlyEvents { s with health := { s.health with episodes := key :: s.health.episodes } } t) ∧
      (key ∈ s.health.episodes → exec i s = .next s)
    (∀ x, agetD site 0 s.health.missed = 0 → (core s c).st = .run → aget c s.health.progress = some x →
      (x.2 + usTicks (1000 * dget s 0x7000 6) ≤ s.prc → opens (.liveness c 1 a b) c) ∧
      (s.prc < x.2 + usTicks (1000 * dget s 0x7000 6) → exec (.liveness c 1 a b) s = .next s)) ∧
    ((∀ k, k < 32 → isHole s (32 * dieOfCore c + k) = false → probesOf s (pcidOf s (32 * dieOfCore c + k)) = 0) →
      (3 ≤ agetD site 0 s.health.missed → opens (.liveness c 2 a b) (8192 + site)) ∧
      (agetD site 0 s.health.missed < 3 → exec (.liveness c 2 a b) s = .next s)) ∧
    ∀ (d : DieNo) (mw : Nat) (silent : List (BitVec 14)), powered s = true → d.val ∉ s.health.lostDies → site = d →
      (aget c s.cores).isSome = true → inTask (core s c) = true → pcidOf s c ∉ silent.map BitVec.toNat →
      (∀ x, aget c s.health.progress = some x → x.1 ≠ progressCount s c) →
        ∃ t, exec (.heartbeat d mw silent) s = .next t ∧ c.val ∉ t.health.episodes ∧ 8192 + d.val ∉ t.health.episodes ∧
          aget c t.health.progress = some (progressCount s c, s.prc))

/-- A clear makes a suspect position healthy and clears its marginal flag at once, and a fence of a router and a
cancel act at once; quarantine, return, replace, retire, unfence and retire site are accepted in the conditions
that allow them and wait as the pending action with status 1; while an action is pending, another is refused as
busy and changes nothing; when the cores of a pending quarantine are idle, the position leaves power and the
action is done (R428, R429). -/
def Obligations.FleetActions : Prop :=
  ∀ s : State,
    (s.health.action = none →
      (∀ pcid : BitVec 14, pcidOk pcid.toNat = true → condOf s pcid.toNat = 1 → ∃ t, exec (.clear pcid) s = .next t ∧
        t.cores = s.cores ∧ KeepsMem s t ∧ condOf t pcid.toNat = 0 ∧ bit (healthRec t pcid.toNat) 3 = false ∧
        t.health.action = none ∧ dget t 0x7010 2 = 2) ∧
      (∀ x ∈ [((fun p => Instr.quarantine p), 2, [0, 1]), ((fun p => Instr.returnPos p), 3, [2]),
              ((fun p => Instr.replace p), 4, [1, 2]), ((fun p => Instr.retire p), 5, [0, 1, 2, 3]),
              ((fun p => Instr.unfence p), 6, [4])],
        ∀ pcid : BitVec 14, pcidOk pcid.toNat = true → condOf s pcid.toNat ∈ x.2.2 →
          (x.2.1 = 4 → bits (repairWord s (pcid.toNat / 16)) 35 32 ≠ 15) →
          ∃ t, exec (x.1 pcid) s = .next t ∧ t.health.action = some (actionWord x.2.1 pcid) ∧
            t = { s with dict := t.dict, health := { s.health with action := t.health.action } } ∧
            dget t 0x7010 1 = actionWord x.2.1 pcid ∧ dget t 0x7010 2 = 1) ∧
      (∀ m : MemSiteNo, m.val ∉ s.health.lostSites → m.val ∉ s.health.retired → ∃ t, exec (.retireSite m) s = .next t ∧
        t.health.action = some (8 + 16 * m.val) ∧ t = { s with dict := t.dict, health := { s.health with action := t.health.action } } ∧
        dget t 0x7010 2 = 1) ∧
      (∀ (site : SiteNo) (q : Fin 4), (isMemSite site = false ∨ q = 0) → fenced s site q = false →
        ∃ t, exec (.fenceRouter site q) s = .next t ∧ KeepsMem s t ∧ fenced t site q = true ∧ t.health.action = none ∧
          dget t 0x7010 2 = 2)) ∧
    (s.health.action ≠ none →
      (∃ t, exec .cancel s = .next t ∧ t.cores = s.cores ∧ KeepsMem s t ∧ t.health.action = none ∧ dget t 0x7010 2 = 2) ∧
      ∀ i : BitVec 14 → Instr, i ∈ [Instr.clear, Instr.quarantine, Instr.returnPos, Instr.replace, Instr.retire, Instr.unfence] →
        ∀ p, exec (i p) s = .next s) ∧
    ∀ (pcid : BitVec 14) (pass : Bool), s.health.action = some (actionWord 2 pcid) → pcidOk pcid.toNat = true →
      condOf s pcid.toNat ≤ 1 → actionIdle s = true → panelReady s = true →
        ∃ t, exec (.actionProceed pass) s = .next t ∧ KeepsMem s t ∧ condOf t pcid.toNat = 2 ∧ t.health.action = none ∧
          dget t 0x7010 2 = 2 ∧ ∀ c, coreOfPcid s pcid.toNat = some c → core t c = { Core.reset with st := .gated }

/-- An accepted drill record arms its slot for its trigger and repeats, or ends it while the scheduler is locked
out; a trigger of kind 1, 2, 4 or 7 opens the slot's window and counts, a quench or another's open window
skips it, and it waits while the monitor holds the service bus; the end of the window closes it, and the slot waits for its next trigger or ends, a slice that the
drill isolated works again; an accepted write of a perturbation register is stored with its time, and the return
to neutral and the timeout clear it (R431, R432, R433, R434, R471). -/
def Obligations.DrillsAndPerturbations : Prop :=
  (∀ (slot : Fin 8) (r : DrillRec) (s : State), (∀ d, aget slot.val s.health.drills = some d → d.st ≠ 1 ∧ d.st ≠ 2) →
    inBivouac s = false → perturbActive s = false → drillRecOk s r = true →
    (∀ p ∈ drillParts s r, partOff s p = false ∧ (r.kind = 1 → dget s (0x6100 + p) 5 ≠ 0)) →
      let d : DrillSlot := ⟨r, if bit (dget s 0x8030 2) 5 = true then 3 else 1, r.repeat_.toNat, r.trigger.toNat⟩
      exec (.drillArm slot r) s = .next { s with health := { s.health with drills := aput slot.val d s.health.drills } }) ∧
  (∀ (slot : Fin 8) (d : DrillSlot) (s : State), aget slot.val s.health.drills = some d → d.st = 1 → d.next ≤ s.prc →
    panelReady s = true →
      (s.mgmt.bus.taken = true → exec (.drillTrigger slot) s = .next (waitBus s 5)) ∧
      (s.mgmt.bus.taken = false → s.pwr.quench = none → s.health.window = none → d.rec_.kind.toNat ∈ [1, 2, 4, 7] →
        ∃ t, exec (.drillTrigger slot) s = .next t ∧ t.cores = s.cores ∧ KeepsMem s t ∧ t.health.window = some (slot.val, s.prc) ∧
          aget slot.val t.health.drills = some { d with st := 2, left := d.left - 1,
                                                        next := d.next + d.rec_.interval.toNat * secTicks }) ∧
      (s.mgmt.bus.taken = false → (s.pwr.quench ≠ none ∨ s.health.window ≠ none) → (∀ t0, s.health.window ≠ some (slot.val, t0)) →
        ∃ t, exec (.drillTrigger slot) s = .next t ∧ t.cores = s.cores ∧ KeepsMem s t ∧ t.health.window = s.health.window ∧
          aget slot.val t.health.drills = some { d with st := if d.left - 1 = 0 then 3 else 1, left := d.left - 1,
                                                        next := d.next + d.rec_.interval.toNat * secTicks })) ∧
  (∀ (slot : Fin 8) (d : DrillSlot) (t0 : Nat) (s : State), s.health.window = some (slot.val, t0) →
    aget slot.val s.health.drills = some d → t0 + usTicks (1000 * d.rec_.window.toNat) ≤ s.prc →
      ∃ t, exec (.drillWindowEnd slot) s = .next t ∧ t.cores = s.cores ∧ KeepsMem s t ∧ t.health.window = none ∧
        aget slot.val t.health.drills = some { d with st := if d.left = 0 then 3 else 1 } ∧
        ∀ r n, d.rec_.kind = 6 → s.health.slice = some n → drillRegion d.rec_ = some r → n ∉ (region t r).failed) ∧
  (∀ (d : DieNo) (reg : PertReg) (v : Word) (s : State), hasPert d (pertNo reg) = true → inBivouac s = false →
    drillArmed s = false → s.pwr.quench = none → pertOk s d (pertNo reg) (pertMask (pertNo reg) v.toNat) = true →
    marginBlocked s d (pertNo reg) (pertMask (pertNo reg) v.toNat) = none →
      ∃ t, exec (.perturbWrite d reg v) s = .next t ∧ t.cores = s.cores ∧ KeepsMem s t ∧
        dget t (0x7800 + d.val) (pertNo reg + 1) = pertMask (pertNo reg) v.toNat ∧
        (pertMask (pertNo reg) v.toNat ≠ 0 → aget (3 * d.val + pertNo reg) t.health.pertAt = some s.prc)) ∧
  (∀ (d : DieNo) (reg : PertReg) (t0 : Nat) (s : State), aget (3 * d.val + pertNo reg) s.health.pertAt = some t0 →
    t0 + dget s 0x7A00 1 * secTicks ≤ s.prc → ∃ t, exec (.perturbTimeout d reg) s = .next t ∧ t.cores = s.cores ∧
      KeepsMem s t ∧ dget t (0x7800 + d.val) (pertNo reg + 1) = 0)

/-- A licence that passes every check is stored in its slot, and one that fails leaves the licences as they were; a
privileged session opens a staging, appends eight bytes at a time and commits it, where the slot that was
inactive takes the bundle and becomes active if it passes; while the management port is locked out a staging write
changes nothing, and while the monitor holds the service bus it waits; a hallmark report is issued with its signature; a
requester that has held the service bus longer than the ceiling, and no other, is locked out, for drills with every armed
slot ended, and a lock is cleared by the firmware 10 ms later or by a write (R449, R450, R456, R457, R458, R469, R470, R471, R475). -/
def Obligations.Management : Prop :=
  (∀ (l : List Byte) (s : State), firmwareUp s = true →
    (∀ k, l.length = 256 → licFault s l = none → licSlot s l = some k → ∃ t, exec (.licenceInstall l) s = .next t ∧
      t.cores = s.cores ∧ KeepsMem s t ∧ aget k t.mgmt.licences = some l) ∧
    (l.length ≠ 256 ∨ licFault s l ≠ none → ∃ t, exec (.licenceInstall l) s = .next t ∧ OnlyEvents s t ∧
      t.mgmt.licences = s.mgmt.licences)) ∧
  (∀ (sid : BitVec 16) (s : State), privileged s sid = true →
    ∀ (comp : Byte) (v : Word), ∀ i ∈ [Instr.stageOpen sid comp, .stageData sid v, .stageCommit sid],
      (bit (dget s 0x8030 2) 3 = true → exec i s = .next s) ∧
      (bit (dget s 0x8030 2) 3 = false → s.mgmt.bus.taken = true → exec i s = .next (waitBus s 3))) ∧
  (∀ (sid : BitVec 16) (s : State), privileged s sid = true → bit (dget s 0x8030 2) 3 = false → s.mgmt.bus.taken = false →
    dget s 0x6000 1 ≠ 3 →
    (∀ comp : Byte, s.mgmt.stage = none → 1 ≤ comp.toNat → comp.toNat ≤ 4 → ∃ t, exec (.stageOpen sid comp) s = .next t ∧
      t = { s with dict := t.dict, mgmt := { s.mgmt with stage := some (.session sid, comp.toNat, []) } } ∧
      dget t 0x8200 1 = comp.toNat ∧ dget t 0x8200 4 = 1 ∧ dget t 0x8200 5 = 0) ∧
    (∀ comp bs, s.mgmt.stage = some (.session sid, comp, bs) →
      (∀ v : Word, bs.length + 8 ≤ 2 ^ 23 → ∃ t, exec (.stageData sid v) s = .next t ∧
        t = { s with dict := t.dict, mgmt := { s.mgmt with stage := some (.session sid, comp, bs ++ leBytes 8 v.toNat) } } ∧
        dget t 0x8200 5 = bs.length + 8) ∧
      (∃ t, exec (.stageCommit sid) s = .next t ∧ t.cores = s.cores ∧ KeepsMem s t ∧ t.mgmt.stage = none ∧
        aget (2 * (comp - 1) + (1 - activeSlot s (comp - 1))) t.mgmt.slots = some (parseBundle bs comp) ∧
        ((putBundle { s with mgmt := { s.mgmt with stage := none } } comp bs).2 = none →
          activeSlot t (comp - 1) = 1 - activeSlot s (comp - 1) ∧ dget t 0x8200 4 = 2) ∧
        ((putBundle { s with mgmt := { s.mgmt with stage := none } } comp bs).2 ≠ none →
          t.mgmt.active = s.mgmt.active ∧ dget t 0x8200 4 = 3)))) ∧
  (∀ s : State, firmwareUp s = true → ∃ t, exec .hallmarkIssue s = .next t ∧ t.cores = s.cores ∧ KeepsMem s t ∧
    t.mgmt.report = reportBody s ++ Config.deviceSign (reportBody s) ∧ dget t 0x8100 7 = 2) ∧
  (∀ (n : Fin 8) (held : Nat) (s : State),
    (5 < n.val ∨ held ≤ dget s 0x8030 1 → exec (.serviceBusCutoff ⟨n, held⟩) s = .next s) ∧
    (n.val ≤ 5 → dget s 0x8030 1 < held → ∃ t, exec (.serviceBusCutoff ⟨n, held⟩) s = .next t ∧ t.cores = s.cores ∧ KeepsMem s t ∧
      bit (dget t 0x8030 2) n.val = true ∧
      (n.val = 5 → ∀ k d, aget k s.health.drills = some d → d.st = 1 → aget k t.health.drills = some { d with st := 3 }) ∧
      (n.val ≠ 5 → t.health = s.health)) ∧
    (bit (dget s 0x8030 2) 0 = true → s.mgmt.bus.fwCut + usTicks 10000 ≤ s.prc →
      exec .firmwareLockClear s = .next (dset s 0x8030 2 (dget s 0x8030 2 - 1))) ∧
    (1 ≤ n.val → n.val ≤ 5 → bit (dget s 0x8030 2) n.val = true →
      exec (.busLockClear n) s = .next (dset s 0x8030 2 (dget s 0x8030 2 - 2 ^ n.val))))

/-- A hello that passes its checks opens a handshake and is answered, one that fails a check is answered with its
cause; a finish whose tag and signature verify opens the session; a request of one read is answered with its
status and data in a tagged response, its repetition with the same response, and an earlier sequence number with
nothing, and one with an operation for the service bus waits while the monitor holds it; a close whose tag verifies and the idle timeout end the session; a handshake without finish is gone
after a second; a blocked station is free after 60 seconds (R460, R461, R462, R464, R465, R466, R467, R468, R471). -/
def Obligations.CairnSessions : Prop :=
  (∀ (mac : BitVec 48) (m : HelloMsg) (s : State), firmwareUp s = true → isBlocked s mac = false →
    ((within s 1 s.mgmt.hellos).filter fun e => e.1 == mac).length < 4 → (within s 1 s.mgmt.hellos).length < 16 →
    s.mgmt.shakes.length < 8 →
      (helloFault s m = none → ∃ t h bs, exec (.hello mac m) s = .next t ∧
        t = { s with fresh := s.fresh + 1, mgmt := t.mgmt, out := s.out ++ [.frame mac bs] } ∧
        t.mgmt.shakes = s.mgmt.shakes ++ [h] ∧ h.mac = mac ∧ h.level = m.level.toNat ∧ h.start = s.prc ∧
        t.mgmt.sessions = s.mgmt.sessions) ∧
      (∀ n, helloFault s m = some n → ∃ t, exec (.hello mac m) s = .next t ∧ t.mgmt.shakes = s.mgmt.shakes ∧
        t = { s with mgmt := t.mgmt, out := s.out ++ [.frame mac (cairnMsg 7 0 0 [BitVec.ofNat 8 n])] })) ∧
  (∀ (mac : BitVec 48) (sid : BitVec 16) (sig tag : List Byte) (h : Handshake) (s : State), firmwareUp s = true →
    isBlocked s mac = false → (s.mgmt.shakes.find? fun h => h.sid == sid && h.mac == mac) = some h →
    tag = tagOf h.keyIn (cairnMsg 3 sid 0 sig) → finishOk h sig = true → s.mgmt.sessions.length < 8 →
      ∃ t, exec (.finish mac sid sig tag) s = .next t ∧ t.cores = s.cores ∧ KeepsMem s t ∧
        t.mgmt.sessions = s.mgmt.sessions ++ [⟨sid, mac, h.level, h.keyIn, h.keyOut, none, s.prc, [], h.cert⟩] ∧
        t.mgmt.shakes = s.mgmt.shakes.filter fun x => x.sid != sid) ∧
  (∀ (mac : BitVec 48) (sid : BitVec 16) (seq : BitVec 32) (body tag : List Byte) (x : Session) (s : State),
    firmwareUp s = true → isBlocked s mac = false → body.length ≤ 1400 →
    (s.mgmt.sessions.find? fun x => x.sid == sid && x.mac == mac) = some x → tag = tagOf x.keyIn (cairnMsg 4 sid seq.toNat body) →
    let waits : Bool := s.mgmt.bus.taken && opsNeedBus (body.length / 8 + 1) body
    (waits = true → exec (.request mac sid seq body tag) s = .next (waitBus s 3)) ∧
      (waits = false → body.length = 8 → leNat body % 256 = 1 → seq.toNat ≠ 0 → seq.toNat ≠ 2 ^ 32 - 1 →
        (∀ l, x.last = some l → l.1 < seq.toNat) →
          let n := bits (leNat body) 31 8
          let y := cairnRead s (.session sid) (n / 256) (n % 256)
          let m := cairnMsg 5 sid seq.toNat (leBytes 8 (setBits (leNat body) 63 48 y.1) ++ padded y.2)
          ∃ t, exec (.request mac sid seq body tag) s = .next t ∧
            t = { s with mgmt := t.mgmt, out := s.out ++ [.frame mac (m ++ tagOf x.keyOut m)] }) ∧
      (∀ resp, waits = false → x.last = some (seq.toNat, tag, resp) → exec (.request mac sid seq body tag) s = .next
        { s with out := s.out ++ [.frame mac (cairnMsg 5 sid seq.toNat resp
                                    ++ tagOf x.keyOut (cairnMsg 5 sid seq.toNat resp))] }) ∧
      (∀ l, waits = false → x.last = some l → seq.toNat < l.1 → exec (.request mac sid seq body tag) s = .next s)) ∧
  (∀ (mac : BitVec 48) (sid : BitVec 16) (seq : BitVec 32) (tag : List Byte) (x : Session) (s : State),
    firmwareUp s = true → isBlocked s mac = false →
    (s.mgmt.sessions.find? fun x => x.sid == sid && x.mac == mac) = some x → tag = tagOf x.keyIn (cairnMsg 6 sid seq.toNat []) →
      ∃ t, exec (.close mac sid seq tag) s = .next t ∧ t.cores = s.cores ∧ KeepsMem s t ∧
        t.mgmt.sessions = s.mgmt.sessions.filter fun x => x.sid != sid) ∧
  (∀ (sid : BitVec 16) (s : State),
    (∀ x, findSession s sid = some x → x.at_ + dget s 0x8000 5 * secTicks ≤ s.prc →
      ∃ t, exec (.sessionIdleTimeout sid) s = .next t ∧ t.cores = s.cores ∧ KeepsMem s t ∧
        t.mgmt.sessions = s.mgmt.sessions.filter fun x => x.sid != sid) ∧
    (∀ h, (s.mgmt.shakes.find? fun h => h.sid == sid) = some h → h.start + secTicks ≤ s.prc →
      ∃ t, exec (.finishTimeout sid) s = .next t ∧ t.cores = s.cores ∧ KeepsMem s t ∧
        t.mgmt.shakes = s.mgmt.shakes.filter fun x => x.sid != sid)) ∧
  (∀ (mac : BitVec 48) (s : State), (∀ e ∈ s.mgmt.blocked, e.1 = mac → e.2 + 60 * secTicks ≤ s.prc) →
    ∃ t, exec (.stationUnblock mac) s = .next t ∧ t = { s with mgmt := { s.mgmt with blocked := t.mgmt.blocked } } ∧
      isBlocked t mac = false)

/-- While the standby rail is present, the commands that read answer a line that begins with ok; baud sets the rate;
unlock gives a challenge of 32 bytes, a right answer unlocks the monitor and the third refusal locks the command
for 60 s; lock, and 15 minutes without a command, end the unlock and give the bus back, whereupon the operations of the
host windows go on; set, bus take, bus give,
reset warm and reset cold need the unlock and are refused with code 1 without it; with it set is a dictionary
write, the bus is taken and given, a warm reset is accepted and a cold reset starts a cold boot; recover stores
a bundle that passes its checks, and starts base-camp firmware where the ROM had started nothing (R442, R471, R473, R474, R475). -/
def Obligations.SerialMonitor : Prop :=
  ∀ s : State, s.tray.stbyOk = true →
    let ran : State := setMon s fun m => { m with unlocked := m.unlocked.map fun _ => s.prc }
    (∀ i ∈ [Instr.help, Instr.ver, Instr.id, Instr.state, Instr.log none], ∃ l, exec i s = .next (emit ran (.line ([0x6F, 0x6B] ++ l)))) ∧
    (∀ n, 1 ≤ n → n ≤ 64 → ∃ l, exec (.log (some n)) s = .next (emit ran (.line ([0x6F, 0x6B] ++ l)))) ∧
    (∀ (index : BitVec 16) (sub : Byte) (bs : List Byte), firmwareUp s = true →
      cairnRead ran .monitor index.toNat sub.toNat = (0, bs) → exec (.get index sub) s = .next (okLine ran [hexBytes bs])) ∧
    (∀ n, 115200 ≤ n → n ≤ 3000000 → ∃ t, exec (.baud n) s = .next t ∧ t.mgmt.mon.baud = n ∧
      t = { s with mgmt := { s.mgmt with mon := t.mgmt.mon }, out := s.out ++ [.line [0x6F, 0x6B]] }) ∧
    (unlockLocked s = false → ∀ k, ownerKey48 s = some k →
      (∃ t c, exec (.unlock none) s = .next t ∧ t.mgmt.mon.challenge = some c ∧ c.length = 32 ∧ t.cores = s.cores ∧ KeepsMem s t) ∧
      (∀ a c, s.mgmt.mon.challenge = some c →
        (answerOk s c a = true → ∃ t, exec (.unlock (some a)) s = .next t ∧ t.mgmt.mon.unlocked = some s.prc ∧
          t.mgmt.mon.challenge = none ∧ t.cores = s.cores ∧ KeepsMem s t) ∧
        (answerOk s c a = false → s.mgmt.mon.refused.length = 2 → ∃ t, exec (.unlock (some a)) s = .next t ∧
          t.mgmt.mon.lockedAt = some (s.prc + 60 * secTicks) ∧ t.mgmt.mon.challenge = none))) ∧
    let goOn (u : State) : State := (u.host.ins.map fun x => (x.host, x.qpn)).eraseDups.foldl (fun t k => pumpQp t k.1 k.2) u
    let given (u : State) : State := { u with mgmt := { u.mgmt with bus := { u.mgmt.bus with taken := false, waiting := [] } } }
    let locked : State := { s with mgmt := { s.mgmt with mon := { s.mgmt.mon with unlocked := none, challenge := none } } }
    exec .lock s = .next (emit (goOn (given locked)) (.line [0x6F, 0x6B])) ∧
    (∀ t0, s.mgmt.mon.unlocked = some t0 → t0 + 900 * secTicks ≤ s.prc → exec .unlockTimeout s = .next (goOn (given locked))) ∧
    (∀ t0, s.mgmt.mon.unlocked = some t0 → s.prc < t0 + 900 * secTicks → exec .unlockTimeout s = .next s) ∧
    (∀ u, u.host.ins = [] → goOn u = u) ∧
    (s.mgmt.mon.unlocked = none → ∀ (index : BitVec 16) (sub : Byte) (v : List Byte) (o : BootObs),
      ∀ i ∈ [Instr.set index sub v, Instr.busTake, Instr.busGive, Instr.resetWarm, Instr.resetCold o],
        exec i s = .next (errLine ran 1)) ∧
    (s.mgmt.mon.unlocked ≠ none →
      (∀ (index : BitVec 16) (sub : Byte) (v : List Byte) (u : State), firmwareUp s = true →
        cairnWrite ran .monitor index.toNat sub.toNat v = (u, 0) → exec (.set index sub v) s = .next (okLine u [])) ∧
      (∃ t, exec .busTake s = .next t ∧ t.mgmt.bus.taken = true ∧
        t = { s with mgmt := t.mgmt, out := s.out ++ [.line [0x6F, 0x6B]] }) ∧
      exec .busGive s = .next (emit (goOn (given ran)) (.line [0x6F, 0x6B])) ∧
      (firmwareUp s = true → mayWarm s = true → ∃ t, exec .resetWarm s = .next t ∧ dget t 0x6000 1 = 3 ∧ KeepsMem s t) ∧
      (∀ o, ∃ t, exec (.resetCold o) s = .next t ∧ t.prc = 0 ∧ t.spm = [] ∧ t.hbm = [] ∧ t.sram = []) ∧
      (∀ (comp : Byte) (b : List Byte) (u : State), s.mgmt.romHalt = none → 1 ≤ comp.toNat → comp.toNat ≤ 4 →
        putBundle ran comp.toNat b = (u, none) → exec (.recover comp b) s = .next (okLine u []))) ∧
    ∀ (b : List Byte) (o : BootObs) (u : State), s.mgmt.romHalt ≠ none → s.parts.booting = some (false, o) →
      putBundle ran 1 b = (u, none) → ∃ t, exec (.recover 1 b) s = .next t ∧ t.mgmt.romHalt = none ∧ t.prc = s.prc

/-- Right after reset no command waits, the reference counter is zero, the dictionary holds its defaults, the
memories are empty and in canonical form, no core has state other than the reset values of its registers with
its sequencer idle and halted, no traffic is in flight, no link is in service, no partition is defined, no
session is open, the panel is not powered and its state is booting; that memories start empty is the model's
choice of log 15, and that the kept log and the flash slots start so is its choice of logs 14 and 17 (R25, R102, R179, R180, R340, R398, R481). -/
def Obligations.ResetState : Prop :=
  State.reset.pending = [] ∧ State.reset.prc = 0 ∧ State.reset.memsWf = true ∧ State.reset.spm = [] ∧ State.reset.hbm = [] ∧
  State.reset.sram = [] ∧ (∀ i j, dget State.reset i j = cairnDefault i j) ∧
  (∀ c, core State.reset c = Core.reset) ∧ Core.reset.st = .idle ∧ Core.reset.halt = true ∧ Core.reset.assayEn = true ∧
  Core.reset.wdogLimit = 24 ∧ (∀ n, Core.reset.sreg n = 0) ∧
  State.reset.fab.net = [] ∧ State.reset.fab.msgs = [] ∧ State.reset.links.links = [] ∧ (∀ p, partSt State.reset p = 0) ∧
  (∀ k, repairWord State.reset k = 0x1876543210) ∧ State.reset.mgmt.sessions = [] ∧ powered State.reset = false ∧
  panelReady State.reset = false ∧ dget State.reset 0x6000 1 = 0

/-- Where scratchpads, HBM stacks and host-die SRAM are in canonical form, with addresses strictly rising and no
byte listed that an unlisted address would read as, every command answers a next state, and every step does, whatever
waits and with the queue empty; in that state they are in canonical form again (R154, R179, R237, R296). -/
def Obligations.MemoriesStayCanonical : Prop :=
  ∀ s : State, s.memsWf = true →
    (∀ i : Instr, ∃ t, exec i s = .next t ∧ t.memsWf = true) ∧ ∃ t, step s = .next t ∧ t.memsWf = true
end

