-- ==== Sys2Proof/Laws/Table.lean ====
section
/-!
SUPPORT. Table.lean: laws of sparse tables and byte memories: what a read gives after a write, and that every memory
operation keeps the canonical form.
-/
namespace Sys2Proof.Machine

variable {α : Type}

/-! ## Sparse tables -/

@[simp] theorem aget_aput_same (k : Nat) (x : α) (t : Assoc α) : aget k (aput k x t) = some x := by
  induction t with
  | nil => simp [aput, aget]
  | cons e t ih =>
    obtain ⟨i, y⟩ := e
    simp only [aput]
    split
    · simp [aget]
    · split
      · simp [aget]
      · rename_i h1 h2
        have h3 : i ≠ k := fun h => h2 h.symm
        simp [aget, h3, ih]

theorem aget_aput_other {k j : Nat} (h : j ≠ k) (x : α) (t : Assoc α) : aget j (aput k x t) = aget j t := by
  induction t with
  | nil => simp [aput, aget, Ne.symm h]
  | cons e t ih =>
    obtain ⟨i, y⟩ := e
    simp only [aput]
    split
    · simp [aget, Ne.symm h]
    · split
      · rename_i h2
        subst h2
        simp [aget, Ne.symm h]
      · simp only [aget, ih]

@[simp] theorem agetD_aput_same (k : Nat) (d x : α) (t : Assoc α) : agetD k d (aput k x t) = x := by simp [agetD]

theorem agetD_aput_other {k j : Nat} (h : j ≠ k) (d x : α) (t : Assoc α) : agetD j d (aput k x t) = agetD j d t := by
  simp [agetD, aget_aput_other h]

theorem agetD_aput (k j : Nat) (d x : α) (t : Assoc α) : agetD j d (aput k x t) = if j = k then x else agetD j d t := by
  split
  · rename_i h; subst h; simp
  · rename_i h; exact agetD_aput_other h d x t

theorem aget_adel_other {k j : Nat} (h : j ≠ k) (t : Assoc α) : aget j (adel k t) = aget j t := by
  induction t with
  | nil => rfl
  | cons e t ih =>
    obtain ⟨i, y⟩ := e
    simp only [adel]
    split
    · rename_i h2; subst h2; simp [aget, Ne.symm h]
    · simp only [aget, ih]

/-! ## Rising keys -/

theorem keysRise_tail {e : Nat × α} {t : Assoc α} (h : keysRise (e :: t) = true) : keysRise t = true := by
  cases t with
  | nil => rfl
  | cons f t => obtain ⟨i, x⟩ := e; obtain ⟨j, y⟩ := f; simp [keysRise] at h; exact h.2

/-- Every key of a rising table is above that of its head. -/
theorem keysRise_head {e : Nat × α} {t : Assoc α} (h : keysRise (e :: t) = true) : ∀ f ∈ t, e.1 < f.1 := by
  induction t generalizing e with
  | nil => simp
  | cons g t ih =>
    obtain ⟨i, x⟩ := e; obtain ⟨j, y⟩ := g
    simp [keysRise] at h
    intro f hf
    rcases List.mem_cons.mp hf with rfl | hf
    · exact h.1
    · exact Nat.lt_trans h.1 (ih h.2 f hf)

theorem keysRise_cons {e : Nat × α} {t : Assoc α} (h : keysRise t = true) (hd : ∀ f ∈ t, e.1 < f.1) :
    keysRise (e :: t) = true := by
  cases t with
  | nil => rfl
  | cons f t =>
    obtain ⟨i, x⟩ := e; obtain ⟨j, y⟩ := f
    simp [keysRise, h]; exact hd (j, y) (by simp)

theorem mem_aput {k : Nat} {x : α} {t : Assoc α} {f : Nat × α} (h : f ∈ aput k x t) : f = (k, x) ∨ f ∈ t := by
  induction t with
  | nil => simp [aput] at h; exact .inl h
  | cons e t ih =>
    obtain ⟨i, y⟩ := e
    simp only [aput] at h
    split at h
    · simpa using h
    · split at h
      · simp only [List.mem_cons] at h ⊢; rcases h with h | h <;> simp [h]
      · simp only [List.mem_cons] at h ⊢
        rcases h with h | h
        · simp [h]
        · rcases ih h with h | h <;> simp [h]

theorem keysRise_aput {k : Nat} {x : α} {t : Assoc α} (h : keysRise t = true) : keysRise (aput k x t) = true := by
  induction t with
  | nil => rfl
  | cons e t ih =>
    obtain ⟨i, y⟩ := e
    have hd := keysRise_head h
    have ht := keysRise_tail h
    simp only [aput]
    split
    · rename_i hk
      refine keysRise_cons h fun f hf => ?_
      rcases List.mem_cons.mp hf with rfl | hf
      · exact hk
      · exact Nat.lt_trans hk (hd f hf)
    · split
      · rename_i hk; subst hk; exact keysRise_cons ht hd
      · rename_i h1 h2
        refine keysRise_cons (ih ht) fun f hf => ?_
        rcases mem_aput hf with rfl | hf
        · show i < k; omega
        · exact hd f hf

theorem mem_adel {k : Nat} {t : Assoc α} {f : Nat × α} (h : f ∈ adel k t) : f ∈ t := by
  induction t with
  | nil => simp [adel] at h
  | cons e t ih =>
    obtain ⟨i, y⟩ := e
    simp only [adel] at h
    split at h
    · simp [h]
    · simp only [List.mem_cons] at h ⊢; rcases h with h | h <;> simp [h, ih]

theorem keysRise_adel {k : Nat} {t : Assoc α} (h : keysRise t = true) : keysRise (adel k t) = true := by
  induction t with
  | nil => rfl
  | cons e t ih =>
    obtain ⟨i, y⟩ := e
    simp only [adel]
    split
    · exact keysRise_tail h
    · exact keysRise_cons (ih (keysRise_tail h)) fun f hf => keysRise_head h f (mem_adel hf)

theorem keysRise_filter {t : Assoc α} (p : Nat × α → Bool) (h : keysRise t = true) : keysRise (t.filter p) = true := by
  induction t with
  | nil => rfl
  | cons e t ih =>
    simp only [List.filter_cons]
    split
    · exact keysRise_cons (ih (keysRise_tail h)) fun f hf => keysRise_head h f (List.mem_filter.mp hf).1
    · exact ih (keysRise_tail h)

/-- A key below every key of a rising table is not in it. -/
theorem aget_none_of_lt {k : Nat} {t : Assoc α} (h : ∀ f ∈ t, k < f.1) : aget k t = none := by
  induction t with
  | nil => rfl
  | cons e t ih =>
    obtain ⟨i, y⟩ := e
    have h1 : k < i := h (i, y) (by simp)
    have h2 : i ≠ k := by omega
    simp only [aget, h2, if_false]
    exact ih fun f hf => h f (by simp [hf])

/-- A removed key is not in a rising table. -/
theorem aget_adel_same {k : Nat} {t : Assoc α} (h : keysRise t = true) : aget k (adel k t) = none := by
  induction t with
  | nil => rfl
  | cons e t ih =>
    obtain ⟨i, y⟩ := e
    simp only [adel]
    split
    · rename_i hk; subst hk; exact aget_none_of_lt (keysRise_head h)
    · rename_i hk; simp only [aget, hk, if_false]; exact ih (keysRise_tail h)

/-! ## Byte memories -/

@[simp] theorem Memory.wf_nil : Memory.wf [] = true := rfl

/-- One byte written keeps the canonical form. -/
theorem wf_memPut {m : Mem} (a : Nat) (b : Byte) (h : Memory.wf m = true) : Memory.wf (memPut m a b) = true := by
  simp only [Memory.wf, Bool.and_eq_true, List.all_eq_true] at h ⊢
  simp only [memPut]
  split
  · exact ⟨keysRise_adel h.1, fun f hf => h.2 f (mem_adel hf)⟩
  · rename_i hb
    refine ⟨keysRise_aput h.1, fun f hf => ?_⟩
    rcases mem_aput hf with rfl | hf
    · simpa using hb
    · exact h.2 f hf

/-- Bytes written keep the canonical form. -/
theorem wf_memWrite {m : Mem} (a : Nat) (bs : List Byte) (h : Memory.wf m = true) : Memory.wf (memWrite m a bs) = true := by
  induction bs generalizing m a with
  | nil => exact h
  | cons b bs ih => exact ih (a + 1) (wf_memPut a b h)

/-- A scrub or fill keeps the canonical form. -/
theorem wf_memZero {m : Mem} (a n : Nat) (h : Memory.wf m = true) : Memory.wf (memZero m a n) = true := by
  simp only [Memory.wf, Bool.and_eq_true, List.all_eq_true] at h ⊢
  exact ⟨keysRise_filter _ h.1, fun f hf => h.2 f (List.mem_filter.mp hf).1⟩

/-- Reading a byte after it was written gives it. -/
theorem memGet_memPut_same {m : Mem} (a : Nat) (b : Byte) (h : Memory.wf m = true) : memGet (memPut m a b) a = b := by
  simp only [Memory.wf, Bool.and_eq_true] at h
  simp only [memGet, memPut]
  split
  · rename_i hb; simp [agetD, aget_adel_same h.1, hb]
  · simp

/-- Writing a byte leaves every other place alone. -/
theorem memGet_memPut_other {m : Mem} {a c : Nat} (b : Byte) (h : c ≠ a) : memGet (memPut m a b) c = memGet m c := by
  simp only [memGet, memPut]
  split
  · simp [agetD, aget_adel_other h]
  · exact agetD_aput_other h _ _ _

/-- Bytes written leave every place outside them alone. -/
theorem memGet_memWrite_other {m : Mem} {a c : Nat} (bs : List Byte) (h : c < a ∨ a + bs.length ≤ c) :
    memGet (memWrite m a bs) c = memGet m c := by
  induction bs generalizing m a with
  | nil => rfl
  | cons b bs ih =>
    simp only [List.length_cons] at h
    simp only [memWrite]
    rw [ih (by omega), memGet_memPut_other b (by omega)]

/-- Reading a written byte gives it. -/
theorem memGet_memWrite_same {m : Mem} {a i : Nat} {bs : List Byte} (h : Memory.wf m = true) (hi : i < bs.length) :
    memGet (memWrite m a bs) (a + i) = bs[i] := by
  induction bs generalizing m a i with
  | nil => simp at hi
  | cons b bs ih =>
    simp only [memWrite]
    cases i with
    | zero => rw [memGet_memWrite_other bs (by omega)]; simpa using memGet_memPut_same a b h
    | succ i =>
      have := ih (a := a + 1) (i := i) (wf_memPut a b h) (by simpa using hi)
      simpa [Nat.add_assoc, Nat.add_comm 1 i] using this

theorem memRead_length (m : Mem) (a n : Nat) : (memRead m a n).length = n := by
  induction n generalizing a with
  | zero => rfl
  | succ n ih => simp [memRead, ih]

theorem memRead_get (m : Mem) (a n i : Nat) (h : i < n) : (memRead m a n)[i]? = some (memGet m (a + i)) := by
  induction n generalizing a i with
  | zero => omega
  | succ n ih =>
    cases i with
    | zero => simp [memRead]
    | succ i => simp only [memRead, List.getElem?_cons_succ]; rw [ih (a + 1) i (by omega)]; congr 2; omega

/-- A byte of a zeroed range reads zero; every other byte is as before. -/
theorem aget_adropRange (lo hi k : Nat) (t : Assoc α) :
    aget k (adropRange lo hi t) = if lo ≤ k ∧ k < hi then none else aget k t := by
  induction t with
  | nil => simp [adropRange, aget]
  | cons e t ih =>
    obtain ⟨i, y⟩ := e
    simp only [adropRange, List.filter_cons] at ih ⊢
    by_cases hp : i < lo ∨ hi ≤ i
    · have : (decide (i < lo) || decide (hi ≤ i)) = true := by simpa using hp
      simp only [this, if_true, aget]
      by_cases hk : i = k
      · subst hk; simp only [if_true]; rw [if_neg]; omega
      · simp only [hk, if_false]; exact ih
    · have : (decide (i < lo) || decide (hi ≤ i)) = false := by
        simp only [Bool.or_eq_false_iff, decide_eq_false_iff_not]; omega
      simp only [this, Bool.false_eq_true, if_false, aget]
      rw [ih]
      by_cases hk : i = k
      · subst hk; simp only [if_true]; rw [if_pos (by omega), if_pos (by omega)]
      · simp only [hk, if_false]

theorem memGet_memZero (m : Mem) (a n b : Nat) :
    memGet (memZero m a n) b = if a ≤ b ∧ b < a + n then unlisted else memGet m b := by
  simp only [memGet, memZero, agetD, aget_adropRange]
  split <;> rfl

end Sys2Proof.Machine
end

