-- ==== Sys2Proof/Laws/State.lean ====
section
/-!
SUPPORT. State.lean: one lemma for each field that a named update of the state leaves as it was, and what each update gives
where it acts; true by rfl, so that no later proof unfolds a record update.
-/
namespace Sys2Proof.Machine

open Sys2Proof

@[simp] theorem setCore_pending (s : State) (c : Nat) (k : Core) : (setCore s c k).pending = s.pending := rfl
@[simp] theorem setCore_prc (s : State) (c : Nat) (k : Core) : (setCore s c k).prc = s.prc := rfl
@[simp] theorem setCore_fresh (s : State) (c : Nat) (k : Core) : (setCore s c k).fresh = s.fresh := rfl
@[simp] theorem setCore_out (s : State) (c : Nat) (k : Core) : (setCore s c k).out = s.out := rfl
@[simp] theorem setCore_spm (s : State) (c : Nat) (k : Core) : (setCore s c k).spm = s.spm := rfl
@[simp] theorem setCore_hbm (s : State) (c : Nat) (k : Core) : (setCore s c k).hbm = s.hbm := rfl
@[simp] theorem setCore_sram (s : State) (c : Nat) (k : Core) : (setCore s c k).sram = s.sram := rfl
@[simp] theorem setCore_dict (s : State) (c : Nat) (k : Core) : (setCore s c k).dict = s.dict := rfl
@[simp] theorem setCore_msites (s : State) (c : Nat) (k : Core) : (setCore s c k).msites = s.msites := rfl
@[simp] theorem setCore_fab (s : State) (c : Nat) (k : Core) : (setCore s c k).fab = s.fab := rfl
@[simp] theorem setCore_links (s : State) (c : Nat) (k : Core) : (setCore s c k).links = s.links := rfl
@[simp] theorem setCore_host (s : State) (c : Nat) (k : Core) : (setCore s c k).host = s.host := rfl
@[simp] theorem setCore_clk (s : State) (c : Nat) (k : Core) : (setCore s c k).clk = s.clk := rfl
@[simp] theorem setCore_pwr (s : State) (c : Nat) (k : Core) : (setCore s c k).pwr = s.pwr := rfl
@[simp] theorem setCore_parts (s : State) (c : Nat) (k : Core) : (setCore s c k).parts = s.parts := rfl
@[simp] theorem setCore_health (s : State) (c : Nat) (k : Core) : (setCore s c k).health = s.health := rfl
@[simp] theorem setCore_mgmt (s : State) (c : Nat) (k : Core) : (setCore s c k).mgmt = s.mgmt := rfl
@[simp] theorem setCore_tray (s : State) (c : Nat) (k : Core) : (setCore s c k).tray = s.tray := rfl

@[simp] theorem modCore_pending (s : State) (c : Nat) (f : Core → Core) : (modCore s c f).pending = s.pending := rfl
@[simp] theorem modCore_prc (s : State) (c : Nat) (f : Core → Core) : (modCore s c f).prc = s.prc := rfl
@[simp] theorem modCore_fresh (s : State) (c : Nat) (f : Core → Core) : (modCore s c f).fresh = s.fresh := rfl
@[simp] theorem modCore_out (s : State) (c : Nat) (f : Core → Core) : (modCore s c f).out = s.out := rfl
@[simp] theorem modCore_spm (s : State) (c : Nat) (f : Core → Core) : (modCore s c f).spm = s.spm := rfl
@[simp] theorem modCore_hbm (s : State) (c : Nat) (f : Core → Core) : (modCore s c f).hbm = s.hbm := rfl
@[simp] theorem modCore_sram (s : State) (c : Nat) (f : Core → Core) : (modCore s c f).sram = s.sram := rfl
@[simp] theorem modCore_dict (s : State) (c : Nat) (f : Core → Core) : (modCore s c f).dict = s.dict := rfl
@[simp] theorem modCore_msites (s : State) (c : Nat) (f : Core → Core) : (modCore s c f).msites = s.msites := rfl
@[simp] theorem modCore_fab (s : State) (c : Nat) (f : Core → Core) : (modCore s c f).fab = s.fab := rfl
@[simp] theorem modCore_links (s : State) (c : Nat) (f : Core → Core) : (modCore s c f).links = s.links := rfl
@[simp] theorem modCore_host (s : State) (c : Nat) (f : Core → Core) : (modCore s c f).host = s.host := rfl
@[simp] theorem modCore_clk (s : State) (c : Nat) (f : Core → Core) : (modCore s c f).clk = s.clk := rfl
@[simp] theorem modCore_pwr (s : State) (c : Nat) (f : Core → Core) : (modCore s c f).pwr = s.pwr := rfl
@[simp] theorem modCore_parts (s : State) (c : Nat) (f : Core → Core) : (modCore s c f).parts = s.parts := rfl
@[simp] theorem modCore_health (s : State) (c : Nat) (f : Core → Core) : (modCore s c f).health = s.health := rfl
@[simp] theorem modCore_mgmt (s : State) (c : Nat) (f : Core → Core) : (modCore s c f).mgmt = s.mgmt := rfl
@[simp] theorem modCore_tray (s : State) (c : Nat) (f : Core → Core) : (modCore s c f).tray = s.tray := rfl

@[simp] theorem dset_pending (s : State) (index sub v : Nat) : (dset s index sub v).pending = s.pending := rfl
@[simp] theorem dset_prc (s : State) (index sub v : Nat) : (dset s index sub v).prc = s.prc := rfl
@[simp] theorem dset_fresh (s : State) (index sub v : Nat) : (dset s index sub v).fresh = s.fresh := rfl
@[simp] theorem dset_out (s : State) (index sub v : Nat) : (dset s index sub v).out = s.out := rfl
@[simp] theorem dset_spm (s : State) (index sub v : Nat) : (dset s index sub v).spm = s.spm := rfl
@[simp] theorem dset_hbm (s : State) (index sub v : Nat) : (dset s index sub v).hbm = s.hbm := rfl
@[simp] theorem dset_sram (s : State) (index sub v : Nat) : (dset s index sub v).sram = s.sram := rfl
@[simp] theorem dset_cores (s : State) (index sub v : Nat) : (dset s index sub v).cores = s.cores := rfl
@[simp] theorem dset_msites (s : State) (index sub v : Nat) : (dset s index sub v).msites = s.msites := rfl
@[simp] theorem dset_fab (s : State) (index sub v : Nat) : (dset s index sub v).fab = s.fab := rfl
@[simp] theorem dset_links (s : State) (index sub v : Nat) : (dset s index sub v).links = s.links := rfl
@[simp] theorem dset_host (s : State) (index sub v : Nat) : (dset s index sub v).host = s.host := rfl
@[simp] theorem dset_clk (s : State) (index sub v : Nat) : (dset s index sub v).clk = s.clk := rfl
@[simp] theorem dset_pwr (s : State) (index sub v : Nat) : (dset s index sub v).pwr = s.pwr := rfl
@[simp] theorem dset_parts (s : State) (index sub v : Nat) : (dset s index sub v).parts = s.parts := rfl
@[simp] theorem dset_health (s : State) (index sub v : Nat) : (dset s index sub v).health = s.health := rfl
@[simp] theorem dset_mgmt (s : State) (index sub v : Nat) : (dset s index sub v).mgmt = s.mgmt := rfl
@[simp] theorem dset_tray (s : State) (index sub v : Nat) : (dset s index sub v).tray = s.tray := rfl

@[simp] theorem emit_pending (s : State) (o : Out) : (emit s o).pending = s.pending := rfl
@[simp] theorem emit_prc (s : State) (o : Out) : (emit s o).prc = s.prc := rfl
@[simp] theorem emit_fresh (s : State) (o : Out) : (emit s o).fresh = s.fresh := rfl
@[simp] theorem emit_spm (s : State) (o : Out) : (emit s o).spm = s.spm := rfl
@[simp] theorem emit_hbm (s : State) (o : Out) : (emit s o).hbm = s.hbm := rfl
@[simp] theorem emit_sram (s : State) (o : Out) : (emit s o).sram = s.sram := rfl
@[simp] theorem emit_dict (s : State) (o : Out) : (emit s o).dict = s.dict := rfl
@[simp] theorem emit_cores (s : State) (o : Out) : (emit s o).cores = s.cores := rfl
@[simp] theorem emit_msites (s : State) (o : Out) : (emit s o).msites = s.msites := rfl
@[simp] theorem emit_fab (s : State) (o : Out) : (emit s o).fab = s.fab := rfl
@[simp] theorem emit_links (s : State) (o : Out) : (emit s o).links = s.links := rfl
@[simp] theorem emit_host (s : State) (o : Out) : (emit s o).host = s.host := rfl
@[simp] theorem emit_clk (s : State) (o : Out) : (emit s o).clk = s.clk := rfl
@[simp] theorem emit_pwr (s : State) (o : Out) : (emit s o).pwr = s.pwr := rfl
@[simp] theorem emit_parts (s : State) (o : Out) : (emit s o).parts = s.parts := rfl
@[simp] theorem emit_health (s : State) (o : Out) : (emit s o).health = s.health := rfl
@[simp] theorem emit_mgmt (s : State) (o : Out) : (emit s o).mgmt = s.mgmt := rfl
@[simp] theorem emit_tray (s : State) (o : Out) : (emit s o).tray = s.tray := rfl

@[simp] theorem setEring_pending (s : State) (r : Nat) (e : ERing) : (setEring s r e).pending = s.pending := rfl
@[simp] theorem setEring_prc (s : State) (r : Nat) (e : ERing) : (setEring s r e).prc = s.prc := rfl
@[simp] theorem setEring_fresh (s : State) (r : Nat) (e : ERing) : (setEring s r e).fresh = s.fresh := rfl
@[simp] theorem setEring_out (s : State) (r : Nat) (e : ERing) : (setEring s r e).out = s.out := rfl
@[simp] theorem setEring_spm (s : State) (r : Nat) (e : ERing) : (setEring s r e).spm = s.spm := rfl
@[simp] theorem setEring_hbm (s : State) (r : Nat) (e : ERing) : (setEring s r e).hbm = s.hbm := rfl
@[simp] theorem setEring_sram (s : State) (r : Nat) (e : ERing) : (setEring s r e).sram = s.sram := rfl
@[simp] theorem setEring_dict (s : State) (r : Nat) (e : ERing) : (setEring s r e).dict = s.dict := rfl
@[simp] theorem setEring_cores (s : State) (r : Nat) (e : ERing) : (setEring s r e).cores = s.cores := rfl
@[simp] theorem setEring_msites (s : State) (r : Nat) (e : ERing) : (setEring s r e).msites = s.msites := rfl
@[simp] theorem setEring_fab (s : State) (r : Nat) (e : ERing) : (setEring s r e).fab = s.fab := rfl
@[simp] theorem setEring_links (s : State) (r : Nat) (e : ERing) : (setEring s r e).links = s.links := rfl
@[simp] theorem setEring_clk (s : State) (r : Nat) (e : ERing) : (setEring s r e).clk = s.clk := rfl
@[simp] theorem setEring_pwr (s : State) (r : Nat) (e : ERing) : (setEring s r e).pwr = s.pwr := rfl
@[simp] theorem setEring_parts (s : State) (r : Nat) (e : ERing) : (setEring s r e).parts = s.parts := rfl
@[simp] theorem setEring_health (s : State) (r : Nat) (e : ERing) : (setEring s r e).health = s.health := rfl
@[simp] theorem setEring_mgmt (s : State) (r : Nat) (e : ERing) : (setEring s r e).mgmt = s.mgmt := rfl
@[simp] theorem setEring_tray (s : State) (r : Nat) (e : ERing) : (setEring s r e).tray = s.tray := rfl

@[simp] theorem setCring_pending (s : State) (r : Nat) (c : CRing) : (setCring s r c).pending = s.pending := rfl
@[simp] theorem setCring_prc (s : State) (r : Nat) (c : CRing) : (setCring s r c).prc = s.prc := rfl
@[simp] theorem setCring_fresh (s : State) (r : Nat) (c : CRing) : (setCring s r c).fresh = s.fresh := rfl
@[simp] theorem setCring_out (s : State) (r : Nat) (c : CRing) : (setCring s r c).out = s.out := rfl
@[simp] theorem setCring_spm (s : State) (r : Nat) (c : CRing) : (setCring s r c).spm = s.spm := rfl
@[simp] theorem setCring_hbm (s : State) (r : Nat) (c : CRing) : (setCring s r c).hbm = s.hbm := rfl
@[simp] theorem setCring_sram (s : State) (r : Nat) (c : CRing) : (setCring s r c).sram = s.sram := rfl
@[simp] theorem setCring_dict (s : State) (r : Nat) (c : CRing) : (setCring s r c).dict = s.dict := rfl
@[simp] theorem setCring_cores (s : State) (r : Nat) (c : CRing) : (setCring s r c).cores = s.cores := rfl
@[simp] theorem setCring_msites (s : State) (r : Nat) (c : CRing) : (setCring s r c).msites = s.msites := rfl
@[simp] theorem setCring_fab (s : State) (r : Nat) (c : CRing) : (setCring s r c).fab = s.fab := rfl
@[simp] theorem setCring_links (s : State) (r : Nat) (c : CRing) : (setCring s r c).links = s.links := rfl
@[simp] theorem setCring_clk (s : State) (r : Nat) (c : CRing) : (setCring s r c).clk = s.clk := rfl
@[simp] theorem setCring_pwr (s : State) (r : Nat) (c : CRing) : (setCring s r c).pwr = s.pwr := rfl
@[simp] theorem setCring_parts (s : State) (r : Nat) (c : CRing) : (setCring s r c).parts = s.parts := rfl
@[simp] theorem setCring_health (s : State) (r : Nat) (c : CRing) : (setCring s r c).health = s.health := rfl
@[simp] theorem setCring_mgmt (s : State) (r : Nat) (c : CRing) : (setCring s r c).mgmt = s.mgmt := rfl
@[simp] theorem setCring_tray (s : State) (r : Nat) (c : CRing) : (setCring s r c).tray = s.tray := rfl

@[simp] theorem qpPush_pending (s : State) (h : Nat) (qpn : BitVec 24) (o : OutOp) : (qpPush s h qpn o).pending = s.pending := rfl
@[simp] theorem qpPush_prc (s : State) (h : Nat) (qpn : BitVec 24) (o : OutOp) : (qpPush s h qpn o).prc = s.prc := rfl
@[simp] theorem qpPush_fresh (s : State) (h : Nat) (qpn : BitVec 24) (o : OutOp) : (qpPush s h qpn o).fresh = s.fresh := rfl
@[simp] theorem qpPush_out (s : State) (h : Nat) (qpn : BitVec 24) (o : OutOp) : (qpPush s h qpn o).out = s.out := rfl
@[simp] theorem qpPush_spm (s : State) (h : Nat) (qpn : BitVec 24) (o : OutOp) : (qpPush s h qpn o).spm = s.spm := rfl
@[simp] theorem qpPush_hbm (s : State) (h : Nat) (qpn : BitVec 24) (o : OutOp) : (qpPush s h qpn o).hbm = s.hbm := rfl
@[simp] theorem qpPush_sram (s : State) (h : Nat) (qpn : BitVec 24) (o : OutOp) : (qpPush s h qpn o).sram = s.sram := rfl
@[simp] theorem qpPush_dict (s : State) (h : Nat) (qpn : BitVec 24) (o : OutOp) : (qpPush s h qpn o).dict = s.dict := rfl
@[simp] theorem qpPush_cores (s : State) (h : Nat) (qpn : BitVec 24) (o : OutOp) : (qpPush s h qpn o).cores = s.cores := rfl
@[simp] theorem qpPush_msites (s : State) (h : Nat) (qpn : BitVec 24) (o : OutOp) : (qpPush s h qpn o).msites = s.msites := rfl
@[simp] theorem qpPush_fab (s : State) (h : Nat) (qpn : BitVec 24) (o : OutOp) : (qpPush s h qpn o).fab = s.fab := rfl
@[simp] theorem qpPush_links (s : State) (h : Nat) (qpn : BitVec 24) (o : OutOp) : (qpPush s h qpn o).links = s.links := rfl
@[simp] theorem qpPush_clk (s : State) (h : Nat) (qpn : BitVec 24) (o : OutOp) : (qpPush s h qpn o).clk = s.clk := rfl
@[simp] theorem qpPush_pwr (s : State) (h : Nat) (qpn : BitVec 24) (o : OutOp) : (qpPush s h qpn o).pwr = s.pwr := rfl
@[simp] theorem qpPush_parts (s : State) (h : Nat) (qpn : BitVec 24) (o : OutOp) : (qpPush s h qpn o).parts = s.parts := rfl
@[simp] theorem qpPush_health (s : State) (h : Nat) (qpn : BitVec 24) (o : OutOp) : (qpPush s h qpn o).health = s.health := rfl
@[simp] theorem qpPush_mgmt (s : State) (h : Nat) (qpn : BitVec 24) (o : OutOp) : (qpPush s h qpn o).mgmt = s.mgmt := rfl
@[simp] theorem qpPush_tray (s : State) (h : Nat) (qpn : BitVec 24) (o : OutOp) : (qpPush s h qpn o).tray = s.tray := rfl

@[simp] theorem setMsite_pending (s : State) (m : Nat) (x : MSite) : (setMsite s m x).pending = s.pending := rfl
@[simp] theorem setMsite_prc (s : State) (m : Nat) (x : MSite) : (setMsite s m x).prc = s.prc := rfl
@[simp] theorem setMsite_fresh (s : State) (m : Nat) (x : MSite) : (setMsite s m x).fresh = s.fresh := rfl
@[simp] theorem setMsite_out (s : State) (m : Nat) (x : MSite) : (setMsite s m x).out = s.out := rfl
@[simp] theorem setMsite_spm (s : State) (m : Nat) (x : MSite) : (setMsite s m x).spm = s.spm := rfl
@[simp] theorem setMsite_hbm (s : State) (m : Nat) (x : MSite) : (setMsite s m x).hbm = s.hbm := rfl
@[simp] theorem setMsite_sram (s : State) (m : Nat) (x : MSite) : (setMsite s m x).sram = s.sram := rfl
@[simp] theorem setMsite_dict (s : State) (m : Nat) (x : MSite) : (setMsite s m x).dict = s.dict := rfl
@[simp] theorem setMsite_cores (s : State) (m : Nat) (x : MSite) : (setMsite s m x).cores = s.cores := rfl
@[simp] theorem setMsite_fab (s : State) (m : Nat) (x : MSite) : (setMsite s m x).fab = s.fab := rfl
@[simp] theorem setMsite_links (s : State) (m : Nat) (x : MSite) : (setMsite s m x).links = s.links := rfl
@[simp] theorem setMsite_host (s : State) (m : Nat) (x : MSite) : (setMsite s m x).host = s.host := rfl
@[simp] theorem setMsite_clk (s : State) (m : Nat) (x : MSite) : (setMsite s m x).clk = s.clk := rfl
@[simp] theorem setMsite_pwr (s : State) (m : Nat) (x : MSite) : (setMsite s m x).pwr = s.pwr := rfl
@[simp] theorem setMsite_parts (s : State) (m : Nat) (x : MSite) : (setMsite s m x).parts = s.parts := rfl
@[simp] theorem setMsite_health (s : State) (m : Nat) (x : MSite) : (setMsite s m x).health = s.health := rfl
@[simp] theorem setMsite_mgmt (s : State) (m : Nat) (x : MSite) : (setMsite s m x).mgmt = s.mgmt := rfl
@[simp] theorem setMsite_tray (s : State) (m : Nat) (x : MSite) : (setMsite s m x).tray = s.tray := rfl

@[simp] theorem modMsite_pending (s : State) (m : Nat) (f : MSite → MSite) : (modMsite s m f).pending = s.pending := rfl
@[simp] theorem modMsite_prc (s : State) (m : Nat) (f : MSite → MSite) : (modMsite s m f).prc = s.prc := rfl
@[simp] theorem modMsite_fresh (s : State) (m : Nat) (f : MSite → MSite) : (modMsite s m f).fresh = s.fresh := rfl
@[simp] theorem modMsite_out (s : State) (m : Nat) (f : MSite → MSite) : (modMsite s m f).out = s.out := rfl
@[simp] theorem modMsite_spm (s : State) (m : Nat) (f : MSite → MSite) : (modMsite s m f).spm = s.spm := rfl
@[simp] theorem modMsite_hbm (s : State) (m : Nat) (f : MSite → MSite) : (modMsite s m f).hbm = s.hbm := rfl
@[simp] theorem modMsite_sram (s : State) (m : Nat) (f : MSite → MSite) : (modMsite s m f).sram = s.sram := rfl
@[simp] theorem modMsite_dict (s : State) (m : Nat) (f : MSite → MSite) : (modMsite s m f).dict = s.dict := rfl
@[simp] theorem modMsite_cores (s : State) (m : Nat) (f : MSite → MSite) : (modMsite s m f).cores = s.cores := rfl
@[simp] theorem modMsite_fab (s : State) (m : Nat) (f : MSite → MSite) : (modMsite s m f).fab = s.fab := rfl
@[simp] theorem modMsite_links (s : State) (m : Nat) (f : MSite → MSite) : (modMsite s m f).links = s.links := rfl
@[simp] theorem modMsite_host (s : State) (m : Nat) (f : MSite → MSite) : (modMsite s m f).host = s.host := rfl
@[simp] theorem modMsite_clk (s : State) (m : Nat) (f : MSite → MSite) : (modMsite s m f).clk = s.clk := rfl
@[simp] theorem modMsite_pwr (s : State) (m : Nat) (f : MSite → MSite) : (modMsite s m f).pwr = s.pwr := rfl
@[simp] theorem modMsite_parts (s : State) (m : Nat) (f : MSite → MSite) : (modMsite s m f).parts = s.parts := rfl
@[simp] theorem modMsite_health (s : State) (m : Nat) (f : MSite → MSite) : (modMsite s m f).health = s.health := rfl
@[simp] theorem modMsite_mgmt (s : State) (m : Nat) (f : MSite → MSite) : (modMsite s m f).mgmt = s.mgmt := rfl
@[simp] theorem modMsite_tray (s : State) (m : Nat) (f : MSite → MSite) : (modMsite s m f).tray = s.tray := rfl

@[simp] theorem modCmd_pending (s : State) (ring idx : Nat) (f : Cmd → Cmd) : (modCmd s ring idx f).pending = s.pending := rfl
@[simp] theorem modCmd_prc (s : State) (ring idx : Nat) (f : Cmd → Cmd) : (modCmd s ring idx f).prc = s.prc := rfl
@[simp] theorem modCmd_fresh (s : State) (ring idx : Nat) (f : Cmd → Cmd) : (modCmd s ring idx f).fresh = s.fresh := rfl
@[simp] theorem modCmd_out (s : State) (ring idx : Nat) (f : Cmd → Cmd) : (modCmd s ring idx f).out = s.out := rfl
@[simp] theorem modCmd_spm (s : State) (ring idx : Nat) (f : Cmd → Cmd) : (modCmd s ring idx f).spm = s.spm := rfl
@[simp] theorem modCmd_hbm (s : State) (ring idx : Nat) (f : Cmd → Cmd) : (modCmd s ring idx f).hbm = s.hbm := rfl
@[simp] theorem modCmd_sram (s : State) (ring idx : Nat) (f : Cmd → Cmd) : (modCmd s ring idx f).sram = s.sram := rfl
@[simp] theorem modCmd_dict (s : State) (ring idx : Nat) (f : Cmd → Cmd) : (modCmd s ring idx f).dict = s.dict := rfl
@[simp] theorem modCmd_cores (s : State) (ring idx : Nat) (f : Cmd → Cmd) : (modCmd s ring idx f).cores = s.cores := rfl
@[simp] theorem modCmd_msites (s : State) (ring idx : Nat) (f : Cmd → Cmd) : (modCmd s ring idx f).msites = s.msites := rfl
@[simp] theorem modCmd_fab (s : State) (ring idx : Nat) (f : Cmd → Cmd) : (modCmd s ring idx f).fab = s.fab := rfl
@[simp] theorem modCmd_links (s : State) (ring idx : Nat) (f : Cmd → Cmd) : (modCmd s ring idx f).links = s.links := rfl
@[simp] theorem modCmd_clk (s : State) (ring idx : Nat) (f : Cmd → Cmd) : (modCmd s ring idx f).clk = s.clk := rfl
@[simp] theorem modCmd_pwr (s : State) (ring idx : Nat) (f : Cmd → Cmd) : (modCmd s ring idx f).pwr = s.pwr := rfl
@[simp] theorem modCmd_parts (s : State) (ring idx : Nat) (f : Cmd → Cmd) : (modCmd s ring idx f).parts = s.parts := rfl
@[simp] theorem modCmd_health (s : State) (ring idx : Nat) (f : Cmd → Cmd) : (modCmd s ring idx f).health = s.health := rfl
@[simp] theorem modCmd_mgmt (s : State) (ring idx : Nat) (f : Cmd → Cmd) : (modCmd s ring idx f).mgmt = s.mgmt := rfl
@[simp] theorem modCmd_tray (s : State) (ring idx : Nat) (f : Cmd → Cmd) : (modCmd s ring idx f).tray = s.tray := rfl

@[simp] theorem waitBus_pending (s : State) (n : Nat) : (waitBus s n).pending = s.pending := rfl
@[simp] theorem waitBus_prc (s : State) (n : Nat) : (waitBus s n).prc = s.prc := rfl
@[simp] theorem waitBus_fresh (s : State) (n : Nat) : (waitBus s n).fresh = s.fresh := rfl
@[simp] theorem waitBus_out (s : State) (n : Nat) : (waitBus s n).out = s.out := rfl
@[simp] theorem waitBus_spm (s : State) (n : Nat) : (waitBus s n).spm = s.spm := rfl
@[simp] theorem waitBus_hbm (s : State) (n : Nat) : (waitBus s n).hbm = s.hbm := rfl
@[simp] theorem waitBus_sram (s : State) (n : Nat) : (waitBus s n).sram = s.sram := rfl
@[simp] theorem waitBus_dict (s : State) (n : Nat) : (waitBus s n).dict = s.dict := rfl
@[simp] theorem waitBus_cores (s : State) (n : Nat) : (waitBus s n).cores = s.cores := rfl
@[simp] theorem waitBus_msites (s : State) (n : Nat) : (waitBus s n).msites = s.msites := rfl
@[simp] theorem waitBus_fab (s : State) (n : Nat) : (waitBus s n).fab = s.fab := rfl
@[simp] theorem waitBus_links (s : State) (n : Nat) : (waitBus s n).links = s.links := rfl
@[simp] theorem waitBus_host (s : State) (n : Nat) : (waitBus s n).host = s.host := rfl
@[simp] theorem waitBus_clk (s : State) (n : Nat) : (waitBus s n).clk = s.clk := rfl
@[simp] theorem waitBus_pwr (s : State) (n : Nat) : (waitBus s n).pwr = s.pwr := rfl
@[simp] theorem waitBus_parts (s : State) (n : Nat) : (waitBus s n).parts = s.parts := rfl
@[simp] theorem waitBus_health (s : State) (n : Nat) : (waitBus s n).health = s.health := rfl
@[simp] theorem waitBus_tray (s : State) (n : Nat) : (waitBus s n).tray = s.tray := rfl
@[simp] theorem waitBus_taken (s : State) (n : Nat) : (waitBus s n).mgmt.bus.taken = s.mgmt.bus.taken := rfl
@[simp] theorem waitBus_waiting (s : State) (n : Nat) :
    (waitBus s n).mgmt.bus.waiting = n :: s.mgmt.bus.waiting.filter fun x => x != n := rfl
@[simp] theorem dget_waitBus (s : State) (n index sub : Nat) : dget (waitBus s n) index sub = dget s index sub := rfl

@[simp] theorem orderRail_pending (s : State) (site k : Nat) : (orderRail s site k).pending = s.pending := rfl
@[simp] theorem orderRail_prc (s : State) (site k : Nat) : (orderRail s site k).prc = s.prc := rfl
@[simp] theorem orderRail_fresh (s : State) (site k : Nat) : (orderRail s site k).fresh = s.fresh := rfl
@[simp] theorem orderRail_spm (s : State) (site k : Nat) : (orderRail s site k).spm = s.spm := rfl
@[simp] theorem orderRail_hbm (s : State) (site k : Nat) : (orderRail s site k).hbm = s.hbm := rfl
@[simp] theorem orderRail_sram (s : State) (site k : Nat) : (orderRail s site k).sram = s.sram := rfl
@[simp] theorem orderRail_dict (s : State) (site k : Nat) : (orderRail s site k).dict = s.dict := rfl
@[simp] theorem orderRail_cores (s : State) (site k : Nat) : (orderRail s site k).cores = s.cores := rfl
@[simp] theorem orderRail_msites (s : State) (site k : Nat) : (orderRail s site k).msites = s.msites := rfl
@[simp] theorem orderRail_fab (s : State) (site k : Nat) : (orderRail s site k).fab = s.fab := rfl
@[simp] theorem orderRail_links (s : State) (site k : Nat) : (orderRail s site k).links = s.links := rfl
@[simp] theorem orderRail_host (s : State) (site k : Nat) : (orderRail s site k).host = s.host := rfl
@[simp] theorem orderRail_clk (s : State) (site k : Nat) : (orderRail s site k).clk = s.clk := rfl
@[simp] theorem orderRail_parts (s : State) (site k : Nat) : (orderRail s site k).parts = s.parts := rfl
@[simp] theorem orderRail_health (s : State) (site k : Nat) : (orderRail s site k).health = s.health := rfl
@[simp] theorem orderRail_mgmt (s : State) (site k : Nat) : (orderRail s site k).mgmt = s.mgmt := rfl
@[simp] theorem orderRail_tray (s : State) (site k : Nat) : (orderRail s site k).tray = s.tray := rfl
@[simp] theorem orderRail_out (s : State) (site k : Nat) : (orderRail s site k).out = s.out ++ pointWrites site (rail s site)
    (Rail.order (rail s site) (railTarget s site 0) (railTarget s site k)) := rfl

@[simp] theorem setShed_pending (s : State) (site : Nat) (off : Bool) : (setShed s site off).pending = s.pending := rfl
@[simp] theorem setShed_prc (s : State) (site : Nat) (off : Bool) : (setShed s site off).prc = s.prc := rfl
@[simp] theorem setShed_fresh (s : State) (site : Nat) (off : Bool) : (setShed s site off).fresh = s.fresh := rfl
@[simp] theorem setShed_spm (s : State) (site : Nat) (off : Bool) : (setShed s site off).spm = s.spm := rfl
@[simp] theorem setShed_hbm (s : State) (site : Nat) (off : Bool) : (setShed s site off).hbm = s.hbm := rfl
@[simp] theorem setShed_sram (s : State) (site : Nat) (off : Bool) : (setShed s site off).sram = s.sram := rfl
@[simp] theorem setShed_dict (s : State) (site : Nat) (off : Bool) : (setShed s site off).dict = s.dict := rfl
@[simp] theorem setShed_cores (s : State) (site : Nat) (off : Bool) : (setShed s site off).cores = s.cores := rfl
@[simp] theorem setShed_msites (s : State) (site : Nat) (off : Bool) : (setShed s site off).msites = s.msites := rfl
@[simp] theorem setShed_fab (s : State) (site : Nat) (off : Bool) : (setShed s site off).fab = s.fab := rfl
@[simp] theorem setShed_links (s : State) (site : Nat) (off : Bool) : (setShed s site off).links = s.links := rfl
@[simp] theorem setShed_host (s : State) (site : Nat) (off : Bool) : (setShed s site off).host = s.host := rfl
@[simp] theorem setShed_clk (s : State) (site : Nat) (off : Bool) : (setShed s site off).clk = s.clk := rfl
@[simp] theorem setShed_parts (s : State) (site : Nat) (off : Bool) : (setShed s site off).parts = s.parts := rfl
@[simp] theorem setShed_health (s : State) (site : Nat) (off : Bool) : (setShed s site off).health = s.health := rfl
@[simp] theorem setShed_mgmt (s : State) (site : Nat) (off : Bool) : (setShed s site off).mgmt = s.mgmt := rfl
@[simp] theorem setShed_tray (s : State) (site : Nat) (off : Bool) : (setShed s site off).tray = s.tray := rfl
@[simp] theorem setShed_out (s : State) (site : Nat) (off : Bool) :
    (setShed s site off).out = s.out ++ [toModule site 0xD0 (boolBit off)] := rfl

@[simp] theorem abandon_pending (s : State) (ep : Nat) : (abandon s ep).pending = s.pending := rfl
@[simp] theorem abandon_prc (s : State) (ep : Nat) : (abandon s ep).prc = s.prc := rfl
@[simp] theorem abandon_fresh (s : State) (ep : Nat) : (abandon s ep).fresh = s.fresh := rfl
@[simp] theorem abandon_out (s : State) (ep : Nat) : (abandon s ep).out = s.out := rfl
@[simp] theorem abandon_spm (s : State) (ep : Nat) : (abandon s ep).spm = s.spm := rfl
@[simp] theorem abandon_hbm (s : State) (ep : Nat) : (abandon s ep).hbm = s.hbm := rfl
@[simp] theorem abandon_sram (s : State) (ep : Nat) : (abandon s ep).sram = s.sram := rfl
@[simp] theorem abandon_dict (s : State) (ep : Nat) : (abandon s ep).dict = s.dict := rfl
@[simp] theorem abandon_cores (s : State) (ep : Nat) : (abandon s ep).cores = s.cores := rfl
@[simp] theorem abandon_msites (s : State) (ep : Nat) : (abandon s ep).msites = s.msites := rfl
@[simp] theorem abandon_links (s : State) (ep : Nat) : (abandon s ep).links = s.links := rfl
@[simp] theorem abandon_host (s : State) (ep : Nat) : (abandon s ep).host = s.host := rfl
@[simp] theorem abandon_clk (s : State) (ep : Nat) : (abandon s ep).clk = s.clk := rfl
@[simp] theorem abandon_pwr (s : State) (ep : Nat) : (abandon s ep).pwr = s.pwr := rfl
@[simp] theorem abandon_parts (s : State) (ep : Nat) : (abandon s ep).parts = s.parts := rfl
@[simp] theorem abandon_health (s : State) (ep : Nat) : (abandon s ep).health = s.health := rfl
@[simp] theorem abandon_mgmt (s : State) (ep : Nat) : (abandon s ep).mgmt = s.mgmt := rfl
@[simp] theorem abandon_tray (s : State) (ep : Nat) : (abandon s ep).tray = s.tray := rfl
@[simp] theorem abandon_net (s : State) (ep : Nat) : (abandon s ep).fab.net = s.fab.net := rfl
@[simp] theorem abandon_msgs (s : State) (ep : Nat) :
    (abandon s ep).fab.msgs = s.fab.msgs.filter fun m => m.ep.toNat != ep := rfl

@[simp] theorem modMsg_pending (s : State) (ep tag : Nat) (f : Msg → Msg) : (modMsg s ep tag f).pending = s.pending := rfl
@[simp] theorem modMsg_prc (s : State) (ep tag : Nat) (f : Msg → Msg) : (modMsg s ep tag f).prc = s.prc := rfl
@[simp] theorem modMsg_fresh (s : State) (ep tag : Nat) (f : Msg → Msg) : (modMsg s ep tag f).fresh = s.fresh := rfl
@[simp] theorem modMsg_out (s : State) (ep tag : Nat) (f : Msg → Msg) : (modMsg s ep tag f).out = s.out := rfl
@[simp] theorem modMsg_spm (s : State) (ep tag : Nat) (f : Msg → Msg) : (modMsg s ep tag f).spm = s.spm := rfl
@[simp] theorem modMsg_hbm (s : State) (ep tag : Nat) (f : Msg → Msg) : (modMsg s ep tag f).hbm = s.hbm := rfl
@[simp] theorem modMsg_sram (s : State) (ep tag : Nat) (f : Msg → Msg) : (modMsg s ep tag f).sram = s.sram := rfl
@[simp] theorem modMsg_dict (s : State) (ep tag : Nat) (f : Msg → Msg) : (modMsg s ep tag f).dict = s.dict := rfl
@[simp] theorem modMsg_cores (s : State) (ep tag : Nat) (f : Msg → Msg) : (modMsg s ep tag f).cores = s.cores := rfl
@[simp] theorem modMsg_msites (s : State) (ep tag : Nat) (f : Msg → Msg) : (modMsg s ep tag f).msites = s.msites := rfl
@[simp] theorem modMsg_links (s : State) (ep tag : Nat) (f : Msg → Msg) : (modMsg s ep tag f).links = s.links := rfl
@[simp] theorem modMsg_host (s : State) (ep tag : Nat) (f : Msg → Msg) : (modMsg s ep tag f).host = s.host := rfl
@[simp] theorem modMsg_clk (s : State) (ep tag : Nat) (f : Msg → Msg) : (modMsg s ep tag f).clk = s.clk := rfl
@[simp] theorem modMsg_pwr (s : State) (ep tag : Nat) (f : Msg → Msg) : (modMsg s ep tag f).pwr = s.pwr := rfl
@[simp] theorem modMsg_parts (s : State) (ep tag : Nat) (f : Msg → Msg) : (modMsg s ep tag f).parts = s.parts := rfl
@[simp] theorem modMsg_health (s : State) (ep tag : Nat) (f : Msg → Msg) : (modMsg s ep tag f).health = s.health := rfl
@[simp] theorem modMsg_mgmt (s : State) (ep tag : Nat) (f : Msg → Msg) : (modMsg s ep tag f).mgmt = s.mgmt := rfl
@[simp] theorem modMsg_tray (s : State) (ep tag : Nat) (f : Msg → Msg) : (modMsg s ep tag f).tray = s.tray := rfl

@[simp] theorem closeMsg_pending (s : State) (ep tag : Nat) (failed : Bool) : (closeMsg s ep tag failed).pending = s.pending := rfl
@[simp] theorem closeMsg_prc (s : State) (ep tag : Nat) (failed : Bool) : (closeMsg s ep tag failed).prc = s.prc := rfl
@[simp] theorem closeMsg_fresh (s : State) (ep tag : Nat) (failed : Bool) : (closeMsg s ep tag failed).fresh = s.fresh := rfl
@[simp] theorem closeMsg_out (s : State) (ep tag : Nat) (failed : Bool) : (closeMsg s ep tag failed).out = s.out := rfl
@[simp] theorem closeMsg_spm (s : State) (ep tag : Nat) (failed : Bool) : (closeMsg s ep tag failed).spm = s.spm := rfl
@[simp] theorem closeMsg_hbm (s : State) (ep tag : Nat) (failed : Bool) : (closeMsg s ep tag failed).hbm = s.hbm := rfl
@[simp] theorem closeMsg_sram (s : State) (ep tag : Nat) (failed : Bool) : (closeMsg s ep tag failed).sram = s.sram := rfl
@[simp] theorem closeMsg_dict (s : State) (ep tag : Nat) (failed : Bool) : (closeMsg s ep tag failed).dict = s.dict := rfl
@[simp] theorem closeMsg_cores (s : State) (ep tag : Nat) (failed : Bool) : (closeMsg s ep tag failed).cores = s.cores := rfl
@[simp] theorem closeMsg_msites (s : State) (ep tag : Nat) (failed : Bool) : (closeMsg s ep tag failed).msites = s.msites := rfl
@[simp] theorem closeMsg_links (s : State) (ep tag : Nat) (failed : Bool) : (closeMsg s ep tag failed).links = s.links := rfl
@[simp] theorem closeMsg_host (s : State) (ep tag : Nat) (failed : Bool) : (closeMsg s ep tag failed).host = s.host := rfl
@[simp] theorem closeMsg_clk (s : State) (ep tag : Nat) (failed : Bool) : (closeMsg s ep tag failed).clk = s.clk := rfl
@[simp] theorem closeMsg_pwr (s : State) (ep tag : Nat) (failed : Bool) : (closeMsg s ep tag failed).pwr = s.pwr := rfl
@[simp] theorem closeMsg_parts (s : State) (ep tag : Nat) (failed : Bool) : (closeMsg s ep tag failed).parts = s.parts := rfl
@[simp] theorem closeMsg_health (s : State) (ep tag : Nat) (failed : Bool) : (closeMsg s ep tag failed).health = s.health := rfl
@[simp] theorem closeMsg_mgmt (s : State) (ep tag : Nat) (failed : Bool) : (closeMsg s ep tag failed).mgmt = s.mgmt := rfl
@[simp] theorem closeMsg_tray (s : State) (ep tag : Nat) (failed : Bool) : (closeMsg s ep tag failed).tray = s.tray := rfl

@[simp] theorem inject_pending (s : State) (x : Cell) : (inject s x).pending = s.pending := rfl
@[simp] theorem inject_prc (s : State) (x : Cell) : (inject s x).prc = s.prc := rfl
@[simp] theorem inject_fresh (s : State) (x : Cell) : (inject s x).fresh = s.fresh := rfl
@[simp] theorem inject_out (s : State) (x : Cell) : (inject s x).out = s.out := rfl
@[simp] theorem inject_spm (s : State) (x : Cell) : (inject s x).spm = s.spm := rfl
@[simp] theorem inject_hbm (s : State) (x : Cell) : (inject s x).hbm = s.hbm := rfl
@[simp] theorem inject_sram (s : State) (x : Cell) : (inject s x).sram = s.sram := rfl
@[simp] theorem inject_dict (s : State) (x : Cell) : (inject s x).dict = s.dict := rfl
@[simp] theorem inject_cores (s : State) (x : Cell) : (inject s x).cores = s.cores := rfl
@[simp] theorem inject_msites (s : State) (x : Cell) : (inject s x).msites = s.msites := rfl
@[simp] theorem inject_links (s : State) (x : Cell) : (inject s x).links = s.links := rfl
@[simp] theorem inject_host (s : State) (x : Cell) : (inject s x).host = s.host := rfl
@[simp] theorem inject_clk (s : State) (x : Cell) : (inject s x).clk = s.clk := rfl
@[simp] theorem inject_pwr (s : State) (x : Cell) : (inject s x).pwr = s.pwr := rfl
@[simp] theorem inject_parts (s : State) (x : Cell) : (inject s x).parts = s.parts := rfl
@[simp] theorem inject_health (s : State) (x : Cell) : (inject s x).health = s.health := rfl
@[simp] theorem inject_mgmt (s : State) (x : Cell) : (inject s x).mgmt = s.mgmt := rfl
@[simp] theorem inject_tray (s : State) (x : Cell) : (inject s x).tray = s.tray := rfl

/-! ## Where the updates act -/

@[simp] theorem setCore_cores (s : State) (c : Nat) (k : Core) : (setCore s c k).cores = aput c k s.cores := rfl

@[simp] theorem modCore_eq (s : State) (c : Nat) (f : Core → Core) : modCore s c f = setCore s c (f (core s c)) := rfl

@[simp] theorem dset_dict (s : State) (index sub v : Nat) :
    (dset s index sub v).dict = aput (cairnSlot index sub) v s.dict := rfl

@[simp] theorem emit_out (s : State) (o : Out) : (emit s o).out = s.out ++ [o] := rfl

@[simp] theorem setMsite_msites (s : State) (m : Nat) (x : MSite) : (setMsite s m x).msites = aput m x s.msites := rfl

@[simp] theorem inject_msgs (s : State) (x : Cell) : (inject s x).fab.msgs = s.fab.msgs := rfl

/-! ## A core after an update -/

@[simp] theorem core_setCore_same (s : State) (c : Nat) (k : Core) : core (setCore s c k) c = k := by
  simp [core]

theorem core_setCore_other (s : State) {c d : Nat} (k : Core) (h : d ≠ c) : core (setCore s c k) d = core s d := by
  simp [core, agetD_aput_other h]

theorem core_of_cores {s t : State} (h : t.cores = s.cores) (c : Nat) : core t c = core s c := by simp [core, h]

@[simp] theorem core_dset (s : State) (index sub v c : Nat) : core (dset s index sub v) c = core s c := rfl

@[simp] theorem core_emit (s : State) (o : Out) (c : Nat) : core (emit s o) c = core s c := rfl

@[simp] theorem core_setEring (s : State) (r : Nat) (e : ERing) (c : Nat) : core (setEring s r e) c = core s c := rfl

@[simp] theorem core_setMsite (s : State) (m : Nat) (x : MSite) (c : Nat) : core (setMsite s m x) c = core s c := rfl

/-- Scalar register n after a write to rd: s0 stays zero (R67). -/
theorem sreg_setSreg (k : Core) (rd : Nat) (v : Word) (n : Nat) :
    (k.setSreg rd v).sreg n = if n = rd ∧ n ≠ 0 then v else k.sreg n := by
  by_cases h0 : rd = 0
  · subst h0
    have : ¬ (n = 0 ∧ n ≠ 0) := by omega
    simp [Core.setSreg, this]
  · by_cases hn : n = 0
    · subst hn; simp [Core.sreg]
    · by_cases hr : n = rd
      · subst hr; simp [Core.setSreg, Core.sreg, hn]
      · simp [Core.setSreg, Core.sreg, h0, hn, hr, agetD_aput_other hr]

/-- A stored value of the dictionary reads back. -/
@[simp] theorem dget_dset_same (s : State) (index sub v : Nat) : dget (dset s index sub v) index sub = v := by
  simp [dget]

theorem dget_dset_other (s : State) {i j k l : Nat} (v : Nat) (h : cairnSlot k l ≠ cairnSlot i j) :
    dget (dset s i j v) k l = dget s k l := by
  simp [dget, aget_aput_other h]

/-- A memory site after an update. -/
@[simp] theorem msite_setMsite_same (s : State) (m : Nat) (x : MSite) : msite (setMsite s m x) m = x := by
  simp [msite]

theorem msite_setMsite_other (s : State) {m n : Nat} (x : MSite) (h : n ≠ m) : msite (setMsite s m x) n = msite s n := by
  simp [msite, agetD_aput_other h]

end Sys2Proof.Machine
end

