-- ==== Sys2Proof/Laws/Ops.lean ====
section
/-!
SUPPORT. Ops.lean: what the shared operations of Machine/Ops.lean can do: an event touches the logs, the event rings, the
ports and a counter of the dictionary, and nothing else.
-/
namespace Sys2Proof.Machine

open Sys2Proof

theorem OnlyEvents.refl (s : State) : OnlyEvents s s := rfl

theorem OnlyEvents.trans {s t u : State} (h : OnlyEvents s t) (g : OnlyEvents t u) : OnlyEvents s u := by
  unfold OnlyEvents at *
  rw [g, h]

theorem OnlyEvents.foldl {α : Type} (f : State → α → State) (hf : ∀ s a, OnlyEvents s (f s a)) (l : List α) (s : State) :
    OnlyEvents s (l.foldl f s) := by
  induction l generalizing s with
  | nil => exact .refl s
  | cons a l ih => exact (hf s a).trans (ih _)

theorem onlyEvents_dset (s : State) (i j v : Nat) : OnlyEvents s (dset s i j v) := rfl

theorem onlyEvents_emit (s : State) (o : Out) : OnlyEvents s (emit s o) := rfl

theorem onlyEvents_setEring (s : State) (r : Nat) (e : ERing) : OnlyEvents s (setEring s r e) := rfl

theorem onlyEvents_qpPush (s : State) (h : Nat) (q : BitVec 24) (o : OutOp) : OnlyEvents s (qpPush s h q o) := rfl

theorem onlyEvents_dbump (s : State) (i j hi lo : Nat) : OnlyEvents s (dbump s i j hi lo) := by
  simp only [dbump]; split
  · exact onlyEvents_dset ..
  · exact .refl s

/-- The log part of an event. -/
theorem onlyEvents_log (s : State) (l k : List Ev) (a b n : Nat) :
    OnlyEvents s { s with mgmt := { s.mgmt with log := l, logNext := a, kept := k, keepNext := b, keptBoot := n } } := rfl

theorem onlyEvents_logEv (s : State) (e : Ev) : OnlyEvents s (logEv s e) := by
  unfold logEv
  dsimp only
  generalize (keptCodes.contains e.code && !e.drill) = b
  cases b
  · exact onlyEvents_log s _ _ _ _ _
  · simp only [if_true]
    split
    · exact (onlyEvents_log s _ _ _ _ _).trans (onlyEvents_log _ _ _ _ _ _)
    · exact (onlyEvents_log s _ _ _ _ _).trans (onlyEvents_dbump ..)

theorem onlyEvents_eringSend (s : State) (r : Nat) (i : Word) (e : Ev) : OnlyEvents s (eringSend s r i e) := by
  simp only [eringSend]
  exact .trans (onlyEvents_emit ..) (onlyEvents_qpPush ..)

theorem onlyEvents_eringWrite (s : State) (r : Nat) (e : Ev) : OnlyEvents s (eringWrite s r e) := by
  simp only [eringWrite]
  exact .trans (onlyEvents_eringSend ..) (onlyEvents_setEring ..)

theorem onlyEvents_eringPut (s : State) (r : Nat) (e : Ev) : OnlyEvents s (eringPut s r e) := by
  simp only [eringPut]; split
  · exact onlyEvents_eringWrite ..
  · exact onlyEvents_setEring ..

theorem onlyEvents_eringFlush (n : Nat) (s : State) (r : Nat) : OnlyEvents s (eringFlush n s r) := by
  induction n generalizing s with
  | zero => exact .refl s
  | succ n ih =>
    simp only [eringFlush]
    split
    · split
      · exact .trans (.trans (onlyEvents_setEring ..) (onlyEvents_eringWrite ..)) (ih _)
      · split
        · exact .trans (onlyEvents_logEv s _) (.trans (onlyEvents_setEring _ r _) (onlyEvents_eringWrite ..))
        · exact .refl s
    · exact .refl s

theorem onlyEvents_eringAsync (s : State) (r : Nat) (e : Ev) : OnlyEvents s (eringAsync s r e) := by
  simp only [eringAsync]; split
  · exact onlyEvents_eringPut ..
  · exact onlyEvents_setEring ..

/-- An event changes logs, rings, ports and a counter alone (R327, R489). -/
theorem onlyEvents_raiseEv (s : State) (e : Ev) : OnlyEvents s (raiseEv s e) := by
  simp only [raiseEv]
  refine .trans (onlyEvents_logEv s e) (.foldl _ (fun t r => ?_) _ _)
  split
  · exact onlyEvents_eringAsync ..
  · exact .refl t

theorem onlyEvents_raise (s : State) (code part : Nat) (p : BitVec 128) : OnlyEvents s (raise s code part p) :=
  onlyEvents_raiseEv ..

theorem onlyEvents_raiseD (s : State) (d : Bool) (code part : Nat) (p : BitVec 128) : OnlyEvents s (raiseD s d code part p) :=
  onlyEvents_raiseEv ..

theorem onlyEvents_raiseCore (s : State) (c code : Nat) (p : BitVec 128) : OnlyEvents s (raiseCore s c code p) :=
  onlyEvents_raise ..

theorem onlyEvents_raiseCoreD (s : State) (d : Bool) (c code : Nat) (p : BitVec 128) :
    OnlyEvents s (raiseCoreD s d c code p) :=
  onlyEvents_raiseD ..

theorem onlyEvents_raiseRing (s : State) (c n code : Nat) (p : BitVec 128) : OnlyEvents s (raiseRing s c n code p) :=
  onlyEvents_raise ..

section
variable {s t : State} (h : OnlyEvents s t)
include h

theorem OnlyEvents.cores : t.cores = s.cores := by rw [h]
theorem OnlyEvents.core (c : Nat) : Machine.core t c = Machine.core s c := core_of_cores h.cores c
theorem OnlyEvents.pending : t.pending = s.pending := by rw [h]
theorem OnlyEvents.prc : t.prc = s.prc := by rw [h]
theorem OnlyEvents.fresh : t.fresh = s.fresh := by rw [h]
theorem OnlyEvents.spm : t.spm = s.spm := by rw [h]
theorem OnlyEvents.hbm : t.hbm = s.hbm := by rw [h]
theorem OnlyEvents.sram : t.sram = s.sram := by rw [h]
theorem OnlyEvents.msites : t.msites = s.msites := by rw [h]
theorem OnlyEvents.fab : t.fab = s.fab := by rw [h]
theorem OnlyEvents.links : t.links = s.links := by rw [h]
theorem OnlyEvents.clk : t.clk = s.clk := by rw [h]
theorem OnlyEvents.pwr : t.pwr = s.pwr := by rw [h]
theorem OnlyEvents.parts : t.parts = s.parts := by rw [h]
theorem OnlyEvents.health : t.health = s.health := by rw [h]
theorem OnlyEvents.tray : t.tray = s.tray := by rw [h]

end

end Sys2Proof.Machine
end

