-- ==== Sys2Proof/Laws/Dispatch.lean ====
section
/-!
SUPPORT. Dispatch.lean: what the dispatch of one instruction does: on a ready core with nothing in the way it runs the
instruction's act, a failing check stops the task, and a condition of Table 3.2 costs a stall cycle.
-/
namespace Sys2Proof.Machine

open Sys2Proof

@[simp] theorem fetch_sregs (k : Core) : k.fetch.sregs = k.sregs := by unfold Core.fetch; split <;> rfl
@[simp] theorem fetch_sreg (k : Core) (n : Nat) : k.fetch.sreg n = k.sreg n := by simp [Core.sreg]
@[simp] theorem fetch_pc (k : Core) : k.fetch.pc = k.pc := by unfold Core.fetch; split <;> rfl
@[simp] theorem fetch_hold (k : Core) : k.fetch.hold = k.hold := by unfold Core.fetch; split <;> rfl
@[simp] theorem fetch_sb (k : Core) : k.fetch.sb = k.sb := by unfold Core.fetch; split <;> rfl
@[simp] theorem fetch_bypass (k : Core) : k.fetch.bypass = k.bypass := by unfold Core.fetch; split <;> rfl
@[simp] theorem fetch_st (k : Core) : k.fetch.st = k.st := by unfold Core.fetch; split <;> rfl
@[simp] theorem fetch_status (k : Core) : k.fetch.status = k.status := by unfold Core.fetch; split <;> rfl
@[simp] theorem fetch_partStop (k : Core) : k.fetch.partStop = k.partStop := by unfold Core.fetch; split <;> rfl
@[simp] theorem fetch_evc (k : Core) : k.fetch.evc = k.evc := by unfold Core.fetch; split <;> rfl
@[simp] theorem fetch_ev (k : Core) (n : Nat) : k.fetch.ev n = k.ev n := by simp [Core.ev]
@[simp] theorem fetch_rings (k : Core) : k.fetch.rings = k.rings := by unfold Core.fetch; split <;> rfl
@[simp] theorem fetch_mat (k : Core) : k.fetch.mat = k.mat := by unfold Core.fetch; split <;> rfl
@[simp] theorem fetch_vec (k : Core) : k.fetch.vec = k.vec := by unfold Core.fetch; split <;> rfl
@[simp] theorem fetch_movq (k : Core) : k.fetch.movq = k.movq := by unfold Core.fetch; split <;> rfl
@[simp] theorem fetch_serial (k : Core) : k.fetch.serial = k.serial := by unfold Core.fetch; split <;> rfl
@[simp] theorem fetch_paired (k : Core) : k.fetch.paired = k.paired := by unfold Core.fetch; split <;> rfl

/-- The fetch of a line changes the instruction buffer alone (R69). -/
theorem fetch_eq (k : Core) : k.fetch = { k with ibuf := k.fetch.ibuf } := by unfold Core.fetch; split <;> rfl

@[simp] theorem advance_sregs (k : Core) (p : Nat) : (k.advance p).sregs = k.sregs := rfl
@[simp] theorem advance_sreg (k : Core) (p n : Nat) : (k.advance p).sreg n = k.sreg n := rfl
@[simp] theorem advance_pc (k : Core) (p : Nat) : (k.advance p).pc = p := rfl
@[simp] theorem advance_sb (k : Core) (p : Nat) : (k.advance p).sb = k.sb := rfl
@[simp] theorem advance_evc (k : Core) (p : Nat) : (k.advance p).evc = k.evc := rfl

@[simp] theorem setSreg_pc (k : Core) (r : Nat) (v : Word) : (k.setSreg r v).pc = k.pc := by
  unfold Core.setSreg; split <;> rfl

/-- A write to a scalar register changes the registers alone. -/
theorem setSreg_eq (k : Core) (r : Nat) (v : Word) : k.setSreg r v = { k with sregs := (k.setSreg r v).sregs } := by
  unfold Core.setSreg; split <;> rfl

/-- An instruction without ranges is held by no row of Table 3.2. -/
theorem holdRow_nil (k : Core) : (holdRow k [] false).1 = 0 := by
  have : leastRow [] = 0 := rfl
  simp [holdRow, declared, ringWaits, conflicts, this]

/-- A ready core with nothing in the way runs the act of the instruction (R76). -/
theorem dispatch_ready {s : State} {c unit : Nat} {sync : Bool} {check : Core → Check} {ranges : Core → List Range}
    {wait : Core → Nat} {queueFull : Core → Bool} {act : State → State} (h : Ready s c)
    (hs : sync = true → (core s c).partStop = false) (hc : check (core s c).fetch = .pass)
    (hr : (holdRow (core s c).fetch (ranges (core s c).fetch) (queueFull (core s c).fetch)).1 = 0)
    (hw : wait (core s c).fetch = 0) :
    dispatch s c unit sync check ranges wait queueFull act = act (setCore s c (core s c).fetch) := by
  obtain ⟨h1, h2, h3⟩ := h
  have h4 : ¬ (core s c).fetch.pc ≥ spmSize := by simpa using h2
  have h5 : (core s c).fetch.hold = .none ∨ (core s c).fetch.hold = .wait := by simpa using h3
  have h6 : (sync && (core s c).fetch.partStop) = false := by cases sync <;> simp_all
  simp only [dispatch, h1, if_true]
  rcases h5 with h5 | h5 <;> simp [h5, h4, h6, hc, hr, hw, -fetch_hold, -fetch_pc, -fetch_partStop]

/-- A ready core stops on a word that fails a check (R119). -/
theorem dispatch_fails {s : State} {c unit : Nat} {check : Core → Check} {ranges : Core → List Range}
    {wait : Core → Nat} {queueFull : Core → Bool} {act : State → State} (h : Ready s c)
    (hc : check (core s c).fetch ≠ .pass) :
    dispatch s c unit false check ranges wait queueFull act =
      failCheck (setCore s c (core s c).fetch) c unit (check (core s c).fetch) := by
  obtain ⟨h1, h2, h3⟩ := h
  have h4 : ¬ (core s c).fetch.pc ≥ spmSize := by simpa using h2
  have h5 : (core s c).fetch.hold = .none ∨ (core s c).fetch.hold = .wait := by simpa using h3
  simp only [dispatch, h1, if_true]
  rcases h5 with h5 | h5 <;> simp [h5, h4, hc, -fetch_hold, -fetch_pc, -fetch_partStop]

/-- An act that changes one core leaves the rest of the panel. -/
theorem onlyCore_setCore2 (s : State) (c : Nat) (k k' : Core) : OnlyCore s (setCore (setCore s c k) c k') c := by
  refine ⟨rfl, fun d hd => ?_⟩
  rw [core_setCore_other _ _ hd, core_setCore_other _ _ hd]

/-- A dispatched instruction that writes one register keeps the rest of the core. -/
theorem seqFrame_setSreg {k : Core} (hh : k.hold = .none ∨ k.hold = .wait) (p r : Nat) (v : Word) :
    SeqFrame k ((k.fetch.setSreg r v).advance p) := by
  unfold SeqFrame
  rw [setSreg_eq, fetch_eq]
  rcases hh with hh | hh <;> simp [Core.advance, hh]

/-- A dispatched instruction that writes no register keeps the rest of the core. -/
theorem seqFrame_advance {k : Core} (hh : k.hold = .none ∨ k.hold = .wait) (p : Nat) :
    SeqFrame k (k.fetch.advance p) := by
  unfold SeqFrame
  rw [fetch_eq]
  rcases hh with hh | hh <;> simp [Core.advance, hh]

/-- A control word without ranges, on a ready core. -/
theorem ctlDispatch_ready {s : State} {c : Nat} {check : Core → Check} {act : Core → Core} (h : Ready s c)
    (hc : check (core s c).fetch = .pass) :
    ctlDispatch s c check act = setCore (setCore s c (core s c).fetch) c (act (core s c).fetch) := by
  unfold ctlDispatch
  rw [dispatch_ready h (by simp) hc (holdRow_nil _) rfl]
  simp

/-- What a core looks like after a word that is an illegal instruction (R106, R119). -/
structure StoppedIllegal (s t : State) (c : Nat) : Prop where
  st : (core t c).st = .drain
  pc : (core t c).pc = (core s c).pc
  regs : KeepsRegs (core s c) (core t c)
  status : (core t c).status = some ((core s c).status.getD 7)
  spm : t.spm = s.spm
  hbm : t.hbm = s.hbm
  sram : t.sram = s.sram

theorem ready_run {s : State} {c : Nat} (h : Ready s c) : (core s c).st = .run := by
  have := h.1
  simp only [coreRuns, Bool.and_eq_true, beq_iff_eq] at this
  exact this.1

/-- Check 1 to 5 stops the task with the illegal-instruction status and touches no register and no memory (Table 4.3). -/
theorem failCheck_illegal {s : State} {c unit : Nat} (h : (core s c).st = .run) :
    StoppedIllegal s (failCheck s c unit .illegal) c := by
  have e := onlyEvents_raiseCore s c 0x0102 (pf 32 20 (core s c).pc)
  have hf : failCheck s c unit .illegal =
      faultStop (raiseCore s c 0x0102 (pf 32 20 (core s c).pc)) c 7 unit 0 (core s c).pc := rfl
  rw [hf]
  generalize raiseCore s c 0x0102 (pf 32 20 (core s c).pc) = u at e ⊢
  have hu := e.core c
  simp only [faultStop, hu, h, true_or, if_true]
  constructor
  · simp
  · rw [core_setCore_same]; split <;> rfl
  · intro n; rw [core_setCore_same]; split <;> rfl
  · rw [core_setCore_same]; split <;> rfl
  · exact e.spm
  · exact e.hbm
  · exact e.sram

theorem dispatch_illegal {s : State} {c unit : Nat} {check : Core → Check} {ranges : Core → List Range}
    {wait : Core → Nat} {queueFull : Core → Bool} {act : State → State} (h : Ready s c)
    (hc : check (core s c).fetch = .illegal) :
    StoppedIllegal s (dispatch s c unit false check ranges wait queueFull act) c := by
  rw [dispatch_fails h (by simp [hc]), hc]
  have := failCheck_illegal (s := setCore s c (core s c).fetch) (c := c) (unit := unit) (by simpa using ready_run h)
  obtain ⟨h1, h2, h3, h4, h5, h6, h7⟩ := this
  simp only [core_setCore_same, fetch_pc, fetch_status, setCore_spm, setCore_hbm, setCore_sram, KeepsRegs, fetch_sreg] at *
  exact ⟨h1, h2, h3, h4, h5, h6, h7⟩

/-- The ranges of one aligned access of at most a line are one line of the scoreboard. -/
theorem declared_one (w : Bool) (a n : Nat) :
    declared [⟨w, [(a, n)], none, n⟩] = [⟨w, a / 64, (a + n - 1) / 64, [0]⟩] := rfl

theorem leastRow_zero {l : List Nat} (h : ∀ r ∈ l, r = 0) : leastRow l = 0 := by
  induction l with
  | nil => rfl
  | cons a l ih =>
    have h1 : a = 0 := h a (by simp)
    subst h1
    simp [leastRow, ih fun r hr => h r (by simp [hr])]

/-- Nothing holds a read that no unretired write range overlaps (Table 3.2). -/
theorem holdRow_read {k : Core} {a n : Nat} (h : FreeToRead k a n) :
    (holdRow k [⟨false, [(a, n)], none, n⟩] false).1 = 0 := by
  have hc : conflicts k [⟨false, a / 64, (a + n - 1) / 64, [0]⟩] = 0 := by
    refine leastRow_zero fun r hr => ?_
    simp only [List.flatMap_cons, List.flatMap_nil, List.append_nil, List.mem_map] at hr
    obtain ⟨e, he, rfl⟩ := hr
    have := h.2 e he
    unfold conflictRow
    split
    · rfl
    · rename_i hd
      cases hw : e.2.write
      · simp
      · exfalso
        rcases this hw with g | g <;> simp [g] at hd
  have hl : ¬ (32 - k.sb.length < 1) := by have := h.1; omega
  simp [holdRow, declared_one, hc, ringWaits, ringWait, hl]

/-- Nothing holds a write that no unretired range overlaps (Table 3.2). -/
theorem holdRow_write {k : Core} {a n : Nat} (h : FreeToWrite k a n) :
    (holdRow k [⟨true, [(a, n)], none, n⟩] false).1 = 0 := by
  have hc : conflicts k [⟨true, a / 64, (a + n - 1) / 64, [0]⟩] = 0 := by
    refine leastRow_zero fun r hr => ?_
    simp only [List.flatMap_cons, List.flatMap_nil, List.append_nil, List.mem_map] at hr
    obtain ⟨e, he, rfl⟩ := hr
    have := h.2 e he
    unfold conflictRow
    split
    · rfl
    · rename_i hd
      exfalso
      rcases this with g | g <;> simp [g] at hd
  have hl : ¬ (32 - k.sb.length < 1) := by have := h.1; omega
  simp [holdRow, declared_one, hc, ringWaits, ringWait, hl]

end Sys2Proof.Machine
end

