-- ==== Sys2Proof/WellFormed.lean ====
section
/-!
DEFINITION. WellFormed.lean: which commands are well formed: lists have the lengths that the spec's records, cells and
measurements have. The machine gives every command a meaning, well formed or not.
-/
namespace Sys2Proof

/-- A cell carries 1 to 48 payload bytes (R187, Table 6.1). -/
def Cell.wf (x : Cell) : Bool := decide (x.payload.length ≤ 48) && decide (1 ≤ x.lb.toNat) && decide (x.lb.toNat ≤ 48)

/-- A codeword brings 640 bytes of the cell stream (R267). -/
def Codeword.wf (w : Codeword) : Bool := w.stream.length == 640

/-- What a full reset finds names cell-die positions 0 to 8, and each revision under a code of Table 14.7 (R20, R454). -/
def BootObs.wf (o : BootObs) : Bool :=
  (o.badCores.all fun p => decide (p.toNat % 16 < 9))
    && o.revisions.all fun r => decide (0x11 ≤ r.1.toNat) && decide (r.1.toNat ≤ 0x16)

/-- A physical core id of a position that exists (R20). -/
def pcidWf (p : BitVec 14) : Bool := decide (p.toNat < 224 * 64) && decide (p.toNat % 16 < 9)

/-- A hello's nonce is 32 bytes long (R461). -/
def HelloMsg.wf (m : HelloMsg) : Bool := m.nonce.length == 32

/-- A well-formed command. -/
def Instr.wf : Instr → Bool
  | .cellExit _ x | .cellEntry _ x | .mwrite _ x | .cellRoute _ _ x _
  | .read x _ | .write x | .contrib x | .creditRequest x | .signal x | .regRead x | .regWrite x
  | .readData x | .regData x | .writeAck x | .creditGrant x
  | .busy x | .coreAbsent x | .resetNack x | .addressErrorResponse x => x.wf
  | .codewordReceive _ w => w.wf
  | .congestionWindowEnd _ occ => occ.length == 8
  | .query _ r | .abort _ r | .gather _ _ r | .scatter _ _ r | .relayout _ _ r
  | .reduceOpen _ _ r | .reduceClose _ _ r => r.length == 64
  | .resetCold o | .coldBoot o | .warmPanelReset o => o.wf
  | .sweep p _ _ _ | .clear p | .quarantine p | .returnPos p | .replace p | .retire p | .unfence p => pcidWf p
  | .licenceInstall r => r.length == 256
  | .hello _ m => m.wf
  | .request _ _ _ body tag => decide (body.length ≤ 1400) && tag.length == 16
  | .close _ _ _ tag => tag.length == 16
  | _ => true

end Sys2Proof
end

