-- ==== Sys2Proof/Tests/Slice0.lean ====
section
/-!
SUPPORT. Slice0.lean: tests. For each check of WellFormed a term that it refuses; for each statement with hypotheses states
and operands that meet them, clause by clause; and worked examples of the spec. Where a hypothesis asks that an opaque check of
Config holds, the witness takes that as its own hypothesis: nothing in Lean can evaluate it.
-/
namespace Sys2Proof.Machine.Tests

open Sys2Proof Sys2Proof.Machine

set_option Elab.async false

/-! ## Small states -/

/-- A panel that is powered and ready, with firmware: partition 0 is on, spans the panel and owns memory site 0. -/
def up : State :=
  { State.reset with
    dict := [(0x600001, 2), (0x610002, 0x0B130000), (0xA10003, 0)],
    tray := { TraySt.reset with menReq := true, latch := false, stbyOk := true, assigned := true },
    clk := { ClkSt.reset with mesh := true },
    parts := { PartSt.reset with st := [(0, 3)] },
    mgmt := { MgmtSt.reset with running := [(0, Bundle.factory 0), (1, Bundle.factory 1), (2, Bundle.factory 2), (3, Bundle.factory 3)] } }

/-- It with one entry of the dictionary set. -/
def upWith (index sub v : Nat) : State := dset up index sub v

/-- A core that runs a task. -/
def running : Core := { Core.reset with st := .run, halt := false }

/-- The panel with one core that differs. -/
def withCore (c : Nat) (k : Core) : State := { up with cores := [(c, k)] }

/-- The panel on which core 0 runs a task. -/
def busy0 : State := withCore 0 running

/-- Core 0 runs a task with these scalar registers. -/
def regs (l : Assoc Word) : State := withCore 0 { running with sregs := l }

def ctl : CtlFields := ⟨1, 2, 3, false, 0⟩
def syn : SynFields := ⟨0, 1, 0, 0⟩
def vecF : VecFields := ⟨1, 2, 3, 4, 0, false, 0, 0, false, 0, false, 0, false, 1, 0, 0⟩
def movF : MovFields := ⟨0, false, false, 1, 2, 3, false, 0, false, 0, 64, 0, 64⟩
def matF : MatFields := ⟨2, 0, true, 0, false, false, 0⟩

/-- A cell with kind, source, destination, offset and payload. -/
def cellOf (kind : BitVec 5) (src dst : BitVec 16) (off : BitVec 36) (bs : List Byte) : Cell :=
  { ver := 1, cls := 0, vc := 0, ocls := 0, kind := kind, half := false, mc := false, pos := 0, lb := 1, l1s0 := 0, l1s1 := 0,
    l1s2 := 0, l3s0 := 0, l3s1 := 0, l3s2 := 0, dx := 0, dy := 0, dz := 0, sx := 0, sy := 0, sz := 0, colmask := 0, rowmask := 0,
    coremask := 0, srcEp := src, dstEp := dst, tag := 0, idx := 0, cnt := 0, offset := off, payload := bs }

/-- Was the message sent? -/
def isSent : Sent → Bool
  | .sent _ => true
  | _ => false

theorem ready_busy0 : Ready busy0 0 := ⟨by decide +kernel, by decide +kernel, .inl rfl⟩

/-- What a next state says under a test; nothing of a fault or a refusal. -/
def gives (o : Host.Outcome State Fault Refusal) (p : State → Bool) : Bool :=
  match o with
  | .next t => p t
  | _ => false

/-! ## Ill-formed commands -/

theorem test_wf_cell_payload : (Instr.write (cellOf 1 0 0 0 (List.replicate 49 0))).wf = false := by decide +kernel
theorem test_wf_cell_lb : (Instr.read { cellOf 2 0 0 0 [] with lb := 0 } .clean).wf = false := by decide +kernel
theorem test_wf_codeword :
    (Instr.codewordReceive 0 ⟨false, false, 0, 0, 0, 0, 0, List.replicate 639 0⟩).wf = false := by decide +kernel
theorem test_wf_occupancies : (Instr.congestionWindowEnd 0 [1, 2]).wf = false := by decide +kernel
theorem test_wf_descriptor : (Instr.gather 0 0 []).wf = false := by decide +kernel
theorem test_wf_record : (Instr.abort 0 [0]).wf = false := by decide +kernel

/-- What a reset finds on a panel without faults. -/
def fine : BootObs := ⟨true, true, true, true, [], [], [], 4, [], [], [], [], [0, 1, 2, 3], [], 1200⟩

theorem test_wf_boot_position : (Instr.coldBoot { fine with badCores := [9] }).wf = false := by decide +kernel
theorem test_wf_boot_revision : (Instr.resetCold { fine with revisions := [(0x17, 1)] }).wf = false := by decide +kernel
theorem test_wf_position : (Instr.clear 9).wf = false := by decide +kernel
theorem test_wf_position_high : (Instr.sweep 14336 true 0 0).wf = false := by decide +kernel
theorem test_wf_licence : (Instr.licenceInstall [1]).wf = false := by decide +kernel
theorem test_wf_nonce : (Instr.hello 0 ⟨1, 1, 0, [], [], []⟩).wf = false := by decide +kernel
theorem test_wf_tag : (Instr.close 0 0 0 []).wf = false := by decide +kernel
theorem test_wf_request : (Instr.request 0 0 0 (List.replicate 1401 0) (List.replicate 16 0)).wf = false := by decide +kernel
theorem test_wf_add : (Instr.add 0 ctl).wf = true := rfl

/-! ## Hypotheses that are met: cores -/

/-- StepRunsFront. -/
theorem test_hyp_queue : ({ up with pending := [.help] } : State).pending = [.help] := rfl

/-- EmptyQueueTicks. -/
theorem test_hyp_empty_queue : up.pending = [] := rfl

/-- ScalarArithmetic, Branches, Jumps, MisplacedJumpStops. -/
theorem test_hyp_scalar : Ready busy0 0 ∧ ctl.imm.toNat % 16 = 0 ∧ ((core busy0 0).sreg 2 + ctl.imm).toNat % 16 = 0 ∧
    ({ ctl with imm := 8 } : CtlFields).imm.toNat % 16 ≠ 0 ∧ ((core (regs [(2, 8)]) 0).sreg 2 + ctl.imm).toNat % 16 ≠ 0 ∧
    Ready (regs [(2, 8)]) 0 :=
  ⟨ready_busy0, by (repeat' apply And.intro) <;> first | decide +kernel | exact .inl rfl⟩

/-- LocalLoads and LocalStores: the highest aligned double word of the scratchpad, with an empty scoreboard. -/
theorem test_hyp_local : Ready (regs [(2, 0xBFFF8)]) 0 ∧ ((core (regs [(2, 0xBFFF8)]) 0).sreg 2 + ctl.imm).toNat = 0xBFFF8 ∧
    0xBFFF8 % 8 = 0 ∧ 0xBFFF8 + 8 ≤ spmSize ∧ FreeToRead (core (regs [(2, 0xBFFF8)]) 0) 0xBFFF8 8 ∧
    FreeToWrite (core (regs [(2, 0xBFFF8)]) 0) 0xBFFF8 8 ∧ (regs [(2, 0xBFFF8)]).memsWf = true :=
  ⟨⟨by decide +kernel, by decide +kernel, .inl rfl⟩, by decide +kernel, rfl, by decide +kernel,
    ⟨by decide +kernel, fun _ h => by cases h⟩, ⟨by decide +kernel, fun _ h => by cases h⟩, by decide +kernel⟩

/-- LocalAccessFaults: misaligned, and the first address outside. -/
theorem test_hyp_local_fault : (2 : Nat) % 4 ≠ 0 ∧ spmSize < 0xC0000 + 1 ∧ Ready (regs [(2, 0xC0000)]) 0 ∧
    ((core (regs [(2, 0xC0000)]) 0).sreg 2 + ctl.imm).toNat = 0xC0000 :=
  ⟨by decide, by decide +kernel, ⟨by decide +kernel, by decide +kernel, .inl rfl⟩, by decide +kernel⟩

/-- PanelAccessSends: CORE_ASTAT of core 5, in space 0x3. -/
theorem test_hyp_panel_access :
    let s := regs [(2, 0x3000000500000030)]
    Ready s 0 ∧ isSent (sendTo s (epCore 0) (corePart s 0) (.ldp 0 1) 0x3000000500000030 fun d => some (ldpReq d)) = true ∧
      isSent (sendTo s (epCore 0) (corePart s 0) (.stp 0) 0x3000000500000030 fun d => some (stpReq d 1)) = true :=
  ⟨⟨by decide +kernel, by decide +kernel, .inl rfl⟩, by decide +kernel, by decide +kernel⟩

/-- SequencerControl: with an empty scoreboard, and with a read range alone. -/
theorem test_hyp_control : Ready busy0 0 ∧ (core busy0 0).sb = [] ∧ (core busy0 0).partStop = false ∧
    (core busy0 0).mat.queue = [] ∧ busy0.clk.paused = false ∧
    ∀ e ∈ [(0, (⟨false, 0, 1, 0, false, []⟩ : SbEntry))], e.2.write = false :=
  ⟨ready_busy0, rfl, rfl, rfl, rfl, by decide⟩

/-- Core 0 runs with every tag of its endpoint taken. -/
def tagless (k : Core) : State :=
  { withCore 0 k with fab := { up.fab with closed := (List.range 1024).map fun n => ⟨0, BitVec.ofNat 10 n, 0, 1000⟩ } }

theorem leastFree_full (l : List Nat) : ∀ n a, (∀ k, a ≤ k → k < a + n → k ∈ l) → leastFree l n a = a + n
  | 0, _, _ => rfl
  | n + 1, a, h => by
    have h1 : l.contains a = true := List.contains_iff_mem.2 (h a (Nat.le_refl a) (by omega))
    rw [leastFree, if_pos h1, leastFree_full l n (a + 1) fun k hk hk' => h k (by omega) (by omega)]
    omega

theorem tagless_full (k : Core) : freeTag (tagless k) 0 = 1024 := by
  have h : ∀ n, 0 ≤ n → n < 0 + 1024 → n ∈ usedTags (tagless k) 0 := by
    intro n _ hn
    have hc : (⟨0, BitVec.ofNat 10 n, 0, 1000⟩ : ClosedTag) ∈ (tagless k).fab.closed := by
      simp only [tagless]
      exact List.mem_map_of_mem (List.mem_range.2 (by omega))
    refine List.mem_append_right _ (List.mem_filterMap.2 ⟨_, hc, ?_⟩)
    rw [if_pos (by rfl), BitVec.toNat_ofNat, Nat.mod_eq_of_lt (show n < 2 ^ 10 by omega)]
  have := leastFree_full _ 1024 0 h
  rwa [Nat.zero_add] at this

theorem tagless_waits (k : Core) : synWaits (tagless k) 0 (.sig 0 0x2000000500000000 0) = true := by
  simp only [synWaits, Bool.and_eq_true, beq_iff_eq]
  exact ⟨by decide, tagless_full k⟩

/-- EventCounters: the condition holds with a difference of 2^31 - 1 and fails with 2^31; the sync queue is empty, or its first
entry is a signal without a tag. -/
theorem test_hyp_counters :
    let q : SynQ := .sig 0 0x2000000500000000 0
    let s := tagless { running with synq := [q] }
    Ready busy0 0 ∧ (core busy0 0).partStop = false ∧ (core busy0 0).synq = [] ∧
      ((0x7FFFFFFF : BitVec 32) - 0).toNat < 2 ^ 31 ∧ ¬((0x80000000 : BitVec 32) - 0).toNat < 2 ^ 31 ∧
      Ready s 0 ∧ (core s 0).synq = q :: [] ∧ synWaits s 0 q = true :=
  ⟨ready_busy0, rfl, rfl, by decide, by decide, ⟨by decide +kernel, by decide +kernel, .inl rfl⟩, rfl, tagless_waits _⟩

/-- A launch on ring 0 that runs on core 0. -/
def launched : Cmd := ⟨0, 0, List.replicate 64 0, .started, [], false, [0], [], 0, 0, 0, 0, none, [0], [[], [], []]⟩

/-- Core 0 waits at context 0 of a launch. -/
def atBar : State :=
  { withCore 0 { running with hold := .barrier 0, launch := some (0, 0) } with host := { HostSt.reset with cmds := [launched] } }

/-- BarriersAndSignals: a signal to core 5, and the members of a context that wait. -/
theorem test_hyp_barrier : Ready (regs [(1, 0x2000000500000000)]) 0 ∧
    isSent (sendTo (regs [(1, 0x2000000500000000)]) (epCore 0) (corePart (regs [(1, 0x2000000500000000)]) 0) (.esig 0 0)
      0x2000000500000000 fun _ => some (signalReq 0)) = true ∧
    findCmd atBar 0 0 = some launched ∧ barrierCores launched 0 = [0] ∧
    (∀ d ∈ barrierCores launched 0, atBarrier (core atBar d) 0 = true ∧ clocked atBar d = true) ∧
    freeTag (regs [(1, 0x2000000500000000)]) 0 ≠ 1024 ∧ freeTag (tagless { running with sregs := [(1, 0x2000000500000000)] }) 0 = 1024 :=
  ⟨⟨by decide +kernel, by decide +kernel, .inl rfl⟩, by decide +kernel, by decide +kernel, rfl, by decide +kernel, by decide +kernel,
    tagless_full _⟩

/-- PartitionStopPoints: blocked by a barrier, by a wait, or running; and stopped before. -/
theorem test_hyp_partition_stop : coreDieRuns atBar 0 = true ∧ (core atBar 0).st = .run ∧ (core atBar 0).hold = .barrier 0 ∧
    (core (withCore 0 { running with hold := .wait }) 0).hold = .wait ∧ (core busy0 0).hold = .none ∧
    Ready (withCore 0 { running with partStop := true }) 0 ∧ (core (withCore 0 { running with partStop := true }) 0).partStop = true :=
  ⟨by decide +kernel, rfl, rfl, rfl, rfl, ⟨by decide +kernel, by decide +kernel, .inl rfl⟩, rfl⟩

/-- MovesEnterTheQueue: a copy, a strided copy of one row, a contribution and a fill. -/
theorem test_hyp_moves :
    let k := (regs [(2, 0x4000000010000000), (3, 0x0001000040000040)]).cores
    let k := agetD 0 Core.reset k
    Ready (regs [(2, 0x4000000010000000), (3, 0x0001000040000040)]) 0 ∧ movCheck 1 movF k = .pass ∧
      movCheck 2 movF k = .pass ∧ movCheck 3 { movF with drem := true } k = .pass ∧ movCheck 4 movF k = .pass ∧
      (holdRow k (movRanges 1 movF k) (movFull k)).1 = 0 ∧ (holdRow k (movRanges 2 movF k) (movFull k)).1 = 0 ∧
      (holdRow k (movRanges 3 { movF with drem := true } k) (movFull k)).1 = 0 ∧ (holdRow k (movRanges 4 movF k) (movFull k)).1 = 0 :=
  ⟨⟨by decide +kernel, by decide +kernel, .inl rfl⟩, by (repeat' apply And.intro) <;> decide +kernel⟩

/-- A copy of 64 bytes from 0 to 64 in channel 0, and one to an address in no space. -/
def mv : MoveOp := ⟨1, movF, 0, 0, 0, 0, 0, ⟨0, 0, 0⟩, ⟨64, 0, 0⟩⟩
def mvBad : MoveOp := { mv with f := { movF with drem := true }, dstAddr := 0x5000000000000000 }

theorem mv_local : LocalCopy mv 0 64 64 := by (repeat' apply And.intro) <;> rfl

/-- MoveStartTakesTheOldest, MoveCompletes. -/
theorem test_hyp_channels :
    let s := withCore 0 { running with movq := [mv] }
    let u := withCore 0 { running with chans := [(0, ⟨.busy, some mv, []⟩), (1, ⟨.retry 5, some mv, []⟩),
      (2, ⟨.busy, some { mvBad with f := { mvBad.f with sig := true }, dstAddr := 0x2000000500000000 }, []⟩)] }
    unitsRun s 0 = true ∧ ((core s 0).chan 0).phase = .idle ∧ (core s 0).movq.find? (fun q => q.f.ch.toNat == 0) = some mv ∧
      LocalCopy mv 0 64 64 ∧ s.memsWf = true ∧ badAddr mvBad = some 0x5000000000000000 ∧
      unitsRun u 0 = true ∧ movDone u 0 0 = true ∧ movDone u 0 2 = true ∧ ((core u 0).chan 1).phase = .retry 5 ∧
      5 ≤ ({ u with prc := 5 } : State).prc ∧ u.prc < 5 ∧
      isSent (sendTo u (epCore 0) (corePart u 0) (.movSig 0 2) 0x2000000500000000 fun _ => some (signalReq 0)) = true :=
  by (repeat' apply And.intro) <;> first | exact mv_local | decide +kernel

/-- VectorLanes, VectorPredicates, VectorReductions: FP32 and the three integer formats, and no drill. -/
theorem test_hyp_vector : Ready busy0 0 ∧ Undrilled busy0 0 ∧ arithOk true vecF ∧ arithOk false { vecF with fmt := 8 } ∧
    arithOk true { vecF with fmt := 10, rnd := 3 } ∧ arithOk true { vecF with fmt := 11 } ∧ vecF.cond ≠ 7 ∧
    vecF.fmt = 0 ∧ vecF.rnd ≠ 3 :=
  ⟨ready_busy0, .inl rfl, ⟨.inl rfl, by decide⟩, ⟨.inr (.inl rfl), by decide⟩, ⟨.inr (.inr (.inl rfl)), by decide⟩,
    ⟨.inr (.inr (.inr rfl)), by decide⟩, by decide, rfl, by decide⟩

/-- VectorConversions: FP32 to E4M3, MXFP4, the forms that are refused, a scale of a NaN block, and blocks with a NaN and of zeros. -/
theorem test_hyp_convert : Fmt.ofCode 0 = some .fp32 ∧ (Fmt.ofCode 3).isSome = true ∧
    mxOk { vecF with fmt2 := 7, mx2 := true } = true ∧
    (Fmt.ofCode 7).isSome = true ∧ Fmt.ofCode 15 = none ∧ mxOk vecF = false ∧ ({ vecF with fmt := 3 } : VecFields).fmt ≠ 0 ∧
    bits (lane (core (withCore 0 { running with vec := { VecSt.reset with v := [(4, [0xFFFF])] } }) 0) 4 0).toNat 7 0 = 255 ∧
    (mxPack .e2m1 [(.nan, 0)] []).2.1 = 0xFF ∧ (mxPack .e2m1 [(.fin false 0 0, 0)] []).2.1 = 0 :=
  ⟨rfl, by decide, by decide, by decide, by decide, by decide, by decide, by decide +kernel, by decide +kernel, by decide +kernel⟩

/-- VectorMemory: an absolute operand at the last place that fits. -/
theorem test_hyp_vector_memory : (core busy0 0).sb = [] ∧ busy0.memsWf = true ∧
    operand (core busy0 0) 0xBFC00 = .flat 0xBFC00 ∧ 0xBFC00 + 1024 ≤ spmSize ∧ 0xBFC00 % 8 = 0 ∧ vecF.pen = false :=
  ⟨rfl, by decide +kernel, by decide +kernel, by decide +kernel, rfl, rfl⟩

/-- A stationary and a moving descriptor of chapter 4's worked example, and core 0 with a lane store loaded. -/
def matCore : Core :=
  { running with sregs := [(2, 0x0200170800000000), (3, 0x0000010000000000)],
                 mat := { MatSt.reset with lane := some ⟨⟨.e2m1, true, 1024, 0⟩, [], []⟩, dLane := some ⟨.e2m1, true, 1024, 0⟩,
                                           anchor := some 0, dAnchor := some 0 } }

/-- MatrixLoadAndMultiply. -/
theorem test_hyp_matrix :
    let s := withCore 0 matCore
    let d := descOf 0x0200170800000000 0x0000010000000000
    Ready s 0 ∧ matCore.mat.queue = [] ∧ s.clk.paused = false ∧ (Fmt.ofCode d.code).isSome = true ∧ d.ring = false ∧
      mloadCheck matF matCore = .pass ∧ (holdRow matCore (mloadRanges matF matCore) false).1 = 0 ∧
      mmulCheck matF matCore = .pass ∧ (holdRow matCore (mmulRanges matF matCore) false).1 = 0 :=
  ⟨⟨by decide +kernel, by decide +kernel, .inl rfl⟩, by (repeat' apply And.intro) <;> decide +kernel⟩

/-- MatrixReadout: one row as FP32, and as exact records. -/
theorem test_hyp_readout :
    let k := { matCore with sregs := [(2, 0), (3, 0x0000010000000000)] }
    mreadCheck matF k = .pass ∧ mreadCheck { matF with exact := true } k = .pass ∧
      (descOf 0 0x0000010000000000).ring = false ∧ (holdRow k (mreadRanges matF k) false).1 = 0 :=
  by (repeat' apply And.intro) <;> decide +kernel

/-- TaskLifecycle. -/
theorem test_hyp_tasks : acceptsTask up 0 = true ∧ drained (withCore 0 { running with st := .drain }) 0 = true ∧
    (core (withCore 0 { running with st := .report }) 0).st = .report ∧
    awaitsToken (withCore 0 { running with st := .report }) 0 = false ∧ (core busy0 0).st = .run ∧ coreDieRuns busy0 0 = true ∧
    coreDieRuns { busy0 with clk := { up.clk with late := [(0, 0)] } } 0 = false :=
  ⟨by decide +kernel, by decide +kernel, rfl, by decide +kernel, rfl, by decide +kernel, by decide +kernel⟩

/-- TaskEvents: a finished range, a stall run at its limit, and a word of an undefined opcode. -/
theorem test_hyp_task_events :
    let s := withCore 0 { running with sb := [(0, ⟨false, 0, 1, 0, true, []⟩)], wdogRun := 2 ^ 24 }
    coreDieRuns s 0 = true ∧ unitsRun s 0 = true ∧ aget 0 (core s 0).sb = some ⟨false, 0, 1, 0, true, []⟩ ∧
      2 ^ (core s 0).wdogLimit ≤ (core s 0).wdogRun ∧ isInstruction 0 = false :=
  by (repeat' apply And.intro) <;> decide +kernel

/-- RingAndCounterWrites: the largest ring, one that does not fit, and the two roles that are remote. -/
theorem test_hyp_rings : takesWrites busy0 0 = true ∧ 0 % 64 = 0 ∧ 0xC0000 % 64 = 0 ∧ 0 + 0xC0000 ≤ spmSize ∧
    ¬(64 + 0xC0000 ≤ spmSize) ∧
    ((core (withCore 0 { running with rings := [(0, ⟨0, 64, true, false, false, 0, 0, 0, 0, [], []⟩)] }) 0).ring 0).prod = true ∧
    ((core (withCore 0 { running with rings := [(0, ⟨0, 64, false, true, false, 0, 0, 0, 0, [], []⟩)] }) 0).ring 0).cons = true :=
  ⟨by decide +kernel, rfl, rfl, by decide +kernel, by decide +kernel, rfl, rfl⟩

/-! ## Hypotheses that are met: fabric and links -/

/-- A cell standing at an interface, from core 1 of this panel. -/
def stand (s : State) (x : Cell) : State := { s with fab := { s.fab with net := [⟨.ni (niOfEp x.dstEp.toNat), x⟩] } }

/-- CellRoutes: the die is clocked; a cell that leaves site 0 eastward by segment 0 of leg 1; the four ways to be dropped. -/
theorem test_hyp_cell :
    let x := { cellOf 1 0 32 0 [1] with l1s0 := 1, l1s1 := 0x60 }
    dieClocked up (routerDie (.grid 0 0)) = true ∧ x.pos = 0 ∧ 1 ≤ x.l1s0.toNat % 32 ∧ holesAt up 0 = [] ∧
      illegalTurn (siteCol 0) none (dirOfCode (x.l1s0.toNat / 32)) = false ∧
      siteOfPlace (stepDir (dirOfCode (x.l1s0.toNat / 32)) (placeOfSite 0)) = some 1 ∧ x.ver = 1 ∧ x.vc = 0 ∧ x.mc = false ∧
      gives (exec (.cellRoute (.grid 0 0) none x false) { up with fab := { up.fab with net := [⟨.router (.grid 0 0) none, x⟩] } })
        (fun t => t.fab.net.length == 1) = true ∧
      ({ x with ver := 2 } : Cell).ver ≠ 1 ∧ ({ x with vc := 2 } : Cell).vc = 2 ∧ up.links.topo.rappel = false ∧
      ({ x with vc := 3 } : Cell).vc = 3 ∧ fenced up 0 0 = false ∧ drillEats up ⟨.router (.grid 1 0) (some .west), x⟩ = false ∧
      fencedAt { up with fab := { up.fab with holes := [(0, 1)] } } (.grid 0 0) = true := by
  (repeat' apply And.intro) <;> decide +kernel

/-- RequestsAtCores: a write of the last byte, a read of 48 bytes, register accesses and a signal at core 0. -/
theorem test_hyp_core_requests :
    let w := cellOf 1 1 0 0xBFFFF [7]
    let r := cellOf 2 1 0 0 [48, 0, 0, 0]
    let rw := cellOf 3 1 0 0x300000200 [5]
    let rr := cellOf 4 1 0 0x300000030 []
    let g := cellOf 5 1 0 0 [63]
    epKind w.dstEp.toNat = .core 0 ∧
      notTaken (stand up w) w = none ∧ srcMay (stand up w) w (partOfCore (stand up w) 0) = true ∧ atDest (stand up w) 1 w = true ∧
      tombed (stand up w) (niOfEp 0) w = false ∧ w.offset.toNat + (Cell.data w).length ≤ spmSize ∧
      atDest (stand up r) 2 r = true ∧ Cell.num r 0 3 = 48 ∧ atDest (stand up rw) 3 rw = true ∧
      rw.offset.toNat = 3 * 2 ^ 32 + 0x200 + 8 * 0 ∧ atDest (stand up rr) 4 rr = true ∧ (regAt (stand up rr) rr).isSome = true ∧
      atDest (stand up g) 5 g = true ∧ Cell.byte g 0 < 64 :=
  by (repeat' apply And.intro) <;> decide +kernel

/-- RequestsAtCores: a multicast write to two cores of cluster 0. -/
theorem test_hyp_mwrite :
    let x := { cellOf 0x19 1 0 0 [7] with mc := true, coremask := 3 }
    let s := stand up x
    arrived s (niOfCluster 0) (siteOfDie 0) 0x19 x = true ∧ s.fab.mslots.find? (isSlot (niOfCluster 0) (Cell.src x) x.tag) = none ∧
      mcastCores 0 x = [0, 1] ∧ ∀ d ∈ mcastCores 0 x, mcastSkips s d = false ∧ srcMay s x (partOfCore s d) = true := by
  (repeat' apply And.intro) <;> decide +kernel

/-- A reduction of two inputs of 4 bytes of FP32 to memory: an open descriptor. -/
def redDesc : List Byte :=
  leBytes 64 (fld 0 4 1 + fld 4 4 1 + fld 134 3 1 + fld 152 24 4 + fld 192 32 0 + fld 224 32 1 + fld 448 64 0x1000000000000000)

def redIn (e : Nat) : RedIn := ⟨srcKey e 0 0 0, 1, []⟩
def redStreamOf : Stream := ⟨redDesc, 0, [redIn 0, redIn 1], 0, 0, none, false, 0, 1000, none⟩

/-- Memory site 0 with that stream open. -/
def atSite (s : State) : State := { s with msites := [(0, { MSite.reset with streams := [(0, redStreamOf)] })] }

/-- RequestsAtMemorySites: the last byte of a stack, a read of 48 bytes, a credit request, and a contribution of which the
other input's bytes are still missing. -/
theorem test_hyp_site_requests :
    let w := cellOf 1 1 0x2000 0xBFFFFFFFF [7]
    let r := cellOf 2 1 0x2000 0 [48, 0, 0, 0]
    let q := cellOf 6 1 0x2000 0xF10000000 [0, 0, 1, 0]
    let p := { cellOf 0x18 1 0x2000 0xF10000000 [1, 2, 3, 4] with lb := 4 }
    epKind w.dstEp.toNat = .mem 0 ∧ notTaken (stand up w) w = none ∧ srcMay (stand up w) w (ownerOfSite (stand up w) 0) = true ∧
      w.offset.toNat / 2 ^ 32 ≠ 15 ∧ atDest (stand up w) 1 w = true ∧ hbmOk (stand up w) 0 0 w.offset.toNat 1 = true ∧
      atDest (stand up r) 2 r = true ∧ hbmOk (stand up r) 0 0 0 48 = true ∧ drillWith (stand up r) 7 0 = false ∧
      atDest (stand (atSite up) q) 6 q = true ∧ stream (stand (atSite up) q) 0 (Cell.byte q 0 % 64) = some redStreamOf ∧
      inputIndex redStreamOf (Cell.src q) = some 1 ∧
      contribLost (stand (atSite up) p) p = none ∧ atDest (stand (atSite up) p) 0x18 p = true ∧
      p.offset.toNat = portMark + 0x10000000 ∧ isReducePort 0x10000000 = true ∧ portStream 0x10000000 = 0 ∧
      portPos 0x10000000 + (Cell.data p).length ≤ 48 * (redIn 1).granted ∧ (Cell.data p).length ≤ redLen redDesc ∧
      (let st := modInput redStreamOf 1 fun y => { y with data := putBytes y.data 0 (Cell.data p) }
       outReady st st.written (outRoom st) = false) := by
  (repeat' apply And.intro) <;> decide +kernel

/-- A message of core 0 under tag 0. -/
def msgFor (p : Purpose) (want : Nat) : Msg :=
  ⟨0, 0, 0x3000000500000030, [cellOf 4 0 5 0 []], want, [], 0, [], 0, 1000, p⟩

/-- Core 0 waits for a panel load, with its message and a response cell at its interface. -/
def waiting (p : Purpose) (want : Nat) (x : Cell) : State :=
  let s := withCore 0 { running with hold := .access (some 1) 0 }
  stand { s with fab := { s.fab with msgs := [msgFor p want] } } x

/-- ResponsesAtTheirRequester. -/
theorem test_hyp_responses :
    let a := cellOf 0x10 5 0 0 [0, 0]
    let d := cellOf 0x12 5 0 0 [1]
    let rd := { cellOf 0x11 5 0 0 [1] with idx := 0 }
    let b := cellOf 0x16 5 0 0 []
    let c := cellOf 0x17 5 0 0 [0, 0, 0, 0]
    respLost (waiting (.stp 0) 1 a) a = none ∧ msgOf (waiting (.stp 0) 1 a) a = some (msgFor (.stp 0) 1) ∧
      (core (waiting (.stp 0) 1 a) 0).chans = [] ∧ (core (waiting (.stp 0) 1 a) 0).synq = [] ∧ (core (waiting (.stp 0) 1 a) 0).hold = .access (some 1) 0 ∧
      atDest (waiting (.stp 0) 1 a) 0x10 a = true ∧ atDest (waiting (.ldp 0 1) 1 d) 0x12 d = true ∧
      (∀ e ∈ [(0x13 : BitVec 5), 0x14, 0x15], atDest (waiting (.stp 0) 1 { a with kind := e }) e.toNat { a with kind := e } = true) ∧
      wantsData (.ldp 0 1) = true ∧ atDest (waiting (.ldp 0 1) 2 rd) 0x11 rd = true ∧
      aget rd.idx.toNat (msgFor (.ldp 0 1) 2).got = none ∧ (aput rd.idx.toNat (Cell.data rd) (msgFor (.ldp 0 1) 2).got).length < 2 ∧
      atDest (waiting (.stp 0) 1 b) 0x16 b = true ∧ atDest (waiting (.movCredit 0 0 1) 1 c) 0x17 c = true ∧
      Cell.byte c 1 = 0 ∧ Cell.num c 2 2 = 0 := by
  (repeat' apply And.intro) <;> decide +kernel

/-- ResponsesAtTheirRequester: the last data cell of a move, a credit request of a channel, and one of a stream. -/
theorem test_hyp_responses_engines :
    let s := withCore 0 { running with chans := [(0, ⟨.busy, some mv, []⟩)] }
    let u := withCore 0 { running with chans := [(0, ⟨.busy, some mv, [⟨.loc 0, .rem 0, 4⟩]⟩)] }
    (core s 0).chans = [((0 : ChanNo).val, ⟨.busy, some mv, []⟩)] ∧ (core u 0).chan 0 = ⟨.busy, some mv, [⟨.loc 0, .rem 0, 4⟩]⟩ ∧
      (msgFor (.movRead 0 0 (.loc 0)) 1).purpose = .movRead 0 0 (.loc 0) ∧
      (aput 0 [(1 : Byte)] (msgFor (.movRead 0 0 (.loc 0)) 1).got).length = 1 ∧ stream (atSite up) 0 0 = some redStreamOf ∧
      outReady redStreamOf 0 (outRoom redStreamOf) = false ∧ Cell.num (cellOf 0x17 5 0 0 [0, 0, 1, 0]) 2 2 = 1 ∧
      atDest (waiting (.redCredit 0 0) 1 (cellOf 0x17 5 0 0 [0, 0, 1, 0])) 0x17 (cellOf 0x17 5 0 0 [0, 0, 1, 0]) = true := by
  (repeat' apply And.intro) <;> decide +kernel

/-- ResponsesAtTheirRequester: a cell waits for its retry, which is due at 5. -/
theorem test_hyp_busy_retry :
    let m := { msgFor (.stp 0) 1 with waiting := [(0, 5)] }
    let s : State := { up with fab := { up.fab with msgs := [m] } }
    findMsg s 0 0 = some m ∧ ((0 : BitVec 9).toNat, 5) ∈ m.waiting ∧ s.prc < 5 ∧
      m.cells[(0 : BitVec 9).toNat]? = some (cellOf 4 0 5 0 []) ∧
      (rerouteCell { s with prc := 5 } (cellOf 4 0 5 0 [])).isSome = true := by
  (repeat' apply And.intro) <;> decide +kernel

/-- MessageTimeouts: at the moment of the timeout, and the tick before. -/
theorem test_hyp_timeouts :
    let y : TSlot := ⟨0, 1, 0, 0, 0, [], false, [], 0, 1000⟩
    let s : State := { up with prc := usTicks 1000, fab := { up.fab with slots := [y] } }
    let u : State := { waiting (.ldp 0 1) 1 (cellOf 0 0 0 0 []) with prc := usTicks 2000 }
    s.fab.slots.find? (isSlot 0 1 0) = some y ∧ y.start + usTicks y.limit ≤ s.prc ∧
      ({ s with prc := s.prc - 1 } : State).prc < y.start + usTicks y.limit ∧
      findMsg u 0 0 = some (msgFor (.ldp 0 1) 1) ∧ (msgFor (.ldp 0 1) 1).start + usTicks (2 * 1000) ≤ u.prc ∧
      freeTag s 0 ≠ 1024 ∧ (core u 0).st = .run ∧ (core u 0).chans = [] ∧ (core u 0).synq = [] ∧ (core u 0).hold = .access (some 1) 0 := by
  (repeat' apply And.intro) <;> decide +kernel

/-- FabricMaps: the last of the words, a complete map and none, a die's map that is 100 us old and one that is not, and the windows. -/
theorem test_hyp_maps :
    let s (t : Nat) : State := { up with prc := t, fab := { up.fab with maps := [(3, (0, [(0, 1)]))], whole := some [] } }
    nextReported (List.range 239) 239 = [] ∧ nextReported [] 0 ≠ [] ∧ up.fab.whole = none ∧ (s 0).fab.whole = some [] ∧
      aget (3 : DieNo).val (s 0).fab.maps = some (0, [(0, 1)]) ∧ 0 + usTicks 100 ≤ (s (usTicks 100)).prc ∧ (s 0).prc < 0 + usTicks 100 ∧
      (s 0).fab.cmap.1 + usTicks 100 ≤ (s (usTicks 100)).prc ∧ keysRise (s 0).fab.maps = true ∧
      isMemSite 0 = false ∧ fenced up 0 3 = false ∧ up.fab.holes = [] := by
  (repeat' apply And.intro) <;> decide +kernel

/-- RankMapLoads: a partition without running cores; a map of one entry that is in order, and one that is not. -/
theorem test_hyp_rank_map :
    let s := dset { up with fab := { up.fab with loads := [0] } } 0x6100 0x0B 1
    let good : Word := 0x1000010000000001
    partSt up 0 ≠ 0 ∧ partBusy up 0 = false ∧ 0 ∉ up.fab.loads ∧ 0 ∈ s.fab.loads ∧ dget s 0x6100 0x0B = 1 ∧
      spaceOf (BitVec.ofNat 64 (dget s 0x6100 0x0A)) = 0 ∧ (readRange s (some 0) 0 8).isSome = true ∧
      firstBad s 0 0 [good] = none ∧ (firstBad s 0 0 [0x1000010000001C00]).isSome = true := by
  (repeat' apply And.intro) <;> decide +kernel

/-- The monitor holds the service bus. -/
def held : State := { up with mgmt := { up.mgmt with bus := { up.mgmt.bus with taken := true } } }

/-- RegisterWrites: from core 1 of the partition, from base-camp firmware, and the bounds of the reassembly timeout. -/
theorem test_hyp_register_writes : coreTakes up 0 1 0x200 = true ∧ coreTakes up 0 1 0x3F8 = true ∧ coreTakes up 0 1 0x30 = true ∧
    coreTakes up 0 1 0x10 = true ∧ coreTakes up 0 1 (0x118 + 32 * 15) = true ∧ siteTakes up 0 0x8000 0x138 = true ∧
    firmwareUp up = true ∧ up.mgmt.bus.taken = false ∧ held.mgmt.bus.taken = true ∧ firmwareUp held = true ∧ 50 ≤ (50 : Word).toNat ∧ (10000 : Word).toNat ≤ 10000 ∧ (49 : Word).toNat < 50 ∧
    10000 < (10001 : Word).toNat := by
  (repeat' apply And.intro) <;> decide +kernel

/-- ResetsBelowThePanel: a partition that is on, one whose cores have not been reset, and one that has waited after it. -/
theorem test_hyp_resets :
    let r : RunReset := ⟨4, 0, 0, 0, none⟩
    let w : RunReset := { r with swept := some 0 }
    let u : State := { up with prc := 10 ^ 9, parts := { up.parts with st := [(0, 4)], resets := [r] } }
    panelReady up = true ∧ joins up 1 0 = false ∧ joins up 2 0 = false ∧ joins up 3 0 = false ∧
      (∀ d ∈ unitCores 2 0, needsSwitch up d = false) ∧ runReset up 4 0 = none ∧ partSt up 0 = 3 ∧
      panelReady u = true ∧ runReset u 4 0 = some r ∧ partSt u 0 = 4 ∧ r.swept = none ∧
      runReset { u with parts := { u.parts with resets := [w] } } 4 0 = some w ∧ 0 + twiceTimeout u ≤ u.prc ∧
      ({ u with prc := 0 } : State).prc < 0 + twiceTimeout u := by
  (repeat' apply And.intro) <;> decide +kernel

/-- A panel in a row of two, with link 0 in a state. -/
def linked (x : Link) : State :=
  { up with links := { LinksSt.reset with links := [(0, x)], topo := ⟨1, 2, 1, 1, 0, 0, 0, false, 0⟩ } }

/-- The capability record of its neighbour. -/
def capOk : CapRec := ⟨1, 0, 1, 1, false, 1, false, 1, 0, 0, 1, 0, 0, 0, 16, 0, 1⟩

/-- LinkStates. -/
theorem test_hyp_links :
    (link (linked { Link.reset with state := 1 }) 0).state = 1 ∧
    trainFault (linked { Link.reset with state := 1, locked := true }) 0 { capOk with protoMin := 2 } = some 3 ∧
    trainFault (linked { Link.reset with state := 1, locked := true }) 0 capOk = none ∧
    heardRecord (List.replicate 3 (capFragments capOk)) = some capOk ∧ heardRecord (List.replicate 2 (capFragments capOk)) = none ∧
    (link (linked { Link.reset with state := 2 }) 0).state = 2 ∧
    (let s : State := { linked { Link.reset with state := 4, lost := true } with prc := usTicks 500000 }
     (link s 0).attempts < dget s 0x5800 9 ∧ (link s 0).since + usTicks 500000 ≤ s.prc) ∧
    dget up 0x5800 9 ≤ (link (linked { Link.reset with state := 4, lost := true, attempts := 255 }) 0).attempts ∧
    (link (linked { Link.reset with state := 5 }) 0).state = 5 ∧ linkServes (linked { Link.reset with state := 5 }) 0 = true := by
  (repeat' apply And.intro) <;> decide +kernel

/-- LinkTraffic: a codeword that comes next, a bad one, a kept one, a cell that leaves and one that enters. -/
theorem test_hyp_link_traffic :
    let s := linked { Link.reset with state := 2, buf := [⟨5, 0, 0, 0, 0, [], 0, 0⟩] }
    let x := { cellOf 1 0 0 0 [1] with dx := 1, cls := 2 }
    let e := { cellOf 1 0 0 0 [1] with cls := 2 }
    let u : State := { s with fab := { s.fab with net := [⟨.exit 0, x⟩, ⟨.entry 0, e⟩] } }
    (link s 0).state = 2 ∧ (0 : BitVec 10).toNat = (link s 0).rxSeq ∧ (link s 0).replay = false ∧ (link s 0).buf.length < 512 ∧
      (link s 0).resend = [] ∧ yields u 0 x 0 = false ∧ (streamCells [] (Cell.image e ++ List.replicate 568 0)).1.head? = some e ∧
      (link s 0).buf.findIdx? (fun w => w.num == (5 : BitVec 10).toNat) = some 0 ∧
      ⟨.exit 0, x⟩ ∈ u.fab.net ∧ ⟨.entry 0, e⟩ ∈ u.fab.net ∧ dieClocked u 240 = true ∧ torusDir x = some 0 ∧ upLinks u 0 = [0] ∧
      creditsNeeded u x 0 ≤ (link u 0).credits (hopCell u x 0).vc ∧ upLinks up 0 = [] ∧ (entryCell u 0 e).isSome = true := by
  (repeat' apply And.intro) <;> decide +kernel

/-! ## Hypotheses that are met: hosts and engines -/

/-- The key of window w of partition 0. -/
def keyOf (w : Nat) : BitVec 32 := BitVec.ofNat 32 (saltOf up 0 % 2 ^ 28 * 16 + w)

theorem keyOf_window (s : State) (h : saltOf s 0 = saltOf up 0) {w : Nat} (hw : w < 16) : windowOf s 0 (keyOf w) = some w := by
  have h1 : (keyOf w).toNat = saltOf up 0 % 2 ^ 28 * 16 + w := by
    simp only [keyOf, BitVec.toNat_ofNat]
    have := Nat.mod_lt (saltOf up 0) (show 0 < 2 ^ 28 by decide)
    omega
  have h2 : (saltOf up 0 % 2 ^ 28 * 16 + w) / 16 = saltOf up 0 % 2 ^ 28 := by omega
  have h3 : (saltOf up 0 % 2 ^ 28 * 16 + w) % 16 = w := by omega
  simp only [windowOf, h1, h, h2, h3, if_true]

def qp0 : Qp := ⟨0, 1, 0, 0, .ready, fullRate, 0, 14, 7, [], 0, none⟩

/-- A queue pair and command ring 0 of partition 0, with its event ring. -/
def hosted (q : Qp) (c : CRing) (e : ERing) : State :=
  { up with
    dict := [(0x600001, 2), (0x610002, 0x0B130000), (0x681002, 1), (0x688001, 0), (0x688002, 0x4000), (0x688003, 2), (0x688004, 0),
      (0x690001, 0), (0x690002, 1), (0x690003, 0x1000), (0x690005, 4), (0xA10003, 0)],
    host := { HostSt.reset with qps := [q], crings := [(0, c)], erings := [(0, e)] } }

def hostUp : State := hosted qp0 ⟨0, 0, 0, 1⟩ ⟨0, 0, 0, 1, [], none, []⟩

/-- InboundRdma: slots of ring 0, the reservation word, a fabric window of one piece, and a key of no window. -/
theorem test_hyp_rdma : findQp hostUp 0 1 = some qp0 ∧ qp0.st = .ready ∧ hostUp.host.ins = [] ∧
    windowOf hostUp 0 (keyOf 0) = some 0 ∧ sramOff 0x8000000000004000 = some (0, 0x4000) ∧
    (ringTarget hostUp 0 0 0x4000 256 = some .slots) ∧ (ringRead hostUp 0 0 0x4000 64).isSome = true ∧
    ringTarget hostUp 0 0 16 8 = some (.resv 0) ∧ 16 % 8 = 0 ∧
    windowOf hostUp 0 (keyOf 1) = some 1 ∧ inBivouac hostUp = false ∧ fabricOk hostUp 0 1 0x1000000000000000 4 = true ∧
    opPieces (.write (keyOf 1) 0x1000000000000000 [1, 2, 3, 4]) = [⟨.data [1, 2, 3, 4], .rem 0x1000000000000000, 4⟩] ∧
    isSent (sendTo hostUp (epHost 0) (some 0) (.hostWrite 0) 0x1000000000000000
      fun d => pieceReq d ⟨.data [1, 2, 3, 4], .rem 0x1000000000000000, 4⟩) = true := by
  refine ⟨by decide +kernel, rfl, rfl, keyOf_window _ rfl (by decide), by decide +kernel, by decide +kernel, by decide +kernel,
    by decide +kernel, rfl, keyOf_window _ rfl (by decide), by decide +kernel, by decide +kernel, ?_, by decide +kernel⟩
  rfl

/-- InboundRdma: the SRAM of the other host die, and a CNP that was sent before and within the interval. -/
theorem test_hyp_rdma_marks : sramOff 0x8000000100004000 = some (1, 0x4000) ∧
    (none : Option Nat).all (fun t0 => decide (t0 + usTicks (dget hostUp 0x6800 7) ≤ hostUp.prc)) = true ∧
    (some 0).all (fun t0 => decide (t0 + usTicks (dget hostUp 0x6800 7) ≤ hostUp.prc)) = false := by
  (repeat' apply And.intro) <;> decide +kernel

/-- InboundRdma: a key whose upper bits are not the salt names no window. -/
theorem test_hyp_rdma_key : windowOf hostUp 0 (BitVec.ofNat 32 ((saltOf up 0 + 1) % 2 ^ 28 * 16)) = none := by
  have h : saltOf hostUp 0 = saltOf up 0 := rfl
  have h1 : (BitVec.ofNat 32 ((saltOf up 0 + 1) % 2 ^ 28 * 16)).toNat = (saltOf up 0 + 1) % 2 ^ 28 * 16 := by
    simp only [BitVec.toNat_ofNat]; omega
  simp only [windowOf, h1, h]
  rw [if_neg]
  omega

/-- QueuePairs. -/
theorem test_hyp_qp :
    let o : OutOp := ⟨.event 0 0 ⟨1, false, 0, 0, 0⟩, .ack 0 1, 0⟩
    let w : OutOp := ⟨.cmdWrite 0 0, .ack 0 1, 0⟩
    let m : Cmd := { launched with left := [0] }
    let rd : OutOp := ⟨.cmdRead 0 0 0x1000000000000000, .rdmaRead 0 1 0 0 1, 0⟩
    let s (q : Qp) : State := { hosted q ⟨0, 0, 0, 1⟩ ⟨0, 0, 0, 1, [], none, []⟩ with prc := 10 ^ 9 }
    dget hostUp 0x6810 2 ≠ 0 ∧ rejReason hostUp 0 2 0 (.v4 0) = some 1 ∧
      rejReason (dset (dset (dset hostUp 0x6A00 1 0xA000000) 0x6A00 2 8) 0x6A00 6 4) 0 1 0 (.v4 0xA000001) = none ∧
      findQp (s { qp0 with st := .opening }) 0 1 = some { qp0 with st := .opening } ∧
      findQp (s { qp0 with st := .error }) 0 1 = some { qp0 with st := .error } ∧
      ({ qp0 with rate := fullRate / 2 } : Qp).rate < fullRate ∧ qp0.lastCnp + usTicks 55 ≤ (s qp0).prc ∧
      findQp (s { qp0 with outs := [o] }) 0 1 = some { qp0 with outs := [o] } ∧ o.since + ackTicks qp0 ≤ (s qp0).prc ∧
      qp0.retries < qp0.retryMax ∧ ({ qp0 with retries := 7 } : Qp).retryMax ≤ 7 ∧
      ({ s qp0 with prc := 0 } : State).prc < o.since + ackTicks qp0 ∧ w.for_ = .cmdWrite 0 0 ∧
      findCmd { s qp0 with host := { (s qp0).host with cmds := [m] } } 0 0 = some m ∧ m.st = .started ∧ m.left.length = 1 ∧
      [(1 : Byte)].length = readLen rd.pkt ∧ m.aborted = false ∧
      (writeRange (s qp0) (some (dget (s qp0) 0x6880 1)) 0x1000000000000000 [1]).2 = true := by
  (repeat' apply And.intro) <;> decide +kernel

/-- A command record of version 1. -/
def record (op rest : Nat) : List Byte := leBytes 64 (fld 0 8 op + fld 8 4 1 + rest)

/-- A fence record that waits in slot 0 of ring 0. -/
def recorded (r : List Byte) : State := sramWrite hostUp 0 0x4000 r

/-- HostRings. -/
theorem test_hyp_host_rings :
    let s := recorded (record 6 0)
    let ev : Ev := ⟨1, false, 0, 0, 0⟩
    let e : ERing := ⟨0, 0, 0, 1, [ev], none, []⟩
    (∀ q ∈ List.range 128, (cring s q).state ≠ 3) ∧ (cring s 0).state = 1 ∧ (1 - (cring s 0).head).toNat = 1 ∧
      ringAccepts s 0 = true ∧ cmdOp (ringRec s 0 0) = 6 ∧ checkRec s 0 (ringRec s 0 0) = 0 ∧
      ringSize s 0 < ((5 : Word) - (cring s 0).head).toNat ∧ (cring up 0).state = 0 ∧ (((4 : Word)) - (cring s 0).head).toNat ≤ ringSize s 0 ∧
      (cring (hosted qp0 ⟨0, 0, 0, 2⟩ e) 0).state = 2 ∧ s.mgmt.bus.taken = false ∧
      (ering (hosted qp0 CRing.reset e) 0).ovq = [ev] ∧ (e.prod - 0).toNat < eringSize (hosted qp0 CRing.reset e) 0 ∧
      (ering s 0).ovq = [] ∧ (ering s 0).firstLost = none ∧ firmwareUp s = true ∧
      dget s 0x6880 5 ≠ 1 ∧ ringCfgValid (hosted qp0 CRing.reset ⟨0, 0, 0, 1, [], none, []⟩) 0 = true ∧
      dget s 0x6900 9 ≠ 1 ∧ eringCfgValid s 0 = true := by
  (repeat' apply And.intro) <;> decide +kernel

/-- A queued command on ring 0, with rank 0 on core 0. -/
def queued (r : List Byte) : State :=
  { hostUp with host := { hostUp.host with cmds := [newCmd 0 0 r], nextCmd := 1 },
                fab := { hostUp.fab with rmaps := [(0, [0x1000010000000000])] } }

/-- A re-layout of 4 bytes from HBM to HBM, as a work item, and as a descriptor. -/
def relDesc : List Byte :=
  leBytes 64 (fld 0 4 1 + fld 4 4 1 + fld 128 64 0x1000000000000000 + fld 192 64 0x1000000000001000 + fld 256 7 4 + fld 266 2 1 + fld 268 2 2
    + fld 270 2 3 + fld 272 16 1 + fld 288 16 1 + fld 304 16 1 + fld 320 16 1 + fld 336 32 4)

/-- A gather of one row of 4 bytes. -/
def gatDesc (op : Nat) : List Byte :=
  leBytes 64 (fld 0 4 1 + fld 4 4 op + fld 128 64 0x1000000000000000 + fld 192 64 0x1000000000001000 + fld 256 64 0x1000000000002000 + fld 320 24 1
    + fld 344 16 4 + fld 360 32 4 + fld 392 24 4)

def collRec (op : Nat) : List Byte := record op (fld 64 64 0x1000000000000000 + fld 128 12 1)
def withList (s : State) (d : List Byte) : State := hbmWrite s 0 0 (d ++ leBytes 64 0)

/-- HostCommands: launch, copy, collective, reshard, barrier, fence and pitch. -/
theorem test_hyp_commands :
    let la := record 1 (fld 96 25 1)
    let cp := record 2 (fld 128 64 0x1000000000000000 + fld 192 64 0x1000000000001000 + fld 256 32 4)
    let s (r : List Byte) : State := queued r
    (∀ r ∈ [la, cp, collRec 3, collRec 4, record 5 (fld 64 2 1), record 6 0, record 7 (fld 144 16 20)],
      nextStart (s r) 0 = some (newCmd 0 0 r) ∧ findCmd (s r) 0 0 = some (newCmd 0 0 r) ∧ freePlaces (s r) (complRing (s r) 0) ≠ 0) ∧
      launchReady (s la) (newCmd 0 0 la) = true ∧ launchCores (s la) (newCmd 0 0 la) = [(0, 0)] ∧
      copySrcHost cp = false ∧ copyDstHost cp = false ∧ (readRange (s cp) (some 0) (copySrc cp) (copyLen cp)) = some [0, 0, 0, 0] ∧
      (writeRange (s cp) (some 0) (copyDst cp) [0, 0, 0, 0]).2 = true ∧
      (readRange (withList (s (collRec 3)) redDesc) (some 0) (listEntry (collRec 3) 0) 128) = some (redDesc ++ leBytes 64 0) ∧
      ownerOfSite (s (collRec 3)) 0 = ringPart (s (collRec 3)) 0 ∧ absorbsSite (s (collRec 3)) 0 = false ∧
      absent (s (collRec 3)) (epMem 0) = false ∧
      dfield (hostDesc (redDesc ++ leBytes 64 0) 0 0) 3 0 = 1 ∧ commonOk (hostDesc (redDesc ++ leBytes 64 0) 0 0) = true ∧
      dfield (hostDesc (redDesc ++ leBytes 64 0) 0 0) 7 4 = 1 ∧ redOpenOk (hostDesc (redDesc ++ leBytes 64 0) 0 0) = true ∧
      stream (s (collRec 3)) 0 0 = none ∧ relayoutOk (hostDesc (relDesc ++ leBytes 64 0) 0 0) = true ∧
      (msite (s (collRec 4)) 0).relq.length < 16 ∧ fenceDone (s (record 6 0)) (newCmd 0 0 (record 6 0)) = true := by
  (repeat' apply And.intro) <;> decide +kernel

/-- HostCommands: a fence that waits for a launch before it. -/
theorem test_hyp_fence :
    let f := { newCmd 0 1 (record 6 0) with idx := 1 }
    let s : State := { queued (record 6 0) with host := { hostUp.host with cmds := [launched, f], nextCmd := 2 } }
    nextStart s 0 = some f ∧ fenceDone s f = false := by
  (repeat' apply And.intro) <;> decide +kernel

/-- AbortsQueriesAndTokens: an abort of a queued command, a query, and the only token of a launch. -/
theorem test_hyp_aborts :
    let s := queued (record 6 (fld 32 32 9))
    let a := record 8 (fld 96 32 9)
    let q := record 9 (fld 64 4 1 + fld 192 64 0x1000000000000000)
    let m : Cmd := { launched with left := [0] }
    let u : State := { withCore 0 { running with st := .report, launch := some (0, 0) } with
      host := { HostSt.reset with cmds := [m] } }
    (cring s 0).state = 1 ∧ ringAccepts s 0 = true ∧ checkRec s 0 a = 0 ∧ checkRec s 0 q = 0 ∧
      placesNeeded s 0 a ≤ freePlaces s (complRing s 0) ∧ (∀ c ∈ s.host.cmds, c.idx < s.host.nextCmd) ∧
      abortOf s a = some (newCmd 0 0 (record 6 (fld 32 32 9))) ∧ queryKind q = 1 ∧ copyDstHost q = false ∧
      (writeRange s (some (ringPart s 0)) (copyDst q) (queryBytes s 0 q)).2 = true ∧
      (core u 0).st = .report ∧ (core u 0).launch = some (0, 0) ∧ findCmd u 0 0 = some m ∧ 0 ∈ m.left ∧ m.left.erase 0 = [] := by
  (repeat' apply And.intro) <;> decide +kernel

/-- EngineDescriptors: what each engine accepts, its start, its end, and the moment of a stream's timeout. -/
theorem test_hyp_engines :
    let qd (b : Bool) : QDesc := ⟨relDesc, 0, b, 0, 0, [], .clean, false, false, none⟩
    let s (b : Bool) : State := { up with msites := [(0, { MSite.reset with relq := [qd b] })] }
    let u : State := { atSite up with prc := usTicks 1000 }
    maySubmit up 0 0 = true ∧ absorbsSite up 0 = false ∧ absent up (epMem 0) = false ∧ dfield redDesc 3 0 = 1 ∧
      commonOk redDesc = true ∧ dfield redDesc 7 4 = 1 ∧ redOpenOk redDesc = true ∧ stream up 0 (redStream redDesc) = none ∧
      stream (atSite up) 0 0 ≠ none ∧ keysRise (msite (atSite up) 0).streams = true ∧ gatherOk (gatDesc 1) = true ∧
      gatherOk (gatDesc 2) = true ∧ relayoutOk relDesc = true ∧ commonOk relDesc = true ∧
      headDesc (s false) 0 (engNo .relayout) = some (qd false) ∧
      relayoutWork (s false) 0 relDesc = [(⟨.rem 0x1000000000000000, .rem 0x1000000000001000, 4⟩, 4)] ∧
      (resolve up (some 0) 0x1000000000000000).isSome = true ∧ (resolve up (some 0) 0x1000000000001000).isSome = true ∧
      descDone (s true) 0 (engNo .relayout) = true ∧
      streamDone { up with msites := [(0, { MSite.reset with streams := [(0, { redStreamOf with written := 4 })] })] } 0 0 = true ∧
      stream u 0 0 = some redStreamOf ∧ redStreamOf.lastPrc + usTicks redStreamOf.window ≤ u.prc ∧
      ({ u with prc := u.prc - 1 } : State).prc < redStreamOf.lastPrc + usTicks redStreamOf.window := by
  (repeat' apply And.intro) <;> decide +kernel

/-- MemorySiteEvents: the last line of a stack, and a refresh that has waited for four intervals. -/
theorem test_hyp_memory_site : lockedOut up 0 31 4 = false ∧ hbmLines - 1 < hbmLines ∧
    lockedOut up 0 (chanOf (64 * (hbmLines - 1))) 4 = false ∧ drillWith up 7 0 = false ∧
    usTicks (dget up 0xA000 1) < usTicks (dget up 0xA000 1) + 1 ∧ lockedOut up 0 0 0 = false ∧
    keysRise (msite up 0).refWait = true ∧ agetD 5 0 ({ MSite.reset with refWait := [(5, 4)] } : MSite).refWait = 4 := by
  (repeat' apply And.intro) <;> decide +kernel

/-! ## Hypotheses that are met: clocks and power -/

/-- ReferenceAndCounters: the bounds of 200 ppm and of 10 us, a mesh that is locked and one that relocks, and the firmware. -/
theorem test_hyp_reference :
    let s (t : Nat) : State := { up with prc := t, clk := { up.clk with refBadAt := some 0 } }
    refState up = 0 ∧ refState up ≠ 1 ∧ 3125 ≤ 2 * ((s 1563).prc - (s 1563).clk.refBadAt.getD (s 1563).prc) ∧
      2 * ((s 1562).prc - (s 1562).clk.refBadAt.getD (s 1562).prc) < 3125 ∧ firmwareUp up = true ∧ firmwareUp State.reset = false ∧
      up.mgmt.bus.taken = false ∧ firmwareUp held = true ∧ held.mgmt.bus.taken = true ∧ (200 : Int) < 201 ∧ ¬((200 : Int) < 200) ∧ refState (upWith 0x4000 5 2) = 2 := by
  (repeat' apply And.intro) <;> decide +kernel

/-- StepChanges: an arm, an armed change of one die with and without its acknowledgement, a stopped one, a late die. -/
theorem test_hyp_changes :
    let g : Change := ⟨some 0, 1, 0, [0], false, true⟩
    let s (g : Change) : State := { up with prc := 1000, clk := { up.clk with change := some g } }
    mayArm up = true ∧ up.pwr.quench = none ∧ (1 : BitVec 4).toNat ≠ up.clk.step ∧ (15 : BitVec 4).toNat ≤ up.pwr.limits.step ∧
      g.covers 0 = true ∧ g.at_ ≤ (s g).prc + usTicks 5 ∧ firstMissing (s g) g = none ∧
      firstMissing (s g) { g with acks := [] } = some 0 ∧ rises (s g) g = true ∧ rises (s g) { g with step := 0 } = false ∧
      g.at_ + 320 ≤ (s g).prc ∧ (s { g with die := none, stopped := true }).clk.change = some { g with die := none, stopped := true } ∧
      (let v (t : Nat) : State := { up with prc := t, pwr := { up.pwr with slowRise := true, riseSince := some 0 } }
       slowOk (v (10 * secTicks)) = true ∧ slowOk (v 0) = false ∧ (1 : BitVec 4).toNat = up.clk.step + 1) ∧
      [((0 : Nat), (10 : Nat))].find? (fun x => x.1 == (0 : DieNo).val) = some (0, 10) ∧ 10 + 640 ≤ (s g).prc := by
  (repeat' apply And.intro) <;> decide +kernel

/-- PowerControllers: a limiter above its limit and one below 95 percent of it, a region with and without spare slices. -/
theorem test_hyp_power :
    let s (thr w : Nat) : State := { up with prc := usTicks 5, pwr := { up.pwr with rails := [(0, { Rail.reset with thr := thr, win := [w] })] } }
    let x : RegionPwr := { RegionPwr.reset with failed := [0, 1, 2, 3], skipping := true }
    (limiter (s 2 200000) 0 2).thr ≠ 0 ∧ (limiter (s 2 200000) 0 2).limit < meanOf (limiter (s 2 200000) 0 2).win ∧
      (limiter (s 2 200000) 0 2).thrAt + usTicks 1 ≤ (s 2 200000).prc ∧
      100 * meanOf (limiter (s 2 1) 0 2).win < 95 * (limiter (s 2 1) 0 2).limit ∧ (rail up 0).thr = 0 ∧
      (region up 0).pstate = 0 ∧ (region up 0).skipping = false ∧ x.skipping = true ∧ 0 ∉ (region up 0).failed ∧
      (region up 0).failed.length < 4 ∧ 4 ∉ x.failed ∧ 4 ≤ x.failed.length ∧ x.pstate ≠ 3 ∧ firmwareUp up = true ∧
      (rail up 0).silent = false ∧ 63 ∉ (rail up 0).bumps ∧ isMemSite 0 = false ∧ 512 < (513 : BitVec 16).toNat := by
  (repeat' apply And.intro) <;> decide +kernel

/-- RegionStates. -/
theorem test_hyp_regions :
    let s (x : RegionPwr) : State := { up with prc := usTicks 200, pwr := { up.pwr with regions := [(0, x)] } }
    let r : RegionPwr := { RegionPwr.reset with pstate := 1, wake := true }
    (region (s r) 0).wake = true ∧ (region (s r) 0).pstate = 1 ∧ (region (s r) 0).head = .none ∧ powered (s r) = true ∧
      headFits (s r) 0 = true ∧ (region (s { r with head := .waiting 0 false }) 0).head = .waiting 0 false ∧
      0 + usTicks 200 ≤ (s r).prc ∧ (region (s { r with head := .granted (some 0) }) 0).head = .granted (some 0) ∧
      (region (s { r with head := .granted none }) 0).head = .granted none ∧
      partOfRegion (upWith 0x6100 0x10 1) 0 < 16 ∧ dget (upWith 0x6100 0x10 1) (0x6100 + partOfRegion (upWith 0x6100 0x10 1) 0) 0x10 ≠ 0 ∧
      regionIdle (upWith 0x6100 0x10 1) 0 = true ∧ hinted (upWith 0x6100 0x10 1) 0 = false ∧
      tempers (upWith 0x2000 7 1) = true ∧ siteOfRegion 0 ∉ up.clk.pinned ∧ perturbed up 0 = 0 ∧ drilledRegion up 0 = false ∧
      (upWith 0x2000 7 1).pwr.temperEnd ≤ (upWith 0x2000 7 1).prc ∧ panelReady (upWith 0x2000 7 1) = true ∧
      keysRise up.pwr.regions = true := by
  (repeat' apply And.intro) <;> decide +kernel

/-- A railful of power on die 0 does not leave room for a region. -/
theorem test_hyp_headroom : headFits { up with pwr := { up.pwr with rails := [(0, { Rail.reset with win := [120000] })] } } 0 = false := by
  decide +kernel

/-- HintsReportsAndCaps. -/
theorem test_hyp_hints :
    let h : Hint := ⟨0, 0, [0], 1, 0, 10, false, none, []⟩
    let s : State := { up with prc := 10, pwr := { up.pwr with hints := [h] } }
    let b : HubBlock := ⟨0, 0, 0, 0, 1, true, true, true, true, true, 1⟩
    findHint s 0 = some h ∧ h.start ≤ s.prc + usTicks 50 ∧ h.stop ≤ s.prc ∧ dget up (0x2400 + 719) 1 = 0 ∧
      dget (upWith 0x2400 1 1) 0x2400 1 = 1 ∧ keysRise up.pwr.reports = true ∧ firmwareUp up = true ∧ up.tray.assigned = true ∧
      held.mgmt.bus.taken = true ∧ held.tray.assigned = true ∧ bit (dget up 0x8030 2) 4 = false ∧ b.ver = 1 ∧ b.seq.toNat ≠ up.tray.seq ∧ up.pwr.trayLost = false ∧
      ({ up.tray with outletBad := some 0 } : TraySt).outletBad = some 0 ∧ 0 + secTicks ≤ ({ up with prc := secTicks } : State).prc ∧
      mayArm up = true ∧ up.pwr.hints = [] ∧ dget (upWith 0x4000 3 1) 0x4000 3 < 2 ∧ capNow up < 15001 ∧
      90 * capNow up ≤ 100 * capNow up ∧ siteOfDie 0 ∉ up.health.lostDies ∧ keysRise up.health.missed = true := by
  (repeat' apply And.intro) <;> decide +kernel

/-- HeatAndPowerLoss: above 100 C for 1 ms, below 92 C for 1 s, conditions held for 5 s, and the first temperature that trips. -/
theorem test_hyp_heat :
    let r : Rail := { Rail.reset with hotSince := some 0 }
    let c : Rail := { Rail.reset with hotPin := true, coolSince := some 0 }
    let s (x : Rail) : State := { up with prc := 5 * secTicks, pwr := { up.pwr with rails := [(0, x)], quench := some 0, liftSince := some 0 } }
    powered (s r) = true ∧ (rail (s r) 0).hotPin = false ∧ (rail (s r) 0).hotSince = some 0 ∧ (800 : Int) < 801 ∧
      0 + usTicks 1000 ≤ (s r).prc ∧ (rail (s c) 0).hotPin = true ∧ (rail (s c) 0).coolSince = some 0 ∧ 0 + secTicks ≤ (s c).prc ∧
      up.pwr.quench = none ∧ 0 + 5 * secTicks ≤ (s r).prc ∧ (s r).pwr.liftSince = some 0 ∧ (920 : Int) < 921 ∧
      powered State.reset = false ∧ (rail up 0).hotPin = false ∧ up.pwr.quench = none ∧ ({ up.pwr with quench := some 0 } : PwrSt).quench = some 0 := by
  (repeat' apply And.intro) <;> decide +kernel

/-! ## Hypotheses that are met: boots, health and management -/

/-- BootsAndPartitions: each cause of a boot that stops, a warm reset, a boot that waits, and the life of partition 1. -/
theorem test_hyp_boots :
    let none2 : State := { State.reset with mgmt := { MgmtSt.reset with slots := [] } }
    let wait (w : Bool) : State := { up with parts := { up.parts with booting := some (w, fine) } }
    State.reset.parts.booting = none ∧ ({ fine with pufOk := false } : BootObs).pufOk = false ∧
      ({ fine with floorsOk := false } : BootObs).floorsOk = false ∧ slotFault (coldClear fine none2) 0 0 ≠ none ∧
      ({ fine with refPresent := false } : BootObs).refPresent = false ∧
      slotFault (coldClear fine State.reset) 0 (activeSlot (coldClear fine State.reset) 0) = none ∧
      (coldClear fine none2).mgmt.slots = [] ∧ mayWarm up = true ∧ (wait false).mgmt.romHalt = none ∧ powered (wait false) = true ∧
      (wait true).parts.booting = some (true, fine) := by
  (repeat' apply And.intro) <;> decide +kernel

theorem test_hyp_partitions :
    let s (st : Nat) : State := { up with
      dict := [(0x600001, 2), (0x610002, 0x00000000), (0x610102, 0x01010101), (0xA10003, 0), (0xA10103, 1)],
      parts := { up.parts with st := [(0, 3), (1, st)], owners := [] } }
    let r : RunReset := ⟨4, 1, 0, 0, none⟩
    let w : RunReset := { r with swept := some 0 }
    let u (r : RunReset) (t : Nat) : State := { s 5 with prc := t, parts := { (s 5).parts with resets := [r] } }
    defineOk (s 1) 1 (.rect 0x0B130101) = true ∧ defineOk (s 0) 2 (.sites 0x8000) = true ∧ defineOk (s 1) 1 (.owner 7) = true ∧
      mayStart (s 1) 1 = true ∧ panelReady (s 1) = true ∧ handedOver (s 1) 1 ≠ [] ∧ keysRise (s 1).parts.st = true ∧
      partSt (s 2) 1 = 2 ∧ aget (1 : PartNo).val (s 2).parts.waiting = none ∧ 0 < (diesOfPart (s 2) 1).length ∧ 0 < (sitesOf (s 2) 1).length ∧
      runReset (s 3) 4 1 = none ∧ partSt (s 3) 1 = 3 ∧ runReset (u r 0) 4 1 = some r ∧ partSt (u r 0) 1 = 5 ∧ r.swept = none ∧
      panelReady (u r 0) = true ∧ runReset (u w 0) 4 1 = some w ∧ 0 + twiceTimeout (u w (10 ^ 9)) ≤ (u w (10 ^ 9)).prc ∧
      (u w 0).prc < 0 + twiceTimeout (u w 0) ∧ 0 < (coresOfPart (u r 0) 1).length ∧ 0 < (regionsOfPart (u w 0) 1).length ∧ partSt (s 1) 1 = 1 := by
  (repeat' apply And.intro) <;> decide +kernel

/-- The panel with the position of core 0 fenced and the spare of its cluster free. -/
def fencedPos : State := { up with health := { up.health with repair := [(0, factoryRepair + 2 ^ 40)] } }

theorem test_hyp_spare : clusterIdle fencedPos 0 = true ∧ fencedPos.parts.resets = [] ∧ partSt fencedPos (partOfCore fencedPos (8 * 0)) ≠ 4 ∧
    partSt fencedPos (partOfCore fencedPos (8 * 0)) ≠ 5 ∧ fencedPos.health.exchange = [] ∧ needsSwitch fencedPos (8 * 0 + 0) = true ∧
    (∀ i : Fin 8, i ≠ 0 → needsSwitch fencedPos (8 * 0 + i.val) = false) ∧ bits (repairWord fencedPos 0) 35 32 ≠ 15 ∧
    panelReady fencedPos = true := by
  (repeat' apply And.intro) <;> decide +kernel

/-- HealthObservations. -/
theorem test_hyp_health :
    let s : State := { upWith 0x7000 4 16 with health := { up.health with missed := [(0, 3)], probes := [(0, 2), (16406, 2)] } }
    let b : State := { up with host := { up.host with belay := [(0, .start ⟨0, 0, 0, 0, 0, 0, 0, false, false, false, false, 0, 0⟩)] } }
    keysRise up.health.hourTiles = true ∧ coreOfPcid up 0 = some 0 ∧ maySweep up 0 = true ∧
      (∀ c ∈ coresOfRegion 0, coreGated up c = false → (core s c).st = .idle ∧ sweepOpen s c = true) ∧ diePerturbed s (siteOfRegion 0) = false ∧
      dget s 0x7000 4 ≠ 0 ∧ maySweep s 0 = true ∧ pcidOf s 0 ∈ [(0 : BitVec 14)].map BitVec.toNat ∧ powered s = true ∧
      siteOfDie 0 ∉ s.health.lostDies ∧ probesOf s (16384 + (0 : SiteNo).val) < 3 ∧ isMemSite (0 : SiteNo) = false ∧
      dieOfSite (0 : SiteNo) = (0 : BitVec 14).toNat / 64 ∧ probesCore s (0 : BitVec 14).toNat = true ∧ probesOf s (0 : BitVec 14).toNat = 2 ∧
      coreOfPcid s (0 : BitVec 14).toNat = some 0 ∧ coreGated s 0 = false ∧ isMemSite (22 : SiteNo) = true ∧
      probesOf s (16384 + (22 : SiteNo).val) = 2 ∧ startComes up 0 = false ∧ startComes b 0 = true ∧ maySweep b 0 = true ∧
      agetD (22 : SiteNo).val 0 s.health.missed < 3 ∧ 3 ≤ agetD (22 : SiteNo).val 0 ({ s.health with missed := [(22, 3)] } : HealthSt).missed := by
  (repeat' apply And.intro) <;> decide +kernel

/-- HealthObservations: a core whose progress is a window old, and the tick before; and a die with missing heartbeats. -/
theorem test_hyp_liveness :
    let w := usTicks (1000 * dget up 0x7000 6)
    let s (t : Nat) (e : List Nat) : State := { busy0 with prc := t, health := { up.health with progress := [(0, (0, 0))], episodes := e } }
    let m (n : Nat) : State := { up with health := { up.health with missed := [(0, n)] } }
    siteOfDie (dieOfCore 0) = 0 ∧ agetD 0 0 (s w []).health.missed = 0 ∧ (core (s w []) 0).st = .run ∧
      aget (0 : CoreId).val (s w []).health.progress = some (0, 0) ∧ 0 + w ≤ (s w []).prc ∧ (s (w - 1) []).prc < 0 + w ∧
      (0 : CoreId).val ∉ (s w []).health.episodes ∧ (0 : CoreId).val ∈ (s w [0]).health.episodes ∧
      (∀ k ∈ List.range 32, probesOf (m 3) (pcidOf (m 3) (32 * dieOfCore 0 + k)) = 0) ∧ 3 ≤ agetD 0 0 (m 3).health.missed ∧
      agetD 0 0 (m 2).health.missed < 3 ∧ powered (s w []) = true ∧ (0 : DieNo).val ∉ (s w []).health.lostDies ∧
      (aget (0 : CoreId).val (s w []).cores).isSome = true ∧ inTask (core (s w []) 0) = true ∧
      progressCount (withCore 0 { running with cyc := 5 }) 0 ≠ 0 := by
  (repeat' apply And.intro) <;> decide +kernel

/-- FleetActions: a position in each condition, and a pending quarantine. -/
theorem test_hyp_actions :
    let s (k : Nat) : State := { up with health := { up.health with recs := [(0, k)] } }
    let u : State := { up with health := { up.health with action := some (actionWord 2 0) } }
    up.health.action = none ∧ pcidOk 0 = true ∧ pcidOk 14328 = true ∧ (∀ k ∈ [0, 1, 2, 3, 4], condOf (s k) 0 = k) ∧
      bits (repairWord (s 1) 0) 35 32 ≠ 15 ∧ 15 ∉ up.health.lostSites ∧ 15 ∉ up.health.retired ∧ fenced up 239 3 = false ∧
      u.health.action ≠ none ∧ u.health.action = some (actionWord 2 0) ∧ condOf u 0 ≤ 1 ∧ actionIdle u = true ∧ panelReady u = true := by
  (repeat' apply And.intro) <;> decide +kernel

/-- A drill record of kind 2 on core 0's position with the shortest window, at the first time that is allowed. -/
def drill2 : DrillRec := ⟨1, 2, 0xF, 0, 100, BitVec.ofNat 64 secTicks, 1, 0⟩

/-- DrillsAndPerturbations. -/
theorem test_hyp_drills :
    let d : DrillSlot := ⟨drill2, 1, 1, 0⟩
    let s : State := { up with health := { up.health with drills := [(0, d)] } }
    let h : HealthSt := { up.health with drills := [(0, { d with st := 2 })], window := some (0, 0), pertAt := [(0, 0)] }
    let u : State := { up with prc := usTicks 100000, health := h }
    aget 0 up.health.drills = none ∧ inBivouac up = false ∧ perturbActive up = false ∧ drillRecOk up drill2 = true ∧
      (∀ p ∈ drillParts up drill2, partOff up p = false) ∧ aget (0 : Fin 8).val s.health.drills = some d ∧ d.next ≤ s.prc ∧
      panelReady s = true ∧ s.mgmt.bus.taken = false ∧ held.mgmt.bus.taken = true ∧ panelReady held = true ∧ s.pwr.quench = none ∧ s.health.window = none ∧ d.rec_.kind.toNat ∈ [1, 2, 4, 7] ∧
      u.health.window = some ((0 : Fin 8).val, 0) ∧ aget (0 : Fin 8).val u.health.drills = some { d with st := 2 } ∧
      0 + usTicks (1000 * d.rec_.window.toNat) ≤ u.prc ∧ drillRegion { drill2 with kind := 6 } = some 0 ∧
      hasPert (0 : DieNo) (pertNo .pwr) = true ∧ hasPert (240 : DieNo) (pertNo .lnk) = true ∧ drillArmed up = false ∧
      pertOk up 0 (pertNo .pwr) (pertMask (pertNo .pwr) 20) = true ∧ marginBlocked up 0 (pertNo .pwr) (pertMask (pertNo .pwr) 20) = none ∧
      aget (3 * (0 : DieNo).val + pertNo .rtr) u.health.pertAt = some 0 ∧
      0 + dget up 0x7A00 1 * secTicks ≤ ({ up with prc := dget up 0x7A00 1 * secTicks } : State).prc := by
  (repeat' apply And.intro) <;> decide +kernel

/-- A session of level 2, and one of level 0 with a handshake open. -/
def session (level : Nat) : Session := ⟨1, 7, level, [], [], none, 0, [], []⟩
def talking : State :=
  { up with
    prc := 60 * secTicks,
    mgmt := { up.mgmt with
      sessions := [session 2], shakes := [⟨2, 7, 0, [], [], [], [], 0⟩], stage := some (.session 1, 1, []), blocked := [(9, 0)],
      mon := { up.mgmt.mon with unlocked := some 0 } } }

/-- Management: staging, a cut-off, and locks. -/
theorem test_hyp_management :
    let lockedPort : State := dset talking 0x8030 2 8
    privileged lockedPort 1 = true ∧ bit (dget lockedPort 0x8030 2) 3 = true ∧ bit (dget talking 0x8030 2) 3 = false ∧
    talking.mgmt.bus.taken = false ∧ privileged { talking with mgmt := { talking.mgmt with bus := held.mgmt.bus } } 1 = true ∧
    dget up 0x8030 1 < dget up 0x8030 1 + 1 ∧ firmwareUp up = true ∧ privileged talking 1 = true ∧ dget talking 0x6000 1 ≠ 3 ∧
    talking.mgmt.stage = some (.session 1, 1, []) ∧ up.mgmt.stage = none ∧ ([] : List Byte).length + 8 ≤ 2 ^ 23 ∧
    (putBundle up 1 []).2 ≠ none ∧ bit (dget (upWith 0x8030 2 0x21) 0x8030 2) 5 = true ∧ bit (dget (upWith 0x8030 2 0x21) 0x8030 2) 0 = true ∧
    talking.mgmt.bus.fwCut + usTicks 10000 ≤ talking.prc ∧ licFault up [] ≠ none := by
  (repeat' apply And.intro) <;> decide +kernel

/-- CairnSessions: a hello of level 0, one of a version that does not exist, a finish, a read, its repetition and an earlier one. -/
theorem test_hyp_sessions :
    let head : List Byte := leBytes 8 (1 + 0x100000 * 2 ^ 8)
    firmwareUp up = true ∧ isBlocked up 7 = false ∧ ((within up 1 up.mgmt.hellos).filter fun e => e.1 == (7 : BitVec 48)).length < 4 ∧
      (within up 1 up.mgmt.hellos).length < 16 ∧ up.mgmt.shakes.length < 8 ∧
      helloFault { up with mgmt := { up.mgmt with identified := true } } ⟨1, 1, 0, List.replicate 32 0, [], []⟩ = none ∧
      helloFault { up with mgmt := { up.mgmt with identified := true } } ⟨2, 2, 0, List.replicate 32 0, [], []⟩ = some 1 ∧
      helloFault up ⟨1, 1, 0, List.replicate 32 0, [], []⟩ = some 4 ∧
      (held.mgmt.bus.taken && opsNeedBus 2 (leBytes 8 (1 + 0x111001 * 2 ^ 8))) = true ∧
      (up.mgmt.bus.taken && opsNeedBus 2 (leBytes 8 (1 + 0x111001 * 2 ^ 8))) = false ∧
      (talking.mgmt.shakes.find? fun h => h.sid == 2 && h.mac == 7) = some ⟨2, 7, 0, [], [], [], [], 0⟩ ∧
      finishOk ⟨2, 7, 0, [], [], [], [], 0⟩ [] = true ∧ talking.mgmt.sessions.length < 8 ∧
      (talking.mgmt.sessions.find? fun x => x.sid == 1 && x.mac == 7) = some (session 2) ∧ head.length = 8 ∧ leNat head % 256 = 1 ∧
      (1 : BitVec 32).toNat ≠ 0 ∧ (1 : BitVec 32).toNat ≠ 2 ^ 32 - 1 ∧ (session 2).last = none ∧
      findSession talking 1 = some (session 2) ∧ (session 2).at_ + dget talking 0x8000 5 * secTicks ≤ 10 ^ 15 ∧
      (talking.mgmt.shakes.find? fun h => h.sid == 2) = some ⟨2, 7, 0, [], [], [], [], 0⟩ ∧ 0 + secTicks ≤ talking.prc ∧
      (∀ e ∈ talking.mgmt.blocked, e.1 = 9 → e.2 + 60 * secTicks ≤ talking.prc) := by
  (repeat' apply And.intro) <;> decide +kernel

/-- SerialMonitor. -/
theorem test_hyp_monitor : up.tray.stbyOk = true ∧ (cairnRead up .monitor 0x6000 1).1 = 0 ∧ unlockLocked up = false ∧
    talking.mgmt.mon.unlocked ≠ none ∧ up.mgmt.mon.unlocked = none ∧ mayWarm talking = true ∧
    (cairnWrite up .monitor 0x5000 1 [100, 0, 0, 0]).2 = 0 ∧ up.mgmt.romHalt = none ∧
    ({ up.mgmt.mon with unlocked := some 0 } : MonSt).unlocked = some 0 ∧ 0 + 900 * secTicks ≤ ({ up with prc := 900 * secTicks } : State).prc ∧
    ({ up with prc := 900 * secTicks - 1 } : State).prc < 0 + 900 * secTicks ∧ up.host.ins = [] := by
  (repeat' apply And.intro) <;> decide +kernel

/-- MemoriesStayCanonical. -/
theorem test_hyp_memories : (withCore 0 running).memsWf = true ∧ gives (step up) (fun t => t.memsWf) = true := by
  (repeat' apply And.intro) <;> decide +kernel


/-! ## Worked examples of the spec: numbers -/

/-- Eight repeats of four E2M1 codes. -/
def block4 (cs : List Nat) : List Val := (List.replicate 8 cs).flatten.map (decodeVal .e2m1 true)

/-- The accumulator of the worked example of chapter 2, for an anchor. -/
def mxBlock (anchor : Int) : Acc := Acc.zero.block anchor (block4 [7, 3, 9, 5]) (block4 [1, 4, 6, 10]) 0x7D 0x80

/-- Worked example of chapter 2: the contribution 4.0 lands on bit 98. -/
theorem test_mx_block : mxBlock 0 = { Acc.zero with val := 2 ^ 98 } := by decide +kernel

/-- Worked example of chapter 2: to nearest 0x3A, toward zero 0x39, no flag. -/
theorem test_mx_readout : (mxBlock 0).convert 0 .e4m3 .near false 0x3E99999A = (0x3A, 0) ∧
    (mxBlock 0).convert 0 .e4m3 .zero false 0x3E99999A = (0x39, 0) := ⟨by decide +kernel, by decide +kernel⟩

/-- Worked example of chapter 2: stochastic rounding goes up from r = 0x6667. -/
theorem test_mx_stochastic : ((mxBlock 0).convert 0 .e4m3 (.stoch 0x6667) false 0x3E99999A).1 = 0x3A ∧
    ((mxBlock 0).convert 0 .e4m3 (.stoch 0x6666) false 0x3E99999A).1 = 0x39 := ⟨by decide +kernel, by decide +kernel⟩

/-- Worked example of chapter 2: with anchor 120 the result is +448, with the flags cvt_ovf and acc_inexact. -/
theorem test_mx_anchor : (mxBlock 120).convert 120 .e4m3 .near false 0x3E99999A = (0x7E, fCvtOvf ||| fAccInexact) := by
  decide +kernel

/-- Table 2.8: a NaN becomes 0x7FC00000 in FP32. -/
theorem test_nan_fp32 : (convVal .fp32 .near false .nan).1 = 0x7FC00000 := by decide +kernel

/-- Worked example of chapter 7: 2^24 + 1 + 1 - 2^24 in FP32, in table order, is +0. -/
theorem test_reduce_sum : sumFp32 [0x4B800000, 0x3F800000, 0x3F800000, 0xCB800000] = 0 := by decide +kernel

/-- Worked example of chapter 4: the stationary and the output descriptor. -/
theorem test_descriptors : descOf 0x0200170800000000 0x0000010000000000 = ⟨0, 0x8000, 7, true, false, false, 1024, 0, 0, 1⟩ ∧
    descOf 0x0000030000010000 0x000001003E99999A = ⟨0x10000, 0, 3, false, false, false, 0, 0x3E99999A, 0, 1⟩ :=
  ⟨by decide +kernel, by decide +kernel⟩

/-! ## Worked examples of the spec: instruction words and cell headers -/

/-- Worked example of chapter 4: the mload, mmul and mread words of the tile. -/
theorem test_words_matrix :
    wordInstr 0 0x11014000000000000000000000000000 .none = some (.mload 0 ⟨8, 0, false, 0, false, false, 0⟩ .none) ∧
    wordInstr 0 0x110257E0800000000000000000000000 .none = some (.mmul 0 ⟨10, 31, true, 0, false, false, 0x80⟩ .none) ∧
    wordInstr 0 0x110367C0000000000000000000000000 .none = some (.mread 0 ⟨12, 31, false, 0, false, false, 0⟩ .none) := by
  (repeat' apply And.intro) <;> decide +kernel

/-- Worked example of chapter 4: mcopy on channel 2 to the address in s21, and bne s6, s7 back by six words. -/
theorem test_words_move_control :
    wordInstr 0 0x3101482A086000000800010000000000 .none =
      some (.mcopy 0 ⟨2, false, true, 0, 21, 0, true, 3, false, 0, 0x800, 0x10000, 0⟩) ∧
    wordInstr 0 0x5111018E00000000FFFFFFFFFFFFFFA0 .none = some (.bne 0 ⟨0, 6, 7, false, 0xFFFFFFFFFFFFFFA0⟩) := by
  (repeat' apply And.intro) <;> decide +kernel

/-- Tables 4.10 and 4.15, bit by bit: vfma v1, v2, v3, v4 under p5 in FP32, toward zero; ewait e2 of s3 + 4. -/
theorem test_words_vector_sync :
    wordInstr 0 (0x2113 <<< 112 ||| 1 <<< 107 ||| 2 <<< 102 ||| 3 <<< 97 ||| 4 <<< 92 ||| 5 <<< 89 ||| 1 <<< 88 ||| 1 <<< 77) .none =
      some (.vfma 0 ⟨1, 2, 3, 4, 5, true, 0, 0, false, 1, false, 0, false, 0, 0, 0⟩ .none) ∧
    wordInstr 0 (0x4103 <<< 112 ||| 2 <<< 106 ||| 3 <<< 101 ||| 4 <<< 64) .none = some (.ewait 0 ⟨2, 3, 0, 4⟩) := by
  (repeat' apply And.intro) <;> decide +kernel

/-- R115 to R117: a word of zeros, one of version 2 and one of an opcode that no table lists are no instructions. -/
theorem test_words_illegal : isInstruction 0 = false ∧ isInstruction (0x1201 <<< 112) = false ∧ isInstruction (0x1104 <<< 112) = false := by
  (repeat' apply And.intro) <;> decide +kernel

/-- Worked example of chapter 6: the first four bytes of the headers of cells 0 and 2. -/
theorem test_cell_header :
    let x : Cell := { cellOf 1 0x0A55 0x0F6A 0x24000 (List.replicate 48 7) with
      half := true, lb := 48, l1s0 := 0x01, l1s1 := 0x22, l1s2 := 0x02, tag := 0x1C5, cnt := 2 }
    (Cell.image x).take 4 = [0x01, 0x84, 0x00, 0x07] ∧
      Cell.header { x with lb := 4, idx := 2, offset := 0x24060 } % 2 ^ 32 = 0x04408401 ∧ cellOfImage (Cell.image x) = x := by
  (repeat' apply And.intro) <;> decide +kernel

/-! ## Worked examples of the spec: places and routes -/

/-- Chapter 1: the cell die at (8,4) has index 82 and site number 88 (chapter 16); core 0x0A55 lies on it. -/
theorem test_die_82 : siteOfDie 82 = 88 ∧ dieOfSite 88 = 82 ∧ dieOfCore 0x0A55 = 82 ∧ siteOfDie 123 = siteAt 11 6 := by
  decide +kernel

/-- Worked example of chapter 6: with level 3 east of (9,4) and level 2 north of (8,4), the NI writes E1 N2 E2 on half 1. -/
theorem test_route : (leastRank (candidates [] [(88, 160), (89, 15)] 0x0A55 0x0F6A true)).map Prod.snd =
    some ⟨[(.east, 1), (.north, 2), (.east, 2)], true⟩ := by decide +kernel

/-- The same example: its four candidate routes and no other. -/
theorem test_candidates : ((candidates [] [] 0x0A55 0x0F6A true).filterMap fun c => if c.2.half then some c.2.path else none) =
    [[(.east, 3), (.north, 2)], [(.north, 2), (.east, 3)], [(.east, 1), (.north, 2), (.east, 2)],
      [(.north, 1), (.east, 3), (.north, 1)]] := by decide +kernel

/-- The same example: the segment fields 0x01, 0x22 and 0x02. -/
theorem test_segments : [segCode (.east, 1), segCode (.north, 2), segCode (.east, 2)] = [0x01, 0x22, 0x02] := by decide +kernel

/-- A torus of 16 x 16 x 16, seen from panel (2,5,0). -/
def torus : State :=
  { up with links := { up.links with topo := { up.links.topo with shape := 3, nx := 16, ny := 16, nz := 16, x := 2, y := 5, z := 0 }, exitMap := 0xFFFFFF } }

/-- Worked example of chapter 8: dx = -5, dy = 0, dz = 1, and the way out W9 to link die 21. -/
theorem test_torus_route : (routeCell torus { cellOf 1 0x0A55 0 0 [] with tag := 0x1C5 } 13 5 1).map
      (fun x => (x.dx, x.dy, x.dz, x.l1s0, x.l1s1, x.l3s0)) = some (0x1B, 0, 1, 0x49, 0, 0x7F) := by decide +kernel

/-- Worked example of chapter 7: where byte 0x12_3456_7ABC of space 0x0 of a partition with sites 4, 5, 8 and 9 stands. -/
def sites4 : State :=
  { up with dict := [(0xA10403, 1), (0xA10503, 1), (0xA10803, 1), (0xA10903, 1)], parts := { PartSt.reset with st := [(1, 3)] } }

theorem test_hbm_address : (resolve sites4 (some 1) 0x0000001234567ABC).map (fun d => (d.ep, d.off)) =
    some (epMem 9, 0x48D159ABC) := by decide +kernel

/-! ## Worked examples of the spec: the host interface and the records -/

/-- Worked example of chapter 5, step 4: the third PUSH of 1,536 bytes finds 4,096 free. -/
theorem test_ring_wrap : gives (execSpmRingPush 0 3 1536 (withCore 0 { Core.reset with rings :=
      [(3, { Ring.off with base := 0x40000, size := 0x1000, head := 3072, tail := 3072, prod := true, cons := false })] }))
    (fun t => let r := (core t 0).ring 3; r.tail == 4096 + 512 && r.head == 3072 && r.used == 1536 && r.free == 2560) = true := by
  decide +kernel

/-- Worked example of chapter 9: the low half of the payload of an aborted launch, ring 5, cmd_id 0x41. -/
theorem test_abort_record : ((completionEv up 5 0x41 2 0 0 0 0).payload.toNat) % 2 ^ 64 = 0x0000050200000041 := by decide +kernel

/-- Worked example of chapter 15: volatile record 74,565 of 77,568 stands in slot 0x9134.06. -/
theorem test_log_slot : newestAt 77568 4096 837 = some 74565 ∧ 0x9100 + 837 / 16 = 0x9134 ∧ 837 % 16 + 1 = 6 := by
  decide +kernel

/-- Worked example of chapter 13: the repair word of a cluster whose spare serves core 2. -/
theorem test_action_word : actionWord 4 (0x1492 : BitVec 14) = 0x14924 := by decide +kernel

/-! ## Worked examples of the spec: clocks, power, faults, management -/

/-- Worked example of chapter 10: a rise from step 9 to 13 armed at 0x7735_9400 with the default lead. -/
theorem test_change_count :
    ((armChange { up with prc := 0x77359400, clk := { up.clk with step := 9 } } none 13).clk.change.map fun g => g.at_) =
      some 0x7735A035 := by decide +kernel

/-- Worked example of chapter 11: the estimate 48 K / 14,000 W gives a thermal cap of 17,500 W; after ten minutes 14,736 W (the
example rounds 14,736.8 W up); at 18 L/min of 24 the flow cap is 14,062 W (the example rounds 14,062.5 W up). -/
theorem test_caps : thermalCap { up with pwr := { up.pwr with inlet := some 280, rth := (48, 14000) } } = 17500 ∧
    thermalCap { up with pwr := { up.pwr with inlet := some 280, rth := (57, 14000) } } = 14736 ∧
    flowCap { up with pwr := { up.pwr with flow := some 1800, limits := { up.pwr.limits with power := 15000 } } } = 14062 := by
  decide +kernel

/-- Worked example of chapter 16: STATUS_MFR_SPECIFIC = 0x24 leaves six phases, and the rail limit is 90 A. -/
theorem test_rail_limit :
    let s := { up with pwr := { up.pwr with rails := [(88, { Rail.reset with phaseMask := 0x24, points := [6800, 0, 0, 0], vsel := 0 })], share := 1000000 } }
    (rail s 88).phases = 6 ∧ railLimit s 88 = 90000 := by decide +kernel

/-- Worked example of chapter 15: a session of level 1 writes the watchdog limit of partition 2. -/
def station : State :=
  { up with parts := { PartSt.reset with st := [(2, 1)] }, mgmt := { up.mgmt with sessions := [session 1] } }

def setLimit (v : Byte) : State × List Byte :=
  runOps 4 station (.session 1) (leBytes 8 0x0000000161020802 ++ [v, 0, 0, 0, 0, 0, 0, 0]) []

theorem test_request_ok : leNat (setLimit 26).2 = 0x0000000161020802 ∧ dget (setLimit 26).1 0x6102 8 = 26 := by decide +kernel
theorem test_request_range : leNat (setLimit 40).2 = 0x0003000161020802 ∧ dget (setLimit 40).1 0x6102 8 = 24 := by decide +kernel

/-! ## Results of single instructions -/

/-- ADD wraps; SLT is signed (Table 4.20). -/
theorem test_add_wraps : gives (execAdd 0 { ctl with rd := 1, ra := 2, im := true, imm := 1 } (regs [(2, 0xFFFFFFFFFFFFFFFF)]))
    (fun t => (core t 0).sreg 1 == 0) = true := by decide +kernel

theorem test_slt_signed : gives (execSlt 0 { ctl with rd := 1, ra := 2, im := true, imm := 0 } (regs [(2, 0x8000000000000000)]))
    (fun t => (core t 0).sreg 1 == 1) = true := by decide +kernel

/-- FP32 addition, and the sign of an exact zero (R57). -/
theorem test_fp_add : (fpAdd .near 0x3F800000 0x40000000).1 = 0x40400000 ∧ (fpSub .near 0x3F800000 0x3F800000).1 = 0 := by
  decide +kernel

/-- A signaling NaN operand is an invalid operation and a quiet one is not (R39; IEEE 754-2019, 7.2); infinity by zero is
infinity with vec_ovf (Table 4.12). -/
theorem test_fp_flags : (fpAdd .near 0x7F800001 0x3F800000).2 = fVecInvalid ∧ (fpAdd .near 0x7FC00000 0x3F800000).2 = 0 ∧
    fpDiv .near 0x7F800000 0 = (0x7F800000, fVecOvf) := by
  (repeat' apply And.intro) <;> decide +kernel

/-- R143: three rows of 10 bytes at a destination stride of 8 leave bytes 8, 9 and 16, 17 free, and no other. -/
theorem test_m2d_overlap : (List.range 3).map (rowOwn 10 3 8) = [(0, 8), (10, 16), (18, 26)] ∧
    (List.range 2).map (rowShared 10 3 8) = [(8, 10), (16, 18)] := by decide +kernel

/-- An eset with nothing before it in the sync queue takes effect at once (R96). -/
theorem test_eset : gives (execEset 0 ⟨1, 0, 0, 5⟩ busy0) (fun t => (core t 0).ev 1 == 5 && (core t 0).synq == []) = true := by
  decide +kernel

/-- FP32 division by zero gives infinity, zero by zero the NaN (Table 4.12). -/
theorem test_fp_div : (fpDiv .near 0x3F800000 0).1 = 0x7F800000 ∧ (fpDiv .near 0 0).1 = 0x7FC00000 := by decide +kernel

/-- The square root of 2 to nearest, and of -1. -/
theorem test_fp_sqrt : (fpSqrt .near 0x40000000).1 = 0x3FB504F3 ∧ (fpSqrt .near 0xBF800000).1 = 0x7FC00000 := by decide +kernel

/-- An E4M3 overflow saturates to +448 with ovf = 0, and gives the NaN with ovf = 1 (Table 2.8). -/
theorem test_e4m3_overflow : (convVal .e4m3 .near false (.fin false 1000 0)).1 = 0x7E ∧
    (convVal .e4m3 .near true (.fin false 1000 0)).1 = 0x7F := by decide +kernel
end Sys2Proof.Machine.Tests
end

/-!
Writes of registers from outside (R11, R12, R111, R162, R265): what a write at an offset does to a core, a scratchpad
window or a memory site, and what base-camp firmware's write of a number does to the dictionary.
-/
namespace Sys2Proof.Machine

open Sys2Proof

/-! ## One core, one memory site -/

theorem onlyCore_setCore (s : State) (c : Nat) (k : Core) : OnlyCore s (setCore s c k) c :=
  ⟨rfl, fun _ h => core_setCore_other s k h⟩

/-- Event counter j after a write to counter n. -/
theorem ev_setEv (k : Core) (n : Nat) (v : BitVec 32) (j : Nat) : (k.setEv n v).ev j = if j = n then v else k.ev j :=
  agetD_aput ..

/-! ## CORE_ and SPM_ offsets (Tables 3.11 and 5.1) -/

/-- The event counters stand at 0x200, eight bytes apart (R111). -/
theorem coreRegWrite_ev (s : State) (c : Nat) {i : Nat} (hi : i < 64) (v : Word) :
    coreRegWrite s c (0x200 + 8 * i) v = setCore s c ((core s c).setEv i (v.setWidth 32)) := by
  have hin : 0x200 + 8 * i < 0x400 := by omega
  simp [coreRegWrite, hin]

theorem coreRegWrite_astat (s : State) (c : Nat) (v : Word) :
    coreRegWrite s c 0x30 v = setCore s c { core s c with astat := (core s c).astat &&& ~~~v.setWidth 16 } := rfl

theorem coreRegWrite_state (s : State) (c : Nat) (v : Word) : coreRegWrite s c 0x10 v = s := rfl

/-- Offset a is place o of ring n's registers, which take 32 bytes for each ring from 0x100 (Table 5.1). -/
theorem ringReg_place {n o a : Nat} (hn : n < 16) (ho : o < 32) (ha : a = 0x100 + o + 32 * n) :
    (0x100 ≤ a ∧ a < 0x300) ∧ (a - 0x100) / 32 = n ∧ a % 32 = o := by
  omega

section
variable (s : State) (c : Nat) {n : Nat} (hn : n < 16) (v : Word)
include hn

theorem spmRegWrite_ringCfg : spmRegWrite s c (0x100 + 32 * n) v = ringCfg s c n v := by
  obtain ⟨hin, hno, hoff⟩ := ringReg_place hn (o := 0) (by decide) rfl
  simp only [spmRegWrite, if_pos hin, hno, hoff]

theorem spmRegWrite_ringPush : spmRegWrite s c (0x110 + 32 * n) v = ringPush s c n v := by
  obtain ⟨hin, hno, hoff⟩ := ringReg_place hn (o := 16) (by decide) rfl
  simp only [spmRegWrite, if_pos hin, hno, hoff]

theorem spmRegWrite_ringPop : spmRegWrite s c (0x118 + 32 * n) v = ringPop s c n v := by
  obtain ⟨hin, hno, hoff⟩ := ringReg_place hn (o := 24) (by decide) rfl
  simp only [spmRegWrite, if_pos hin, hno, hoff]

end

/-! ## The multicast masks of a memory site (Table 7.10) -/

section
variable (s : State) (m : Nat) {i : Nat} (hi : i < 8) (v : Word)
include hi

theorem cruRegWrite_mask :
    cruRegWrite s m (0x100 + 8 * i) v = setMsite s m { msite s m with mcmask := aput i v (msite s m).mcmask } := by
  have hin : 0x100 + 8 * i < 0x140 := by omega
  simp [cruRegWrite, modMsite, hin]

theorem cruReg_mask : cruReg s m (0x100 + 8 * i) = agetD i 0 (msite s m).mcmask := by
  have hin : 0x100 + 8 * i < 0x140 := by omega
  simp [cruReg, hin]

theorem cruReg_cruRegWrite_mask : cruReg (cruRegWrite s m (0x100 + 8 * i) v) m (0x100 + 8 * i) = v := by
  simp [cruReg_mask _ _ hi, cruRegWrite_mask _ _ hi]

end

/-! ## Bytes of a number (R3) -/

@[simp] theorem length_leBytes (n v : Nat) : (leBytes n v).length = n := by
  induction n generalizing v with
  | zero => rfl
  | succ n ih => simp [leBytes, ih]

theorem leNat_leBytes (n v : Nat) : leNat (leBytes n v) = v % 256 ^ n := by
  induction n generalizing v with
  | zero => rw [Nat.pow_zero, Nat.mod_one]; rfl
  | succ n ih =>
    have hbyte : (BitVec.ofNat 8 (v % 256)).toNat = v % 256 := by rw [BitVec.toNat_ofNat, Nat.mod_mod]
    rw [leBytes, leNat, ih, hbyte, Nat.pow_succ', Nat.mod_mul]

/-! ## Base-camp firmware's write of a number (R12, R469, R471) -/

/-- Only OCT and REC entries have a length of their own. -/
theorem CTy.len_eq_width {t : CTy} (h : t.width ≠ 0) : t.len = t.width := by
  cases t with
  | oct | record => exact absurd rfl h
  | _ => rfl

section
variable {index sub : Nat} {r : CRow} (hr : cairnRow index sub = some r) (hacc : accDenied r.acc 2 = false)
  (hw : r.ty.width ≠ 0) (s : State)
include hr hacc hw

/-- Of the checks of a write, firmware meets the range alone where it brings the entry's number of bytes: it is at level 2, held
to no partition and not locked out of the bus (R12, R471, R486). -/
theorem cairnWrite_firmware {bs : List Byte} (hlen : bs.length = r.ty.width) :
    cairnWrite s .firmware index sub bs =
      if r.rng.ok (leNat bs) = true then writeVal s .firmware index sub (leNat bs) else (s, 3) := by
  have hforeign : foreignEntry s .firmware index = false := rfl
  have hslot : slotDenied .firmware r = false := rfl
  have hbus : busLocked s .firmware true index sub = false := rfl
  by_cases hrng : r.rng.ok (leNat bs) = true <;>
    simp [cairnWrite, whoLevel, hr, writeRow, hacc, hforeign, hslot, hbus, hlen, CTy.len_eq_width hw, hw, hrng]

/-- Firmware's write of a word reaches the entry when the value fits its width and lies in its table's range; any other leaves
everything as it was (R12). -/
theorem wordWrite_firmware (v : Word) :
    wordWrite s .firmware index sub v =
      if v.toNat < 2 ^ (8 * r.ty.width) ∧ r.rng.ok v.toNat = true then (writeVal s .firmware index sub v.toNat).1 else s := by
  by_cases hv : v.toNat < 2 ^ (8 * r.ty.width)
  · have hbytes : leNat (leBytes r.ty.width v.toNat) = v.toNat := by
      rw [leNat_leBytes, show (256 : Nat) = 2 ^ 8 from rfl, ← Nat.pow_mul, Nat.mod_eq_of_lt hv]
    simp only [wordWrite, hr, Nat.not_le.mpr hv, and_false, if_false, hv, true_and,
      cairnWrite_firmware hr hacc hw s (length_leBytes ..), hbytes]
    split <;> rfl
  · simp [wordWrite, hr, hw, hv, Nat.not_lt.mp hv]

end

theorem cairnRow_reassembly : cairnRow 0x5000 1 = some ⟨0x5000, 1, 1, 1, .num 4, .rwp, 200, .between 50 10000⟩ := by
  decide

theorem needsBus_reassembly : needsBus true 0x5000 1 = true := by decide

theorem writeVal_reassembly (s : State) (v : Nat) : writeVal s .firmware 0x5000 1 v = (dset s 0x5000 1 v, 0) := rfl

theorem wordWrite_reassembly (s : State) (v : Word) :
    wordWrite s .firmware 0x5000 1 v = if 50 ≤ v.toNat ∧ v.toNat ≤ 10000 then dset s 0x5000 1 v.toNat else s := by
  have hrange : CRange.ok (.between 50 10000) v.toNat = true ↔ 50 ≤ v.toNat ∧ v.toNat ≤ 10000 := by
    simp only [CRange.ok, Bool.and_eq_true, decide_eq_true_eq]
  have hfit : v.toNat < 2 ^ (8 * (CTy.num 4).width) ∧ 50 ≤ v.toNat ∧ v.toNat ≤ 10000 ↔ 50 ≤ v.toNat ∧ v.toNat ≤ 10000 :=
    and_iff_right_of_imp fun h => Nat.lt_of_le_of_lt h.2 (by decide)
  rw [wordWrite_firmware cairnRow_reassembly rfl (by decide), writeVal_reassembly]
  simp only [hrange, hfit]

/-! ## REGISTER_WRITE -/

section
variable {s : State} (v : Word)

theorem exec_registerWrite_core {c : CoreId} {off by_ : BitVec 16} (h : coreTakes s c by_.toNat off.toNat = true) :
    exec (.registerWrite (.core c off by_) v) s = .next (coreRegWrite s c off.toNat v) :=
  congrArg Host.Outcome.next (if_pos h)

theorem exec_registerWrite_spm {c : CoreId} {off : BitVec 12} {by_ : BitVec 16} (h : coreTakes s c by_.toNat off.toNat = true) :
    exec (.registerWrite (.spm c off by_) v) s = .next (spmRegWrite s c off.toNat v) :=
  congrArg Host.Outcome.next (if_pos h)

theorem exec_registerWrite_cru {m : MemSiteNo} {off : BitVec 12} {by_ : BitVec 16}
    (h : siteTakes s m by_.toNat off.toNat = true) :
    exec (.registerWrite (.cru m off by_) v) s = .next (cruRegWrite s m off.toNat v) :=
  congrArg Host.Outcome.next (if_pos h)

theorem exec_spmRingCfg {c : CoreId} {n : Fin 16} (h : takesWrites s c = true) :
    exec (.spmRingCfg c n v) s = .next (ringCfg s c n v) :=
  congrArg Host.Outcome.next (if_pos h)

theorem exec_spmRingPush {c : CoreId} {n : Fin 16} (h : takesWrites s c = true) :
    exec (.spmRingPush c n v) s = .next (ringPush s c n v) :=
  congrArg Host.Outcome.next (if_pos h)

theorem exec_spmRingPop {c : CoreId} {n : Fin 16} (h : takesWrites s c = true) :
    exec (.spmRingPop c n v) s = .next (ringPop s c n v) :=
  congrArg Host.Outcome.next (if_pos h)

/-- A core that an endpoint may write takes writes from outside at all. -/
theorem takesWrites_of_coreTakes {c by_ off : Nat} (h : coreTakes s c by_ off = true) : takesWrites s c = true := by
  simp only [coreTakes, Bool.and_eq_true] at h
  exact h.1.2

/-- Firmware's write of an entry that needs the service bus waits while the monitor holds it (R471, log 89). -/
theorem exec_registerWrite_firmware (h : firmwareUp s = true) {index : BitVec 16} {sub : BitVec 8}
    (hb : needsBus true index.toNat sub.toNat = true) :
    exec (.registerWrite (.cairn .firmware index sub) v) s =
      .next (if s.mgmt.bus.taken = true then waitBus s 0 else wordWrite s .firmware index.toNat sub.toNat v) := by
  have hheld : busHeld s .firmware true index.toNat sub.toNat = s.mgmt.bus.taken := by simp [busHeld, hb]
  exact congrArg Host.Outcome.next ((if_pos h).trans (by rw [busWrite, hheld]; rfl))

end

/-! ## The statement -/

/-- Settles O35: each clause is the equation of its write at its offset. -/
theorem registerWrites : Obligations.RegisterWrites := by
  refine ⟨fun c off by_ v s h => ?core, fun c n off by_ v s h => ?spm, fun m i off by_ v s h ho => ?cru, fun v s h => ?cairn⟩
  case core =>
    have he := exec_registerWrite_core v h
    refine ⟨fun i hi ho => ?_, ?_, ?_⟩
    · rw [ho, coreRegWrite_ev s c hi] at he
      exact ⟨_, he, onlyCore_setCore .., by simp [ev_setEv]⟩
    · rintro rfl
      exact ⟨_, he.trans (congrArg _ (coreRegWrite_astat s c v)), onlyCore_setCore .., by simp⟩
    · rintro rfl
      exact he.trans (congrArg _ (coreRegWrite_state s c v))
  case spm =>
    have ht := takesWrites_of_coreTakes h
    have he := exec_registerWrite_spm v h
    refine ⟨fun ho => ?_, fun ho => ?_, fun ho => ?_⟩
    · rw [he, ho, spmRegWrite_ringCfg s c n.isLt, exec_spmRingCfg v ht]
    · rw [he, ho, spmRegWrite_ringPush s c n.isLt, exec_spmRingPush v ht]
    · rw [he, ho, spmRegWrite_ringPop s c n.isLt, exec_spmRingPop v ht]
  case cru =>
    have he := exec_registerWrite_cru v h
    rw [ho] at he ⊢
    exact ⟨_, he, by rw [cruRegWrite_mask s m i.isLt]; rfl, cruReg_cruRegWrite_mask s m i.isLt v⟩
  case cairn =>
    have he := exec_registerWrite_firmware v h (index := 0x5000) (sub := 1) needsBus_reassembly
    refine ⟨fun hfree => ?_, fun htaken => he.trans (by rw [if_pos htaken])⟩
    have hw : exec (.registerWrite (.cairn .firmware 0x5000 1) v) s = .next (wordWrite s .firmware 0x5000 1 v) :=
      he.trans (by rw [hfree]; rfl)
    rw [wordWrite_reassembly] at hw
    refine ⟨fun hlo hhi => ?_, fun hout => ?_⟩
    · rw [if_pos ⟨hlo, hhi⟩] at hw
      exact ⟨_, hw, rfl, dget_dset_same ..⟩
    · rwa [if_neg (by omega)] at hw

end Sys2Proof.Machine

/-!
Congestion maps, fenced routers and the tables computed from them (R29, R31, R201 to R203, R231, R285): the digits of a
congestion word, the bits of a hole map, and what the loss of a core leaves of the fabric and the memories.
-/
namespace Sys2Proof.Machine

open Sys2Proof

/-! ## Congestion words (R201, R202) -/

theorem levelOfShare_lt (o : Nat) : levelOfShare o < 4 := by
  unfold levelOfShare
  repeat' split
  all_goals decide

/-- What a site reports of output and half k: half the level of its share, 0 for an output without a neighbour. -/
def reportedLevel (site : Nat) (occ : Nat → Nat) (k : Nat) : Nat :=
  if hasNeighbour site (dirOfCode (k / 2)) then levelOfShare (occ k) else 0

theorem reportedLevel_lt (site : Nat) (occ : Nat → Nat) (k : Nat) : reportedLevel site occ k < 4 := by
  unfold reportedLevel
  split
  · exact levelOfShare_lt _
  · decide

/-- The number whose n low digits in base 4 a function gives. -/
def fromDigits (g : Nat → Nat) (n : Nat) : Nat := (List.range n).foldl (fun w k => w + g k * 4 ^ k) 0

theorem congestionWord_eq_fromDigits (site : Nat) (occ : Nat → Nat) :
    congestionWord site occ = fromDigits (reportedLevel site occ) 8 := rfl

theorem fromDigits_succ (g : Nat → Nat) (n : Nat) : fromDigits g (n + 1) = fromDigits g n + g n * 4 ^ n := by
  simp only [fromDigits, List.range_succ, List.foldl_append, List.foldl_cons, List.foldl_nil]

section
variable {g : Nat → Nat} (hg : ∀ k, g k < 4)
include hg

theorem fromDigits_lt (n : Nat) : fromDigits g n < 4 ^ n := by
  induction n with
  | zero => exact Nat.one_pos
  | succ n ih =>
    have htop : g n * 4 ^ n ≤ 3 * 4 ^ n := Nat.mul_le_mul_right _ (Nat.le_of_lt_succ (hg n))
    rw [fromDigits_succ, Nat.pow_succ]
    omega

theorem fromDigits_digit {n k : Nat} (hk : k < n) : fromDigits g n / 4 ^ k % 4 = g k := by
  induction n with
  | zero => exact absurd hk (Nat.not_lt_zero k)
  | succ n ih =>
    rw [fromDigits_succ]
    rcases Nat.lt_succ_iff_lt_or_eq.mp hk with hlow | rfl
    · obtain ⟨j, rfl⟩ : ∃ j, n = k + 1 + j := ⟨n - (k + 1), by omega⟩
      have habove : g (k + 1 + j) * 4 ^ (k + 1 + j) = 4 ^ k * (4 * (g (k + 1 + j) * 4 ^ j)) := by
        rw [Nat.pow_add, Nat.pow_succ]
        ac_rfl
      rw [habove, Nat.add_mul_div_left _ _ (Nat.pow_pos (by decide)), Nat.add_mul_mod_self_left, ih hlow]
    · rw [Nat.add_mul_div_right _ _ (Nat.pow_pos (by decide)), Nat.div_eq_of_lt (fromDigits_lt hg k), Nat.zero_add,
        Nat.mod_eq_of_lt (hg k)]

end

/-- Each digit of a congestion word in base 4 is a reported level. -/
theorem congestionWord_digit (site : Nat) (occ : Nat → Nat) {k : Nat} (hk : k < 8) :
    congestionWord site occ / 4 ^ k % 4 = reportedLevel site occ k := by
  rw [congestionWord_eq_fromDigits, fromDigits_digit (reportedLevel_lt site occ) hk]

/-- Place of an output's half in a congestion word. -/
theorem outputPlace (d : Dir) (half : Bool) :
    2 * d.code + (if half then 1 else 0) < 8 ∧ dirOfCode ((2 * d.code + if half then 1 else 0) / 2) = d := by
  cases d <;> cases half <;> decide

/-- The level that a map shows for an output and half of the site whose word has entered it. -/
theorem levelOf_aput_congestionWord (site : Nat) (occ : Nat → Nat) (words : Assoc Nat) (d : Dir) (half : Bool) :
    levelOf (aput site (congestionWord site occ) words) site d half =
      if hasNeighbour site d then levelOfShare (occ (2 * d.code + if half then 1 else 0)) else 0 := by
  obtain ⟨hplace, hdir⟩ := outputPlace d half
  rw [levelOf, agetD_aput_same, congestionWord_digit site occ hplace, reportedLevel, hdir]

/-! ## The map that a die holds (R202) -/

section
variable {s : State} {d : DieNo}

theorem exec_congestionMap_some {w : Assoc Nat} (h : s.fab.whole = some w) :
    exec (.congestionMap d) s = .next { s with fab := { s.fab with maps := aput d (s.prc, w) s.fab.maps } } := by
  show execCongestionMap d s = _
  simp only [execCongestionMap, h]

theorem exec_congestionMap_none (h : s.fab.whole = none) : exec (.congestionMap d) s = .next s := by
  show execCongestionMap d s = _
  simp only [execCongestionMap, h]

theorem exec_congestionMapStale :
    exec (.congestionMapStale d) s =
      .next (if mapStale s d then { s with fab := { s.fab with maps := adel d s.fab.maps } } else s) := rfl

theorem mapStale_iff {m : Nat × Assoc Nat} (h : aget d.val s.fab.maps = some m) :
    mapStale s d = true ↔ m.1 + usTicks 100 ≤ s.prc := by
  simp only [mapStale, h, decide_eq_true_eq]

end

theorem wordsAt_putMap (s : State) (d : Nat) (m : Nat × Assoc Nat) (e : Nat) :
    wordsAt { s with fab := { s.fab with maps := aput d m s.fab.maps } } e = if e = d then m.2 else wordsAt s e := by
  simp only [wordsAt, agetD_aput]
  split <;> rfl

theorem wordsAt_delMap {s : State} (h : keysRise s.fab.maps = true) (d e : Nat) :
    wordsAt { s with fab := { s.fab with maps := adel d s.fab.maps } } e = if e = d then [] else wordsAt s e := by
  by_cases he : e = d
  · subst he
    simp [wordsAt, agetD, aget_adel_same h]
  · simp [wordsAt, agetD, aget_adel_other he, he]

/-! ## What keeps the fabric and the memories -/

/-- The fabric and the memories are unchanged. -/
def KeepsFab (s t : State) : Prop := t.fab = s.fab ∧ KeepsMem s t

theorem KeepsFab.refl (s : State) : KeepsFab s s := ⟨rfl, rfl, rfl, rfl⟩

theorem KeepsFab.trans {s t u : State} (h : KeepsFab s t) (g : KeepsFab t u) : KeepsFab s u := by
  obtain ⟨hfab, hspm, hhbm, hsram⟩ := h
  obtain ⟨gfab, gspm, ghbm, gsram⟩ := g
  exact ⟨gfab.trans hfab, gspm.trans hspm, ghbm.trans hhbm, gsram.trans hsram⟩

theorem KeepsFab.ite {p : Prop} [Decidable p] {s t u : State} (ht : KeepsFab s t) (hu : KeepsFab s u) :
    KeepsFab s (if p then t else u) := by
  split
  · exact ht
  · exact hu

theorem KeepsFab.foldl {α : Type} {f : State → α → State} (hf : ∀ s a, KeepsFab s (f s a)) (l : List α) (s : State) :
    KeepsFab s (l.foldl f s) := by
  induction l generalizing s with
  | nil => exact .refl s
  | cons a l ih => exact (hf s a).trans (ih _)

theorem OnlyEvents.keepsFab {s t : State} (h : OnlyEvents s t) : KeepsFab s t := ⟨h.fab, h.spm, h.hbm, h.sram⟩

theorem keepsFab_setCore (s : State) (c : Nat) (k : Core) : KeepsFab s (setCore s c k) := .refl s

theorem keepsFab_touchTopo (s : State) : KeepsFab s (touchTopo s) := by
  unfold touchTopo
  split
  · exact .refl s
  · exact .refl s

/-! ### Completions of a launch are events alone -/

theorem onlyEvents_modCmd (s : State) (r i : Nat) (f : Cmd → Cmd) : OnlyEvents s (modCmd s r i f) := rfl

theorem onlyEvents_putAborts (s : State) (xs : List (Nat × Nat)) : OnlyEvents s (putAborts s xs) := by
  induction xs generalizing s with
  | nil => exact .refl s
  | cons x xs ih =>
    obtain ⟨r, i⟩ := x
    unfold putAborts
    split
    · exact .trans (.trans (onlyEvents_modCmd ..) (onlyEvents_eringPut ..)) (ih _)
    · exact ih s

theorem onlyEvents_finishCmd (s : State) (r i cstat : Nat) : OnlyEvents s (finishCmd s r i cstat) := by
  unfold finishCmd
  split
  · exact .refl s
  · split
    · exact .refl s
    · exact .trans (.trans (onlyEvents_modCmd ..) (onlyEvents_eringPut ..)) (onlyEvents_putAborts ..)

theorem onlyEvents_launchCheck (s : State) (r i : Nat) : OnlyEvents s (launchCheck s r i) := by
  unfold launchCheck
  split
  · split
    · exact onlyEvents_finishCmd ..
    · exact .refl s
  · exact .refl s

theorem onlyEvents_reportLost (s : State) (r i c : Nat) : OnlyEvents s (reportLost s r i c) := by
  unfold reportLost
  split
  · split
    · exact .trans (onlyEvents_modCmd ..) (onlyEvents_launchCheck ..)
    · exact .refl s
  · exact .refl s

/-! ### The loss of a core (R413 to R415) -/

theorem keepsFab_setRepair (s : State) (k w : Nat) : KeepsFab s (setRepair s k w) :=
  .trans (t := bumpRepairGen { s with health := { s.health with repair := aput k w s.health.repair } }) (.refl s)
    (keepsFab_touchTopo _)

theorem keepsFab_setCond (s : State) (pcid new cause : Nat) : KeepsFab s (setCond s pcid new cause) := by
  simp only [setCond, setCondD]
  split
  · exact .refl s
  · exact .trans (t := bumpRepairGen (setHealthRec s pcid _)) (.refl s) (onlyEvents_raiseD ..).keepsFab

theorem keepsFab_fencePcid (s : State) (pcid cause : Nat) : KeepsFab s (fencePcid s pcid cause) :=
  .trans (keepsFab_setRepair ..) (keepsFab_setCond ..)

theorem keepsFab_partitionStopAll (s : State) (p : Nat) : KeepsFab s (partitionStopAll s p) := .refl s

theorem keepsFab_coreLostD (s : State) (drill : Bool) (c cause : Nat) : KeepsFab s (coreLostD s drill c cause) := by
  unfold coreLostD
  extract_lets k p raised stopped pcid health placed reset gated
  have hraised : KeepsFab s raised := .ite (.refl s) (onlyEvents_raiseCoreD ..).keepsFab
  have hstopped : KeepsFab s stopped := hraised.trans (.ite (keepsFab_partitionStopAll ..) (.refl _))
  have hplaced : KeepsFab s placed :=
    hstopped.trans (.ite (.refl _) (.ite (.refl stopped) (keepsFab_fencePcid ..)))
  have hgated : KeepsFab s gated := hplaced.trans (keepsFab_setCore ..)
  split
  · exact .ite (hgated.trans (onlyEvents_reportLost ..).keepsFab) hgated
  · exact hgated

/-! ## Fenced routers (R231) -/

/-- A bit that is 0, set by adding its weight. -/
theorem bit_add_two_pow {n q : Nat} (h : bit n q = false) (r : Nat) : bit (n + 2 ^ q) r = (bit n r || r == q) := by
  have hbit : ∀ m k, bit m k = m.testBit k := fun m k => by
    rw [Nat.testBit_eq_decide_div_mod_eq]; exact (Bool.beq_eq_decide_eq ..)
  rw [hbit] at h ⊢
  rw [hbit]
  rcases Nat.lt_trichotomy r q with hr | rfl | hr
  · simp [Nat.add_comm n, Nat.testBit_two_pow_add_gt hr, Nat.ne_of_lt hr]
  · simp [Nat.add_comm n, Nat.testBit_two_pow_add_eq, h]
  · obtain ⟨k, rfl⟩ : ∃ k, r = k + 1 + q := ⟨r - q - 1, by omega⟩
    have heven : n / 2 ^ q % 2 = 0 := by
      rw [Nat.testBit_eq_decide_div_mod_eq] at h
      have := of_decide_eq_false h
      omega
    have hhalf : (n / 2 ^ q + 1) / 2 = n / 2 ^ q / 2 := by omega
    simp only [Nat.testBit_add _ _ q, Nat.add_div_right n (Nat.two_pow_pos q), Nat.testBit_succ, hhalf]
    simp

/-- A cell stands elsewhere than in a router of the grid. -/
def outsideRouter (site q : Nat) (f : Flight) : Bool :=
  match f.at_ with
  | .router (.grid t r) _ => !(t.val == site && r.val == q)
  | _ => true

theorem outsideRouter_iff (site : SiteNo) (q : Fin 4) (f : Flight) :
    outsideRouter site q f = true ↔ ∀ d, f.at_ ≠ .router (.grid site q) d := by
  unfold outsideRouter
  split
  case h_1 t r d hat =>
    simp only [hat, Bool.not_eq_true', Bool.and_eq_false_iff, beq_eq_false_iff_ne, ne_eq, Stand.router.injEq,
      RouterLoc.grid.injEq, Fin.ext_iff]
    refine ⟨fun h d' he => ?_, fun h => ?_⟩
    · obtain ⟨⟨ht, hr⟩, -⟩ := he
      exact h.elim (fun h => h ht) (fun h => h hr)
    · by_cases ht : t.val = site.val
      · exact .inr fun hr => h d ⟨⟨ht, hr⟩, rfl⟩
      · exact .inl ht
  case h_2 hother =>
    exact iff_of_true rfl fun d he => hother site q d he

/-- The fabric once a router has been fenced: its bit at the root, and no cell in it. -/
def fabFenced (s : State) (site q : Nat) : Fab :=
  { s.fab with holes := aput site (agetD site 0 s.fab.holes + 2 ^ q) s.fab.holes, holesPrc := s.prc,
               net := s.fab.net.filter (outsideRouter site q) }

/-- What a fence does besides (the topology record, the events, the cores lost behind the router) touches neither the fabric nor
the memories. -/
theorem keepsFab_fenceRouter {s : State} {site q : Nat} (h : fenced s site q = false) (cause : Nat) :
    KeepsFab { s with fab := fabFenced s site q } (fenceRouter s site q cause) := by
  unfold fenceRouter
  rw [if_neg (by simp [h])]
  extract_lets w fab cut touched told raised
  have htouched : KeepsFab cut touched := .trans (t := bumpGen cut 0x5020 1) (.refl cut) (keepsFab_touchTopo _)
  have htold : KeepsFab cut told := htouched.trans (onlyEvents_raise ..).keepsFab
  have hraised : KeepsFab cut raised := htold.trans (onlyEvents_raise ..).keepsFab
  exact hraised.trans (.foldl (fun t c => .ite (keepsFab_coreLostD ..) (.refl t)) _ _)

/-- The router that is fenced enters the hole map alone. -/
theorem holed_fabFenced {s : State} {site q : Nat} (h : fenced s site q = false) (u r : Nat) :
    holed (fabFenced s site q).holes u r = (fenced s u r || (u == site && r == q)) := by
  by_cases hu : u = site
  · subst hu
    simpa [holed, fabFenced, fenced] using bit_add_two_pow h r
  · simp [holed, fabFenced, fenced, agetD_aput_other hu, hu]

theorem exec_routerFence {s : State} {site : SiteNo} {q : Fin 4} (h : isMemSite site = false ∨ q = 0) (cause : BitVec 4) :
    exec (.routerFence site q cause) s = .next (fenceRouter s site q cause.toNat) := by
  show execRouterFence site q cause s = _
  have hexists : ¬(isMemSite site && q != 0) = true := by
    rcases h with h | h <;> simp [h]
  rw [execRouterFence, if_neg hexists]

/-! ## The 100 us record (R203) -/

theorem exec_cmapRecord_early {s : State} (h : s.prc < s.fab.cmap.1 + usTicks 100) : exec .cmapRecord s = .next s :=
  if_pos h

theorem exec_cmapRecord_due {s : State} (h : s.fab.cmap.1 + usTicks 100 ≤ s.prc) :
    ∃ ws, exec .cmapRecord s = .next
      { s with fab := { s.fab with cmap := (s.prc, (s.fab.cmap.2.1 + 1) % 2 ^ 32, ws), occSum := [] } } :=
  ⟨_, if_neg (Nat.not_lt.mpr h)⟩

/-! ## Tables computed from the hole map (R29, R31, R285) -/

theorem holesAt_putMap (s : State) (d : Nat) (hm : Assoc Nat) (e : Nat) :
    holesAt { s with fab := { s.fab with holeMaps := aput d hm s.fab.holeMaps } } e = if e = d then hm else holesAt s e :=
  agetD_aput ..

theorem hopTable_nil : hopTable [] = [] := rfl

/-- Settles O33: each clause is the equation of its command, and what it says of the maps are the digits of a congestion word
and the bits of a hole map. -/
theorem fabricMaps : Obligations.FabricMaps := by
  intro s
  refine ⟨fun site occ => ?word, fun d w hw => ?map, fun hnone d => exec_congestionMap_none hnone, fun d m hm => ?stale,
    fun hdue => ?record, exec_cmapRecord_early, fun site q cause hsite hopen => ?fence, fun d => ?holes, ?hops, ?transit⟩
  case word =>
    exact ⟨_, rfl, rfl, rfl, fun u hu => aget_aput_other hu _ _,
      levelOf_aput_congestionWord site (fun k => occ.getD k 0) s.fab.words⟩
  case map => exact ⟨_, exec_congestionMap_some hw, rfl, wordsAt_putMap s d (s.prc, w)⟩
  case stale =>
    have hstale := mapStale_iff hm
    refine ⟨fun hold hrise => ⟨_, ?_, rfl, wordsAt_delMap hrise d⟩, fun hnew => ?_⟩
    · rw [exec_congestionMapStale, if_pos (hstale.mpr hold)]
    · rw [exec_congestionMapStale, if_neg (by rw [hstale]; omega)]
  case record =>
    obtain ⟨ws, he⟩ := exec_cmapRecord_due hdue
    exact ⟨_, he, rfl, rfl, rfl⟩
  case fence =>
    obtain ⟨hfab, hmem⟩ := keepsFab_fenceRouter hopen cause.toNat
    refine ⟨_, exec_routerFence hsite cause, hmem, by rw [hfab]; rfl, fun u r _ => ?_, fun f => ?_⟩
    · rw [fenced, hfab]
      exact holed_fabFenced hopen u r
    · rw [hfab, ← outsideRouter_iff]
      exact List.mem_filter
  case holes => exact ⟨_, rfl, rfl, holesAt_putMap s d s.fab.holes⟩
  case hops =>
    refine ⟨_, rfl, rfl, fun hnone m d => ?_⟩
    simp [hopEntry, hnone, hopTable_nil, agetD, aget]
  case transit => exact ⟨_, rfl, rfl⟩

end Sys2Proof.Machine

/-!
The panel right after reset (R25, R102, R179, R180, R340, R398, R481): what each reading of the state gives where nothing
has been stored yet.
-/
namespace Sys2Proof.Machine

open Sys2Proof

/-- No entry of the dictionary is stored, so each reads as its default (R481). -/
theorem dget_reset (i j : Nat) : dget State.reset i j = cairnDefault i j := rfl

theorem core_reset (c : Nat) : core State.reset c = Core.reset := rfl

theorem sreg_reset (n : Nat) : Core.reset.sreg n = 0 := ite_self _

theorem partSt_reset (p : Nat) : partSt State.reset p = 0 := rfl

theorem repairWord_reset (k : Nat) : repairWord State.reset k = 0x1876543210 := rfl

theorem powered_reset : powered State.reset = false := rfl

/-- The panel state is booting by default (Table 12.1). -/
theorem cairnDefault_panelState : cairnDefault 0x6000 1 = 0 := by decide

theorem panelReady_reset : panelReady State.reset = false := by
  rw [panelReady, dget_reset, cairnDefault_panelState]
  rfl

/-- Settles O59: the lists and numbers stand in the state itself, and what the sparse tables leave out reads as its reset
value. -/
theorem resetState : Obligations.ResetState :=
  ⟨rfl, rfl, rfl, rfl, rfl, rfl, dget_reset, core_reset, rfl, rfl, rfl, rfl, sreg_reset, rfl, rfl, rfl, partSt_reset,
    repairWord_reset, rfl, powered_reset, panelReady_reset, cairnDefault_panelState⟩

end Sys2Proof.Machine

/-!
Words of the vector unit (R66, R89, R90, R119, R130): the core that a dispatched word finds, what a word on registers alone
gives and what a failing check 7 leaves, and the lanes and flags of its result.
-/
namespace Sys2Proof.Machine

open Sys2Proof

/-! ## Vector registers and flags -/

/-- A core whose rounding LFSRs have stepped (R57). -/
def Core.setLfsr (k : Core) (ls : List (BitVec 32)) : Core := { k with vec := { k.vec with lfsr := ls } }

@[simp] theorem vreg_setLfsr (k : Core) (ls : List (BitVec 32)) (n : BitVec 5) : (k.setLfsr ls).vreg n = k.vreg n := rfl

@[simp] theorem vreg_flag (k : Core) (fl : Astat) (n : BitVec 5) : (k.flag fl).vreg n = k.vreg n := rfl

@[simp] theorem vreg_setVreg_same (k : Core) (d : BitVec 5) (x : List (BitVec 32)) : (k.setVreg d x).vreg d = x := by
  simp [Core.vreg, Core.setVreg, VecSt.reg]

theorem vreg_setVreg_other (k : Core) {d n : BitVec 5} (h : n ≠ d) (x : List (BitVec 32)) :
    (k.setVreg d x).vreg n = k.vreg n := by
  have hno : n.toNat ≠ d.toNat := fun e => h (BitVec.eq_of_toNat_eq e)
  simp [Core.vreg, Core.setVreg, VecSt.reg, aget_aput_other hno]

theorem vreg_setVreg (k : Core) (d n : BitVec 5) (x : List (BitVec 32)) :
    (k.setVreg d x).vreg n = if n = d then x else k.vreg n := by
  split
  case isTrue h => rw [h, vreg_setVreg_same]
  case isFalse h => exact vreg_setVreg_other k h x

/-- A flag among the first flags is among all of them. -/
theorem flag_or_left {x f : Astat} (h : x &&& f = f) (y : Astat) : (x ||| y) &&& f = f := by
  rw [BitVec.and_comm, BitVec.and_or_distrib_left, BitVec.and_comm f x, h]
  ext i
  simpa using fun hf _ => hf

theorem flag_or_right {y f : Astat} (h : y &&& f = f) (x : Astat) : (x ||| y) &&& f = f := by
  rw [BitVec.or_comm, flag_or_left h]

/-! ## Lanes -/

/-- A list of n elements is that of its elements by number. -/
theorem map_range_getD {α : Type} {n : Nat} (xs : List α) (d : α) (h : xs.length = n) :
    (List.range n).map (fun l => xs.getD l d) = xs := by
  subst h
  refine List.ext_getElem (by simp) fun i _ hi => ?_
  simp [hi]

theorem getD_map_range {α : Type} {n l : Nat} (g : Nat → α) (d : α) (h : l < n) :
    ((List.range n).map g).getD l d = g l := by
  simp [h]

theorem take_map_range {α : Type} (g : Nat → α) (n m : Nat) :
    ((List.range (n + m)).map g).take n = (List.range n).map fun l => g (0 + l) := by
  rw [List.range_add, List.map_append, List.take_left' (by simp)]
  simp

theorem drop_map_range {α : Type} (g : Nat → α) (n m : Nat) :
    ((List.range (n + m)).map g).drop n = (List.range m).map fun l => g (n + l) := by
  rw [List.range_add, List.map_append, List.drop_left' (by simp), List.map_map]
  rfl

/-- A lane of the result: the word's value where it is enabled, the old one elsewhere (R89). -/
theorem getD_mapLanes (on : BitVec 64) (old : List (BitVec 32)) (op : Nat → BitVec 32 × Astat) {l : Nat} (h : l < 64) :
    (mapLanes on old op).1.getD l 0 = if on.getLsbD l then (op l).1 else old.getD l 0 := by
  simp only [mapLanes, List.map_map]
  rw [getD_map_range _ _ h, Function.comp_apply]
  split <;> rfl

theorem map_fst_draws (k : Core) (rnd : Nat) (on : BitVec 64) :
    (draws k rnd on).map Prod.fst = (List.range 64).map fun l => ((draws k rnd on).getD l (.near, 0)).1 := by
  have hlen : (draws k rnd on).length = 64 := by simp [draws]
  calc (draws k rnd on).map Prod.fst
      = ((List.range 64).map fun l => (draws k rnd on).getD l (.near, 0)).map Prod.fst := by rw [map_range_getD _ _ hlen]
    _ = (List.range 64).map fun l => ((draws k rnd on).getD l (.near, 0)).1 := List.map_map

/-! ## Dispatch of a word on registers -/

/-- The core that a dispatched vector word without scratchpad operand finds (R69, R71, R75). -/
def vecDispatched (k : Core) : Core :=
  { k with ibuf := k.fetch.ibuf, pc := k.pc + 16, cyc := k.cyc + 1, wdogRun := 0, stallRow := 0, stallRing := none,
           hold := .none, serial := k.serial + 1 }

@[simp] theorem lane_vecDispatched (k : Core) (n : BitVec 5) (l : Nat) : lane (vecDispatched k) n l = lane k n l := rfl
@[simp] theorem enabled_vecDispatched (k : Core) (f : VecFields) : enabled (vecDispatched k) f = enabled k f := rfl

theorem advance_declare_fetch {k : Core} (h : k.hold = .none ∨ k.hold = .wait) :
    (k.fetch.declare true []).advance (k.pc + 16) = vecDispatched k := by
  rw [fetch_eq]
  rcases h with h | h <;> simp [Core.advance, Core.declare, declared, reserveAll, addEntries, vecDispatched, h]

/-- Of its core a word changes vector registers, LFSRs and flags alone, and clears no flag. -/
def RegWrites (k k' : Core) : Prop :=
  ∃ v lfsr fl, k' = { k with vec := { k.vec with v := v, lfsr := lfsr }, astat := k.astat ||| fl }

theorem RegWrites.frame {k k' : Core} (h : RegWrites (vecDispatched k) k') :
    VecFrame k k' ∧ FlagsStick k k' ∧ k'.vec.p = k.vec.p ∧ k'.vec.tab = k.vec.tab := by
  obtain ⟨v, lfsr, fl, rfl⟩ := h
  exact ⟨rfl, flag_or_left (BitVec.and_self ..) fl, rfl, rfl⟩

/-- What a core looks like after a word that fails check 7 (R106, R119). -/
structure StoppedFormat (k k' : Core) : Prop where
  st : k'.st = .drain
  pc : k'.pc = k.pc
  regs : KeepsRegs k k'
  vec : k'.vec = k.vec
  status : k'.status = some (k.status.getD 5)

theorem core_faultStop {s : State} {c : Nat} (h : (core s c).st = .run) (status unit chan pc : Nat) :
    ∃ fault prc, core (faultStop s c status unit chan pc) c =
      { core s c with st := .drain, status := some ((core s c).status.getD status), hold := (core s c).hold.afterStop,
                      gath := [], fault := fault, faultPrc := prc } := by
  simp only [faultStop, h, true_or, if_true, core_setCore_same]
  split
  · exact ⟨_, _, rfl⟩
  · exact ⟨_, _, rfl⟩

section
variable {s : State} {c : Nat} (h : Ready s c) {check : Core → Check}
include h

/-- A ready core that no drill disturbs runs a vector word on registers that passes check 7 (R76, R90). -/
theorem vecReg_pass (hu : Undrilled s c) (hc : check (core s c).fetch = .pass) (eff : Core → Core) :
    ∃ t, vecReg s c .none check eff = t ∧ OnlyCore s t c ∧ core t c = eff (vecDispatched (core s c)) := by
  have hact : vecReg s c .none check eff =
      vecAct c .none (fun _ => []) (fun s => modCore s c eff) (setCore s c (core s c).fetch) :=
    dispatch_ready h (fun hs => nomatch hs) hc (holdRow_nil _) rfl
  obtain ⟨-, -, hhold⟩ := h
  have hdrill : ((core s c).paired && drillWith (setCore s c (core s c).fetch) 2
      (pcidOf (setCore s c (core s c).fetch) c)) = false := by
    show ((core s c).paired && drillWith s 2 (pcidOf s c)) = false
    rcases hu with hu | hu <;> simp [hu]
  have hrun : vecReg s c .none check eff =
      setCore (setCore (setCore s c (core s c).fetch) c (vecDispatched (core s c))) c (eff (vecDispatched (core s c))) := by
    rw [hact, vecAct]
    simp [hdrill, readGlitch, advance_declare_fetch hhold]
  refine ⟨_, hrun, ⟨rfl, fun d hd => ?_⟩, core_setCore_same ..⟩
  simp only [core_setCore_other _ _ hd]

/-- A ready core stops on a vector word that fails check 7, which then writes nothing. -/
theorem vecReg_format (hc : check (core s c).fetch = .format) (g : Glitch) (eff : Core → Core) :
    StoppedFormat (core s c) (core (vecReg s c g check eff) c) := by
  have hfail : vecReg s c g check eff = failCheck (setCore s c (core s c).fetch) c uVec .format := by
    rw [vecReg, dispatch_fails h (by simp [hc]), hc]
  have hraised := (onlyEvents_raiseCore (setCore s c (core s c).fetch) c 0x0101 (pf 32 20 (core s c).pc)).core c
  rw [core_setCore_same] at hraised
  rw [hfail, failCheck]
  simp only [core_setCore_same, fetch_pc]
  obtain ⟨fault, prc, hstop⟩ := core_faultStop (by rw [hraised, fetch_st]; exact ready_run h) 5 uVec 0 (core s c).pc
  rw [hstop, hraised]
  exact ⟨rfl, fetch_pc _, fetch_sreg _, fetch_vec _, by simp⟩

variable {ok : Bool}

/-- A word whose check 7 is one condition that holds: its core is what the word makes of the dispatched one. -/
theorem vecReg_accepted (hu : Undrilled s c) (hok : ok = true) (eff : Core → Core) :
    ∃ t, vecReg s c .none (fun _ => Check.need ok .format) eff = t ∧ OnlyCore s t c ∧
      core t c = eff (vecDispatched (core s c)) :=
  vecReg_pass h hu (if_pos hok) eff

theorem vecReg_refused (hok : ok = false) (g : Glitch) (eff : Core → Core) :
    StoppedFormat (core s c) (core (vecReg s c g (fun _ => Check.need ok .format) eff) c) :=
  vecReg_format h (if_neg (Bool.eq_false_iff.mp hok)) g eff

end

end Sys2Proof.Machine

/-!
Conversions of the vector unit (R43, R63 to R65, R133, R138): the blocks that vmxp packs with their scale codes, and the three
words as writes of registers.
-/
namespace Sys2Proof.Machine

open Sys2Proof

/-! ## MX blocks (R64, R65) -/

/-- A NaN or an infinity. -/
def Val.special : Val → Bool
  | .fin _ _ _ => false
  | _ => true

theorem Val.special_iff (v : Val) : v.special = true ↔ v = .nan ∨ ∃ neg, v = .inf neg := by
  cases v with
  | nan => simp [Val.special]
  | inf neg => simp [Val.special]
  | fin neg m e => simp [Val.special]

/-- Exponent of a block's scale (R64). -/
def blockExpo (t : Fmt) (vs : List Val) : Int :=
  match maxExpo vs with
  | none => -127
  | some e => max (-127) (min 127 (e - t.mxEmax))

theorem blockExpo_bounds (t : Fmt) (vs : List Val) : -127 ≤ blockExpo t vs ∧ blockExpo t vs ≤ 127 := by
  unfold blockExpo
  split
  · decide
  · omega

section
variable {t : Fmt} {vs : List (Val × Astat)} {ms : List Rnd}

theorem mxPack_special (h : (vs.any fun v => v.1.special) = true) :
    mxPack t vs ms = (List.replicate 32 0, 0xFF, orFlags (vs.map Prod.snd) ||| fCvtInvalid) :=
  if_pos h

theorem mxPack_finite (h : (vs.any fun v => v.1.special) = false) :
    (mxPack t vs ms).2.1 = (blockExpo t (vs.map Prod.fst) + 127).toNat :=
  congrArg (fun b : List Nat × Nat × Astat => b.2.1) (if_neg (Bool.eq_false_iff.mp h))

theorem mxPack_scale_lt (t : Fmt) (vs : List (Val × Astat)) (ms : List Rnd) : (mxPack t vs ms).2.1 < 256 := by
  cases h : vs.any fun v => v.1.special
  case true => rw [mxPack_special h]; exact Nat.lt_succ_self 255
  case false =>
    rw [mxPack_finite h]
    have := blockExpo_bounds t (vs.map Prod.fst)
    omega

/-- The scale code 0xFF stands for a block that holds a NaN or an infinity alone, so cvt_invalid comes with it. -/
theorem mxPack_invalid (h : (mxPack t vs ms).2.1 = 0xFF) : (mxPack t vs ms).2.2 &&& fCvtInvalid = fCvtInvalid := by
  cases hany : vs.any fun v => v.1.special
  case true =>
    rw [mxPack_special hany]
    exact flag_or_right (BitVec.and_self ..) _
  case false =>
    rw [mxPack_finite hany] at h
    have := blockExpo_bounds t (vs.map Prod.fst)
    omega

theorem mxPack_of_special (h : ∃ v ∈ vs, v.1 = .nan ∨ ∃ neg, v.1 = .inf neg) :
    (mxPack t vs ms).1 = List.replicate 32 0 ∧ (mxPack t vs ms).2.1 = 0xFF := by
  obtain ⟨v, hv, hspecial⟩ := h
  rw [mxPack_special (List.any_eq_true.mpr ⟨v, hv, v.1.special_iff.mpr hspecial⟩)]
  exact ⟨rfl, rfl⟩

theorem maxExpo_zeros {xs : List Val} (h : ∀ v ∈ xs, ∃ neg e, v = .fin neg 0 e) : maxExpo xs = none := by
  induction xs with
  | nil => rfl
  | cons v xs ih =>
    obtain ⟨neg, e, rfl⟩ := h v List.mem_cons_self
    exact ih fun v hv => h v (List.mem_cons_of_mem _ hv)

theorem mxPack_scale_zeros (h : ∀ v ∈ vs, ∃ neg e, v.1 = .fin neg 0 e) : (mxPack t vs ms).2.1 = 0 := by
  have hfinite : (vs.any fun v => v.1.special) = false := by
    refine List.any_eq_false.mpr fun v hv => ?_
    obtain ⟨neg, e, he⟩ := h v hv
    simp [he, Val.special]
  have hnone : maxExpo (vs.map Prod.fst) = none := by
    refine maxExpo_zeros fun x hx => ?_
    obtain ⟨v, hv, rfl⟩ := List.mem_map.mp hx
    exact h v hv
  rw [mxPack_finite hfinite, blockExpo, hnone]
  rfl

end

/-! ## vcvt (R63, R133) -/

section
variable (f : VecFields) (src tgt : Fmt) (k : Core)

/-- Codes and flags of vcvt, element by element. -/
def vcvtElems : List (Nat × Astat) :=
  (List.range 64).map fun l =>
    if (enabled k f).getLsbD l then
      let v := cvtIn src tgt ((getElems src.width (k.vreg f.va)).getD l 0)
      let r := convVal tgt (laneMode f k l) f.ovf v.1
      (r.1, v.2 ||| r.2)
    else (0, 0)

theorem map_fst_vcvtElems : (vcvtElems f src tgt k).map Prod.fst = (List.range 64).map fun l =>
    if (enabled k f).getLsbD l then
      (convVal tgt (laneMode f k l) f.ovf (cvtIn src tgt ((getElems src.width (k.vreg f.va)).getD l 0)).1).1
    else 0 := by
  rw [vcvtElems, List.map_map]
  refine List.map_congr_left fun l _ => ?_
  rw [Function.comp_apply]
  split <;> rfl

variable {f src tgt}

theorem vcvtEff_eq (hsrc : Fmt.ofCode f.fmt.toNat = some src) (htgt : Fmt.ofCode f.fmt2.toNat = some tgt) :
    vcvtEff f k =
      ((k.setLfsr ((draws k f.rnd.toNat (enabled k f)).map Prod.snd)).setVreg f.vd
        (putElems tgt.width (enabled k f) ((vcvtElems f src tgt k).map Prod.fst) (k.vreg f.vd))).flag
          (orFlags ((vcvtElems f src tgt k).map Prod.snd)) := by
  rw [vcvtEff, hsrc, htgt]
  rfl

theorem regWrites_vcvtEff : RegWrites k (vcvtEff f k) := ⟨_, _, _, rfl⟩

theorem writesVreg_vcvtEff : WritesVreg k (vcvtEff f k) f.vd := fun _ hn => vreg_setVreg_other _ hn _

theorem vreg_vcvtEff (hsrc : Fmt.ofCode f.fmt.toNat = some src) (htgt : Fmt.ofCode f.fmt2.toNat = some tgt) :
    (vcvtEff f k).vreg f.vd = putElems tgt.width (enabled k f) ((List.range 64).map fun l =>
      if (enabled k f).getLsbD l then
        (convVal tgt (laneMode f k l) f.ovf (cvtIn src tgt ((getElems src.width (k.vreg f.va)).getD l 0)).1).1
      else 0) (k.vreg f.vd) := by
  rw [vcvtEff_eq k hsrc htgt, vreg_flag, vreg_setVreg_same, map_fst_vcvtElems]

end

/-! ## vmxp (R138) -/

section
variable (m : Fmt) (f : VecFields) (k : Core)

/-- Block of the 32 lanes from n: element codes, scale code and flags. -/
def vmxpBlock (n : Nat) : List Nat × Nat × Astat :=
  mxPack m ((List.range 32).map fun l => fpIn (lane k f.va (n + l)))
    ((List.range 32).map fun l => ((draws k f.rnd.toNat (BitVec.allOnes 64)).getD (n + l) (.near, 0)).1)

/-- vd with the elements of both blocks. -/
def vmxpElems : List (BitVec 32) :=
  putElems m.width (BitVec.allOnes 64) ((vmxpBlock m f k 0).1 ++ (vmxpBlock m f k 32).1) (k.vreg f.vd)

/-- vc once the elements are written, which may be its own. -/
def vmxpUnder : List (BitVec 32) := if f.vd = f.vc then vmxpElems m f k else k.vreg f.vc

/-- A word with the scale codes of two blocks in its bytes 0 and 1. -/
def scaleWord (w a b : Nat) : Nat := setBits (setBits w 7 0 a) 15 8 b

/-- A register with the scale codes of two blocks in its bytes 0 and 1. -/
def withScales (old : List (BitVec 32)) (a b : Nat) : List (BitVec 32) :=
  (List.range 64).map fun l => if l = 0 then BitVec.ofNat 32 (scaleWord (old.getD 0 0).toNat a b) else old.getD l 0

theorem scaleWord_spec {w a b : Nat} (hw : w < 2 ^ 32) (ha : a < 256) (hb : b < 256) :
    scaleWord w a b < 2 ^ 32 ∧ bits (scaleWord w a b) 7 0 = a ∧ bits (scaleWord w a b) 15 8 = b ∧
      bits (scaleWord w a b) 31 16 = bits w 31 16 := by
  simp only [scaleWord, setBits, bits, Nat.reduceAdd, Nat.reduceSub, Nat.reducePow] at hw ⊢
  omega

theorem getD_withScales_other (old : List (BitVec 32)) (a b : Nat) {l : Nat} (h0 : 0 < l) (hl : l < 64) :
    (withScales old a b).getD l 0 = old.getD l 0 := by
  rw [withScales, getD_map_range _ _ hl, if_neg (Nat.ne_of_gt h0)]

theorem getD_withScales_zero (old : List (BitVec 32)) {a b : Nat} (ha : a < 256) (hb : b < 256) :
    ((withScales old a b).getD 0 0).toNat = scaleWord (old.getD 0 0).toNat a b := by
  obtain ⟨hlt, -⟩ := scaleWord_spec (old.getD 0 0).isLt ha hb
  rw [withScales, getD_map_range _ _ (by decide), if_pos rfl, BitVec.toNat_ofNat, Nat.mod_eq_of_lt hlt]

variable {m f}

theorem vmxpEff_eq (hm : Fmt.ofCode f.fmt2.toNat = some m) :
    vmxpEff f k =
      (((k.setLfsr ((draws k f.rnd.toNat (BitVec.allOnes 64)).map Prod.snd)).setVreg f.vd (vmxpElems m f k)).setVreg f.vc
        (withScales (vmxpUnder m f k) (vmxpBlock m f k 0).2.1 (vmxpBlock m f k 32).2.1)).flag
          ((vmxpBlock m f k 0).2.2 ||| (vmxpBlock m f k 32).2.2) := by
  have hunder : vmxpUnder m f k =
      ((k.setLfsr ((draws k f.rnd.toNat (BitVec.allOnes 64)).map Prod.snd)).setVreg f.vd (vmxpElems m f k)).vreg f.vc := by
    rw [vreg_setVreg, vreg_setLfsr, vmxpUnder]
    simp only [eq_comm]
  have hlow : vmxpBlock m f k 0 = mxPack m (((List.range 64).map fun l => fpIn (lane k f.va l)).take 32)
      (((draws k f.rnd.toNat (BitVec.allOnes 64)).map Prod.fst).take 32) := by
    rw [map_fst_draws, take_map_range _ 32 32, take_map_range _ 32 32, vmxpBlock]
  have hhigh : vmxpBlock m f k 32 = mxPack m (((List.range 64).map fun l => fpIn (lane k f.va l)).drop 32)
      (((draws k f.rnd.toNat (BitVec.allOnes 64)).map Prod.fst).drop 32) := by
    rw [map_fst_draws, drop_map_range _ 32 32, drop_map_range _ 32 32, vmxpBlock]
  rw [hunder, vmxpElems, hlow, hhigh, vmxpEff, hm]
  rfl

theorem regWrites_vmxpEff : RegWrites k (vmxpEff f k) := ⟨_, _, _, rfl⟩

theorem vreg_vmxpEff_other {n : BitVec 5} (hd : n ≠ f.vd) (hc : n ≠ f.vc) : (vmxpEff f k).vreg n = k.vreg n :=
  (vreg_setVreg_other _ hc _).trans (vreg_setVreg_other _ hd _)

section
variable (hm : Fmt.ofCode f.fmt2.toNat = some m)
include hm

theorem vreg_vmxpEff_elems (h : f.vd ≠ f.vc) : (vmxpEff f k).vreg f.vd = vmxpElems m f k := by
  rw [vmxpEff_eq k hm, vreg_flag, vreg_setVreg_other _ h, vreg_setVreg_same]

theorem vreg_vmxpEff_scales : (vmxpEff f k).vreg f.vc =
    withScales (vmxpUnder m f k) (vmxpBlock m f k 0).2.1 (vmxpBlock m f k 32).2.1 := by
  rw [vmxpEff_eq k hm, vreg_flag, vreg_setVreg_same]

theorem vmxpEff_invalid (h : (vmxpBlock m f k 0).2.1 = 0xFF ∨ (vmxpBlock m f k 32).2.1 = 0xFF) :
    (vmxpEff f k).astat &&& fCvtInvalid = fCvtInvalid := by
  rw [vmxpEff_eq k hm]
  refine flag_or_right ?_ k.astat
  rcases h with h | h
  · exact flag_or_left (mxPack_invalid h) _
  · exact flag_or_right (mxPack_invalid h) _

theorem lane_vmxpEff_other {l : Nat} (h0 : 0 < l) (hl : l < 64) :
    lane (vmxpEff f k) f.vc l = (vmxpUnder m f k).getD l 0 := by
  rw [lane, vreg_vmxpEff_scales k hm, getD_withScales_other _ _ _ h0 hl]

/-- The two scale codes, and the bytes above them. -/
theorem lane_vmxpEff_zero :
    bits (lane (vmxpEff f k) f.vc 0).toNat 7 0 = (vmxpBlock m f k 0).2.1 ∧
      bits (lane (vmxpEff f k) f.vc 0).toNat 15 8 = (vmxpBlock m f k 32).2.1 ∧
      bits (lane (vmxpEff f k) f.vc 0).toNat 31 16 = bits ((vmxpUnder m f k).getD 0 0).toNat 31 16 := by
  have hlow : (vmxpBlock m f k 0).2.1 < 256 := mxPack_scale_lt ..
  have hhigh : (vmxpBlock m f k 32).2.1 < 256 := mxPack_scale_lt ..
  rw [lane, vreg_vmxpEff_scales k hm, getD_withScales_zero _ hlow hhigh]
  exact (scaleWord_spec ((vmxpUnder m f k).getD 0 0).isLt hlow hhigh).2

end

end

/-! ## vmxu (R43, R138) -/

section
variable (m : Fmt) (f : VecFields) (k : Core) (l : Nat)

/-- Scale code of a lane's block. -/
def vmxuScale : Nat := if l < 32 then bits (lane k f.vc 0).toNat 7 0 else bits (lane k f.vc 0).toNat 15 8

theorem vmxuScale_eq :
    vmxuScale f k l = bits (lane k f.vc 0).toNat (if l < 32 then 7 else 15) (if l < 32 then 0 else 8) := by
  rw [vmxuScale]
  split <;> rfl

/-- Value of a lane of vmxu before its rounding. -/
def vmxuVal : Val :=
  if vmxuScale f k l = 255 then .nan
  else scaleVal (decodeVal m true ((getElems m.width (k.vreg f.va)).getD l 0)) ((vmxuScale f k l : Int) - 127)

/-- A lane of vmxu, rounded to FP32, with its flags. -/
def vmxuLane : BitVec 32 × Astat :=
  let r := convVal .fp32 (laneMode f k l) f.ovf (vmxuVal m f k l)
  (BitVec.ofNat 32 r.1, r.2)

variable {m f}

theorem vmxuEff_eq (hm : Fmt.ofCode f.fmt2.toNat = some m) :
    vmxuEff f k =
      ((k.setLfsr ((draws k f.rnd.toNat (enabled k f)).map Prod.snd)).setVreg f.vd
        (mapLanes (enabled k f) (k.vreg f.vd) (vmxuLane m f k)).1).flag
          (mapLanes (enabled k f) (k.vreg f.vd) (vmxuLane m f k)).2 := by
  rw [vmxuEff, hm]
  rfl

theorem regWrites_vmxuEff : RegWrites k (vmxuEff f k) := ⟨_, _, _, rfl⟩

theorem writesVreg_vmxuEff : WritesVreg k (vmxuEff f k) f.vd := fun _ hn => vreg_setVreg_other _ hn _

theorem lane_vmxuEff (hm : Fmt.ofCode f.fmt2.toNat = some m) (hl : l < 64) :
    lane (vmxuEff f k) f.vd l = if (enabled k f).getLsbD l then (vmxuLane m f k l).1 else lane k f.vd l := by
  rw [lane, vmxuEff_eq k hm, vreg_flag, vreg_setVreg_same, getD_mapLanes _ _ _ hl, ← lane]

variable {k l}

/-- A scale of 0xFF gives the canonical NaN (R43). -/
theorem vmxuLane_nan (h : vmxuScale f k l = 255) : (vmxuLane m f k l).1 = 0x7FC00000 := by
  rw [vmxuLane, vmxuVal, if_pos h]
  rfl

theorem vmxuLane_scaled (h : vmxuScale f k l ≠ 255) :
    (vmxuLane m f k l).1 = BitVec.ofNat 32 (convVal .fp32 (laneMode f k l) f.ovf
      (scaleVal (decodeVal m true ((getElems m.width (k.vreg f.va)).getD l 0)) ((vmxuScale f k l : Int) - 127))).1 := by
  rw [vmxuLane, vmxuVal, if_neg h]

end

/-! ## Check 7 of the conversions (R56, R133, R138) -/

section
variable {f : VecFields}

theorem mxOk_of {m : Fmt} (hm : Fmt.ofCode f.fmt2.toNat = some m) (hmx : f.mx2 = true) (hallowed : m.mxAllowed = true) :
    mxOk f = true := by
  simp [mxOk, hm, hmx, hallowed]

theorem vcvt_accepted {src tgt : Fmt} (hsrc : Fmt.ofCode f.fmt.toNat = some src)
    (htgt : Fmt.ofCode f.fmt2.toNat = some tgt) (hmx : f.mx2 = false) (hrnd : f.rnd ≠ 3) :
    ((Fmt.ofCode f.fmt.toNat).isSome && (Fmt.ofCode f.fmt2.toNat).isSome && !f.mx2 && f.rnd != 3) = true := by
  simpa [hsrc, htgt, hmx] using hrnd

theorem vcvt_refused (h : Fmt.ofCode f.fmt.toNat = none ∨ Fmt.ofCode f.fmt2.toNat = none ∨ f.mx2 = true ∨ f.rnd = 3) :
    ((Fmt.ofCode f.fmt.toNat).isSome && (Fmt.ofCode f.fmt2.toNat).isSome && !f.mx2 && f.rnd != 3) = false := by
  rcases h with h | h | h | h <;> simp [h]

theorem vmxu_accepted (hmx : mxOk f = true) (hrnd : f.rnd ≠ 3) : (mxOk f && f.rnd != 3) = true := by
  simpa [hmx] using hrnd

theorem vmxu_refused (h : mxOk f = false ∨ f.rnd = 3) : (mxOk f && f.rnd != 3) = false := by
  rcases h with h | h <;> simp [h]

theorem vmxp_accepted (hfmt : f.fmt = 0) (hmx : mxOk f = true) (hrnd : f.rnd ≠ 3) :
    (f.fmt == 0 && mxOk f && f.rnd != 3) = true := by
  simpa [hfmt, hmx] using hrnd

theorem vmxp_refused (h : f.fmt ≠ 0 ∨ mxOk f = false ∨ f.rnd = 3) : (f.fmt == 0 && mxOk f && f.rnd != 3) = false := by
  rcases h with h | h | h
  · rw [beq_eq_false_iff_ne.mpr h]
    rfl
  · simp [h]
  · simp [h]

end

/-! ## The statement -/

/-- Settles O21: each word is a write of registers, whose lanes, blocks and flags the lemmas above give, and a refused one
fails check 7. -/
theorem vectorConversions : Obligations.VectorConversions := by
  intro c f s h hu k runs stops
  have hruns : ∀ {i t}, exec i s = .next t → OnlyCore s t c → RegWrites (vecDispatched k) (core t c) → runs i t :=
    fun he honly hw => ⟨he, honly, hw.frame⟩
  have hstops : ∀ {i t}, exec i s = .next t → StoppedFormat k (core t c) → stops i :=
    fun he hstop => ⟨_, he, hstop.st, hstop.pc, hstop.regs, hstop.vec, hstop.status⟩
  refine ⟨fun src tgt hsrc htgt hmx hrnd => ?vcvt, fun hbad => hstops rfl (vecReg_refused h (vcvt_refused hbad) ..),
    fun m hm hmx hallowed hrnd => ?mx,
    fun hbad => ⟨hstops rfl (vecReg_refused h (vmxp_refused (.inr hbad)) ..),
      hstops rfl (vecReg_refused h (vmxu_refused hbad) ..)⟩,
    fun hfmt => hstops rfl (vecReg_refused h (vmxp_refused (.inl hfmt)) ..)⟩
  case vcvt =>
    obtain ⟨t, ht, honly, hcore⟩ := vecReg_accepted h hu (vcvt_accepted hsrc htgt hmx hrnd) (vcvtEff f)
    refine ⟨t, hruns (congrArg _ ht) honly ?_, ?_, ?_⟩ <;> rw [hcore]
    · exact regWrites_vcvtEff _
    · exact writesVreg_vcvtEff _
    · exact vreg_vcvtEff _ hsrc htgt
  case mx =>
    have hok := mxOk_of hm hmx hallowed
    refine ⟨fun hfmt => ?vmxp, ?vmxu, fun vs ms => ⟨mxPack_of_special, mxPack_scale_zeros⟩⟩
    case vmxp =>
      obtain ⟨t, ht, honly, hcore⟩ := vecReg_accepted h hu (vmxp_accepted hfmt hok hrnd) (vmxpEff f)
      obtain ⟨hlow, hhigh, habove⟩ := lane_vmxpEff_zero (vecDispatched k) hm
      refine ⟨t, hruns (congrArg _ ht) honly ?_, ?_⟩ <;> rw [hcore]
      · exact regWrites_vmxpEff _
      · exact ⟨fun _ hd hc => vreg_vmxpEff_other _ hd hc, vreg_vmxpEff_elems _ hm, fun l => lane_vmxpEff_other _ hm,
          hlow, hhigh, habove, vmxpEff_invalid _ hm⟩
    case vmxu =>
      obtain ⟨t, ht, honly, hcore⟩ := vecReg_accepted h hu (vmxu_accepted hok hrnd) (vmxuEff f)
      refine ⟨t, hruns (congrArg _ ht) honly ?_, ?_, fun l hl => ?_⟩ <;> rw [hcore]
      · exact regWrites_vmxuEff _
      · exact writesVreg_vmxuEff _
      · simp only [lane_vmxuEff _ _ hm hl, ← vmxuScale_eq]
        refine ⟨fun hoff => ?_, fun hon hscale => ?_, fun hon hscale => ?_⟩
        · rw [enabled_vecDispatched, if_neg (Bool.eq_false_iff.mp hoff), lane_vecDispatched]
        · rw [enabled_vecDispatched, if_pos hon]
          exact vmxuLane_nan hscale
        · rw [enabled_vecDispatched, if_pos hon]
          exact vmxuLane_scaled hscale

end Sys2Proof.Machine

/-!
Control words of the sequencer (R67, R71, R147, R148): what a dispatched word leaves of its core, the row of each arithmetic word
and branch, and the stop of a misplaced jump.
-/
namespace Sys2Proof.Machine

open Sys2Proof

/-! ## What a control word leaves -/

/-- A control word has run: of one core alone, what the sequencer changes differs, and the program counter is p. -/
structure RanTo (s t : State) (c p : Nat) : Prop where
  only : OnlyCore s t c
  frame : SeqFrame (core s c) (core t c)
  pc : (core t c).pc = p

theorem writesReg_advance (k : Core) (rd : BitVec 5) (v : Word) (p : Nat) :
    WritesReg k ((k.fetch.setSreg rd.toNat v).advance p) rd v := by
  intro n
  rw [advance_sreg, sreg_setSreg, fetch_sreg]

theorem ready_hold {s : State} {c : Nat} (h : Ready s c) : (core s c).hold = .none ∨ (core s c).hold = .wait := by
  obtain ⟨-, -, hhold⟩ := h
  exact hhold

section
variable {s : State} {c : Nat} (h : Ready s c)
include h

/-- A dispatched word that writes one scalar register. -/
theorem ranTo_setSreg (rd : BitVec 5) (v : Word) (p : Nat) :
    let t := setCore (setCore s c (core s c).fetch) c (((core s c).fetch.setSreg rd.toNat v).advance p)
    RanTo s t c p ∧ WritesReg (core s c) (core t c) rd v := by
  refine ⟨⟨onlyCore_setCore2 .., ?_, ?_⟩, ?_⟩ <;> rw [core_setCore_same]
  · exact seqFrame_setSreg (ready_hold h) ..
  · exact advance_pc ..
  · exact writesReg_advance _ rd v p

/-- A dispatched word that writes no register. -/
theorem ranTo_advance (p : Nat) :
    let t := setCore (setCore s c (core s c).fetch) c ((core s c).fetch.advance p)
    RanTo s t c p ∧ KeepsRegs (core s c) (core t c) := by
  refine ⟨⟨onlyCore_setCore2 .., ?_, ?_⟩, fun n => ?_⟩ <;> rw [core_setCore_same]
  · exact seqFrame_advance (ready_hold h) ..
  · exact advance_pc ..
  · rw [advance_sreg, fetch_sreg]

variable {check : Core → Check}

section
variable (hc : check (core s c).fetch = .pass) {p : Core → Nat} {q : Nat} (hp : p (core s c).fetch = q)
include hc hp

theorem ctlDispatch_write {v : Core → Word} {w : Word} (hv : v (core s c).fetch = w) (rd : BitVec 5) :
    let t := ctlDispatch s c check fun k => (k.setSreg rd.toNat (v k)).advance (p k)
    RanTo s t c q ∧ WritesReg (core s c) (core t c) rd w := by
  rw [ctlDispatch_ready h hc, hp, hv]
  exact ranTo_setSreg h rd w q

theorem ctlDispatch_jump :
    let t := ctlDispatch s c check fun k => k.advance (p k)
    RanTo s t c q ∧ KeepsRegs (core s c) (core t c) := by
  rw [ctlDispatch_ready h hc, hp]
  exact ranTo_advance h q

end

theorem ctlDispatch_illegal (hc : check (core s c).fetch = .illegal) (act : Core → Core) :
    StoppedIllegal s (ctlDispatch s c check act) c :=
  dispatch_illegal h hc

end

/-! ## Scalar arithmetic (R147, Table 4.18) -/

theorem add_ofNat (a b : Word) : a + b = BitVec.ofNat 64 (a.toNat + b.toNat) := BitVec.add_def ..

theorem sub_ofInt (a b : Word) : a - b = BitVec.ofInt 64 ((a.toNat : Int) - b.toNat) := by
  rw [Int.sub_eq_add_neg, BitVec.ofInt_add, BitVec.ofInt_neg, BitVec.ofInt_natCast, BitVec.ofInt_natCast,
    BitVec.ofNat_toNat, BitVec.ofNat_toNat, BitVec.setWidth_eq, BitVec.setWidth_eq, BitVec.sub_eq_add_neg]

theorem mul_ofNat (a b : Word) : a * b = BitVec.ofNat 64 (a.toNat * b.toNat) := BitVec.mul_def ..

theorem shl_ofNat (a b : Word) : a <<< shAmt b = BitVec.ofNat 64 (a.toNat * 2 ^ (b.toNat % 64)) := by
  apply BitVec.eq_of_toNat_eq
  rw [BitVec.toNat_shiftLeft, BitVec.toNat_ofNat, Nat.shiftLeft_eq, shAmt]

theorem shr_ofNat (a b : Word) : a >>> shAmt b = BitVec.ofNat 64 (a.toNat / 2 ^ (b.toNat % 64)) := by
  apply BitVec.eq_of_toNat_eq
  rw [BitVec.toNat_ushiftRight, BitVec.toNat_ofNat, Nat.shiftRight_eq_div_pow, shAmt,
    Nat.mod_eq_of_lt (Nat.lt_of_le_of_lt (Nat.div_le_self ..) a.isLt)]

theorem slt_toInt (a b : Word) : (if a.slt b then 1 else 0 : Word) = if a.toInt < b.toInt then 1 else 0 := by
  simp only [BitVec.slt, decide_eq_true_eq]

section
variable (c : CoreId) (f : CtlFields) (s : State)

theorem next_alu {op op' : Word → Word → Word} (h : ∀ a b, op a b = op' a b) :
    (.next (alu s c f op) : Host.Outcome State Fault Refusal) = .next (alu s c f op') := by
  rw [funext fun a => funext (h a)]

/-- Each row of scalar arithmetic is alu with the operation of its row. -/
theorem exec_aluRow : ∀ r ∈ aluRows, exec (r.1 c f) s = .next (alu s c f r.2) := by
  simp only [aluRows, List.forall_mem_cons, List.not_mem_nil, false_implies, implies_true, and_true]
  exact ⟨next_alu c f s add_ofNat, next_alu c f s sub_ofInt, next_alu c f s mul_ofNat, rfl, rfl, rfl,
    next_alu c f s shl_ofNat, next_alu c f s shr_ofNat, rfl, next_alu c f s slt_toInt, rfl⟩

end

theorem alu_runs {s : State} {c : Nat} (h : Ready s c) (f : CtlFields) (op : Word → Word → Word) :
    RanTo s (alu s c f op) c ((core s c).pc + 16) ∧ WritesReg (core s c) (core (alu s c f op) c) f.rd
      (op ((core s c).sreg f.ra.toNat) (op2 f (core s c))) :=
  ctlDispatch_write h (check := fun _ => .pass) rfl (p := fun k => k.pc + 16) (by rw [fetch_pc])
    (v := fun k => op (k.sreg f.ra.toNat) (op2 f k)) (by simp only [op2, fetch_sreg]) f.rd

/-- Settles O3: a row is alu with its operation, which writes rd and goes on to the next word. -/
theorem scalarArithmetic : Obligations.ScalarArithmetic := by
  intro r hr c f s h
  obtain ⟨⟨honly, hframe, hpc⟩, hregs⟩ := alu_runs h f r.2
  exact ⟨_, exec_aluRow c f s r hr, honly, hframe, hpc, hregs⟩

/-! ## Branches and jumps (R148) -/

theorem jumpPc_eq (pc : Nat) (imm : Word) : jumpPc pc imm = (pc + imm.toNat) % 2 ^ 64 := by
  rw [jumpPc, BitVec.toNat_add, BitVec.toNat_ofNat, Nat.mod_add_mod]

theorem step16_iff {v : Word} : step16 v = true ↔ v.toNat % 16 = 0 := beq_iff_eq

theorem slt_decide (a b : Word) : a.slt b = decide (a.toInt < b.toInt) := rfl

theorem not_slt_decide (a b : Word) : (!a.slt b) = decide (b.toInt ≤ a.toInt) := by
  simp only [BitVec.slt, ← decide_not, Int.not_lt]

theorem beq_decide (a b : Word) : (a == b) = decide (a = b) := rfl

theorem bne_decide (a b : Word) : (a != b) = decide (a ≠ b) := by
  rw [bne, beq_decide, ← decide_not]

section
variable (c : CoreId) (f : CtlFields) (s : State)

theorem next_branch {cond cond' : Word → Word → Bool} (h : ∀ a b, cond a b = cond' a b) :
    (.next (branch s c f cond) : Host.Outcome State Fault Refusal) = .next (branch s c f cond') := by
  rw [funext fun a => funext (h a)]

/-- Each conditional branch is branch with the comparison of its row. -/
theorem exec_branchRow : ∀ r ∈ branchRows, exec (r.1 c f) s = .next (branch s c f r.2) := by
  simp only [branchRows, List.forall_mem_cons, List.not_mem_nil, false_implies, implies_true, and_true]
  exact ⟨next_branch c f s beq_decide, next_branch c f s bne_decide, rfl, next_branch c f s not_slt_decide,
    rfl, rfl⟩

end

section
variable {s : State} {c : Nat} (h : Ready s c) {f : CtlFields}
include h

theorem branch_runs (himm : step16 f.imm = true) (cond : Word → Word → Bool) :
    RanTo s (branch s c f cond) c (if cond ((core s c).sreg f.ra.toNat) ((core s c).sreg f.rb.toNat)
        then ((core s c).pc + f.imm.toNat) % 2 ^ 64 else (core s c).pc + 16) ∧
      KeepsRegs (core s c) (core (branch s c f cond) c) :=
  ctlDispatch_jump h (check := fun _ => Check.need (step16 f.imm) .illegal) (if_pos himm)
    (p := fun k => if cond (k.sreg f.ra.toNat) (k.sreg f.rb.toNat) then jumpPc k.pc f.imm else k.pc + 16)
    (by simp only [fetch_pc, fetch_sreg, jumpPc_eq])

theorem branch_misplaced (himm : ¬step16 f.imm = true) (cond : Word → Word → Bool) :
    StoppedIllegal s (branch s c f cond) c :=
  ctlDispatch_illegal h (check := fun _ => Check.need (step16 f.imm) .illegal) (if_neg himm) _

end

/-- Settles O4: a row is branch with its comparison, which writes no register. -/
theorem branches : Obligations.Branches := by
  intro r hr c f s h himm
  obtain ⟨⟨honly, hframe, hpc⟩, hregs⟩ := branch_runs h (step16_iff.mpr himm) r.2
  exact ⟨_, exec_branchRow c f s r hr, honly, hframe, hregs, hpc⟩

/-- What jalr asks of its operands (R148). -/
theorem jalr_step_iff {f : CtlFields} {k : Core} :
    (step16 f.imm && step16 (k.fetch.sreg f.ra.toNat + f.imm)) = true ↔
      f.imm.toNat % 16 = 0 ∧ (k.sreg f.ra.toNat + f.imm).toNat % 16 = 0 := by
  rw [Bool.and_eq_true, step16_iff, step16_iff, fetch_sreg]

/-- Settles O5: both words write the link to rd, and their target is taken from the core before that write. -/
theorem jumps : Obligations.Jumps := by
  intro c f s h himm
  have hlink : BitVec.ofNat 64 ((core s c).fetch.pc + 16) = BitVec.ofNat 64 ((core s c).pc + 16) := by rw [fetch_pc]
  refine ⟨?jal, fun htarget => ?jalr⟩
  case jal =>
    obtain ⟨⟨honly, hframe, hpc⟩, hregs⟩ := ctlDispatch_write h (check := fun _ => Check.need (step16 f.imm) .illegal)
      (if_pos (step16_iff.mpr himm)) (p := fun k => jumpPc k.pc f.imm) (by rw [fetch_pc, jumpPc_eq])
      (v := fun k => BitVec.ofNat 64 (k.pc + 16)) hlink f.rd
    exact ⟨_, rfl, honly, hframe, hregs, hpc⟩
  case jalr =>
    obtain ⟨⟨honly, hframe, hpc⟩, hregs⟩ := ctlDispatch_write h
      (check := fun k => Check.need (step16 f.imm && step16 (k.sreg f.ra.toNat + f.imm)) .illegal)
      (if_pos (jalr_step_iff.mpr ⟨himm, htarget⟩)) (p := fun k => (k.sreg f.ra.toNat + f.imm).toNat) (by rw [fetch_sreg])
      (v := fun k => BitVec.ofNat 64 (k.pc + 16)) hlink f.rd
    exact ⟨_, rfl, honly, hframe, hregs, hpc⟩

/-- Settles O6: such a word fails check 4, and the stop of an illegal instruction is all that it does. -/
theorem misplacedJumpStops : Obligations.MisplacedJumpStops := by
  intro c f s h stops
  have hstops : ∀ {i t}, exec i s = .next t → StoppedIllegal s t c → stops i :=
    fun he hstop => ⟨_, he, hstop.st, hstop.pc, hstop.regs, hstop.status⟩
  have hjalr (hbad : ¬(f.imm.toNat % 16 = 0 ∧ ((core s c).sreg f.ra.toNat + f.imm).toNat % 16 = 0)) : stops (.jalr c f) :=
    hstops rfl (ctlDispatch_illegal h
      (check := fun k => Check.need (step16 f.imm && step16 (k.sreg f.ra.toNat + f.imm)) .illegal)
      (if_neg fun hs => hbad (jalr_step_iff.mp hs)) _)
  refine ⟨fun himm => ?_, fun htarget => hjalr fun hboth => htarget hboth.2⟩
  have hstep : ¬step16 f.imm = true := fun hs => himm (step16_iff.mp hs)
  exact ⟨fun r hr => hstops (exec_branchRow c f s r hr) (branch_misplaced h hstep r.2),
    hstops rfl (ctlDispatch_illegal h (check := fun _ => Check.need (step16 f.imm) .illegal) (if_neg hstep) _),
    hjalr fun hboth => himm hboth.1⟩

end Sys2Proof.Machine

/-!
Local loads and stores (R72, R149, R158): bytes of a scratchpad read and written, what a write leaves of its core, the rows of the
local accesses, and the fault of an access that is misaligned or outside.
-/
namespace Sys2Proof.Machine

open Sys2Proof

/-! ## Bytes of a number and of a memory (R3) -/

theorem getD_leBytes {n i : Nat} (h : i < n) (v : Nat) : (leBytes n v).getD i 0 = BitVec.ofNat 8 (v / 256 ^ i) := by
  induction n generalizing i v with
  | zero => exact absurd h (Nat.not_lt_zero i)
  | succ n ih =>
    cases i with
    | zero =>
      apply BitVec.eq_of_toNat_eq
      simp [leBytes]
    | succ i => rw [leBytes, List.getD_cons_succ, ih (Nat.lt_of_succ_lt_succ h), Nat.div_div_eq_div_mul, Nat.pow_succ']

theorem ofNat_div_pow {w : Nat} (v : BitVec w) (i : Nat) : BitVec.ofNat 8 (v.toNat / 256 ^ i) = v.extractLsb' (8 * i) 8 := by
  apply BitVec.eq_of_toNat_eq
  rw [BitVec.toNat_ofNat, BitVec.extractLsb'_toNat, Nat.shiftRight_eq_div_pow, Nat.pow_mul]

/-- Byte i of the low bytes of a word. -/
theorem getD_leBytes_toNat {w n i : Nat} (h : i < n) (v : BitVec w) :
    (leBytes n v.toNat).getD i 0 = v.extractLsb' (8 * i) 8 := by
  rw [getD_leBytes h, ofNat_div_pow]

theorem leNat_lt (bs : List Byte) : leNat bs < 256 ^ bs.length := by
  induction bs with
  | nil => exact Nat.one_pos
  | cons b bs ih =>
    have := b.isLt
    rw [leNat, List.length_cons, Nat.pow_succ]
    omega

theorem leNat_spmRead_lt (s : State) (c a n : Nat) : leNat (spmRead s c a n) < 256 ^ n := by
  simpa only [spmRead, memRead_length] using leNat_lt (spmRead s c a n)

theorem spmKey_add (c a i : Nat) : spmKey c (a + i) = spmKey c a + i := (Nat.add_assoc ..).symm

/-- Of a memory, the bytes of core c's scratchpad from a on are those of a list, and every other byte is as before. -/
structure WritesAt (m m' : Mem) (c a : Nat) (bs : List Byte) : Prop where
  same : ∀ i, i < bs.length → memGet m' (spmKey c (a + i)) = bs.getD i 0
  other : ∀ x, (∀ i, i < bs.length → x ≠ spmKey c (a + i)) → memGet m' x = memGet m x

theorem writesAt_memWrite {m : Mem} (hwf : Memory.wf m = true) (c a : Nat) (bs : List Byte) :
    WritesAt m (memWrite m (spmKey c a) bs) c a bs where
  same i hi := by
    rw [spmKey_add, memGet_memWrite_same hwf hi, List.getD_eq_getElem?_getD,
      List.getElem?_eq_getElem hi, Option.getD_some]
  other x hx := by
    refine memGet_memWrite_other bs (Classical.byContradiction fun hin => ?_)
    refine hx (x - spmKey c a) (by omega) ?_
    rw [spmKey_add]
    omega

theorem wf_spm {s : State} (h : s.memsWf = true) : Memory.wf s.spm = true := by
  simp only [State.memsWf, Bool.and_eq_true] at h
  obtain ⟨⟨hspm, -⟩, -⟩ := h
  exact hspm

/-! ## A write to the scratchpad -/

theorem OnlyCore.spm {s t : State} {c : Nat} (h : OnlyCore s t c) : t.spm = s.spm := by rw [h.1]

theorem OnlyCore.trans {s t u : State} {c : Nat} (h : OnlyCore s t c) (g : OnlyCore t u c) : OnlyCore s u c := by
  obtain ⟨hrest, hcores⟩ := h
  obtain ⟨grest, gcores⟩ := g
  exact ⟨by rw [grest, hrest], fun d hd => (gcores d hd).trans (hcores d hd)⟩

theorem OnlyCore.trans_spm {s t u : State} {c : Nat} (h : OnlyCore s t c) (g : OnlyCoreSpm t u c) : OnlyCoreSpm s u c := by
  obtain ⟨hrest, hcores⟩ := h
  obtain ⟨grest, gcores⟩ := g
  exact ⟨by rw [grest, hrest], fun d hd => (gcores d hd).trans (hcores d hd)⟩

/-- Gatherer and merge count aside, the core is unchanged (R158 to R160). -/
def OnlyGath (k k' : Core) : Prop := k' = { k with gath := k'.gath, merged := k'.merged }

section
variable {k k' : Core} (h : OnlyGath k k')
include h

theorem OnlyGath.sreg (n : Nat) : k'.sreg n = k.sreg n := by rw [h]; rfl
theorem OnlyGath.pc : k'.pc = k.pc := by rw [h]
theorem OnlyGath.vec : k'.vec = k.vec := by rw [h]

end

theorem onlyGath_gather (k : Core) (line : Nat) (mask : BitVec 64) : OnlyGath k (k.gather line mask) := by
  unfold Core.gather
  split <;> rfl

/-- Bytes have entered core c's scratchpad from a on, and of the core the gatherer alone differs. -/
structure StoresAt (s t : State) (c a : Nat) (bs : List Byte) : Prop where
  only : OnlyCoreSpm s t c
  core : OnlyGath (core s c) (core t c)
  bytes : WritesAt s.spm t.spm c a bs

theorem spmWrite_stores {s : State} (hwf : Memory.wf s.spm = true) (c a : Nat) (bs : List Byte) (narrow : Bool) :
    StoresAt s (spmWrite s c a bs narrow) c a bs := by
  have hset {k : Core} (hk : OnlyGath (core s c) k) :
      StoresAt s (setCore { s with spm := memWrite s.spm (spmKey c a) bs } c k) c a bs :=
    ⟨⟨rfl, fun _ hd => core_setCore_other _ k hd⟩, by rwa [core_setCore_same], writesAt_memWrite hwf c a bs⟩
  unfold spmWrite
  split
  case isTrue hempty =>
    rw [List.isEmpty_iff.mp hempty]
    exact ⟨⟨rfl, fun _ _ => rfl⟩, rfl, ⟨fun _ hi => absurd hi (Nat.not_lt_zero _), fun _ _ => rfl⟩⟩
  case isFalse =>
    dsimp only
    split
    · exact hset (onlyGath_gather ..)
    · exact hset rfl

/-! ## Dispatch of a local access (R72, R149) -/

section
variable {f : CtlFields} {k : Core}

@[simp] theorem scalarAddr_fetch : scalarAddr f k.fetch = scalarAddr f k := by rw [scalarAddr, fetch_sreg, scalarAddr]

theorem localCheck_pass {n : Nat} (halign : scalarAddr f k % n = 0) (hfit : scalarAddr f k + n ≤ spmSize) :
    localCheck f n k.fetch = .pass := by
  simp [localCheck, Check.need, halign, hfit]

theorem localCheck_illegal {n : Nat} (h : scalarAddr f k % n ≠ 0 ∨ spmSize < scalarAddr f k + n) :
    localCheck f n k.fetch = .illegal := by
  have hbad : ¬(scalarAddr f k % n = 0 ∧ scalarAddr f k + n ≤ spmSize) := by omega
  simpa [localCheck, Check.need] using hbad

theorem freeToRead_fetch {a n : Nat} (h : FreeToRead k a n) : FreeToRead k.fetch a n := by
  simpa only [FreeToRead, fetch_sb] using h

theorem freeToWrite_fetch {a n : Nat} (h : FreeToWrite k a n) : FreeToWrite k.fetch a n := by
  simpa only [FreeToWrite, fetch_sb] using h

end

section
variable {s : State} {c : Nat} (h : Ready s c) {f : CtlFields} {n : Nat}
include h

section
variable (halign : scalarAddr f (core s c) % n = 0) (hfit : scalarAddr f (core s c) + n ≤ spmSize)
include halign hfit

theorem load_runs (hfree : FreeToRead (core s c) (scalarAddr f (core s c)) n) (ext : Nat → Word) :
    RanTo s (load s c f .none n ext) c ((core s c).pc + 16) ∧
      WritesReg (core s c) (core (load s c f .none n ext) c) f.rd
        (ext (leNat (spmRead s c (scalarAddr f (core s c)) n))) := by
  have hrun : load s c f .none n ext = setCore (setCore s c (core s c).fetch) c
      (((core s c).fetch.setSreg f.rd.toNat (ext (leNat (spmRead s c (scalarAddr f (core s c)) n)))).advance
        ((core s c).pc + 16)) := by
    rw [load, dispatch_ready (sync := false) (wait := fun _ => 0) h nofun (localCheck_pass halign hfit) _ rfl]
    · simp only [core_setCore_same, scalarAddr_fetch, fetch_pc]
      rfl
    · rw [localRange, scalarAddr_fetch]
      exact holdRow_read (freeToRead_fetch hfree)
  rw [hrun]
  exact ranTo_setSreg h f.rd _ _

theorem store_runs (hwf : Memory.wf s.spm = true) (hfree : FreeToWrite (core s c) (scalarAddr f (core s c)) n) :
    ∃ u, OnlyCore s u c ∧ core u c = (core s c).fetch.advance ((core s c).pc + 16) ∧
      StoresAt u (store s c f n) c (scalarAddr f (core s c)) (leBytes n ((core s c).sreg f.rb.toNat).toNat) := by
  refine ⟨setCore (setCore s c (core s c).fetch) c ((core s c).fetch.advance ((core s c).pc + 16)),
    onlyCore_setCore2 .., core_setCore_same .., ?_⟩
  rw [store, dispatch_ready (sync := false) (wait := fun _ => 0) h nofun (localCheck_pass halign hfit) _ rfl]
  · simp only [core_setCore_same, scalarAddr_fetch, fetch_pc, fetch_sreg]
    refine spmWrite_stores ?_ ..
    exact hwf
  · rw [localRange, scalarAddr_fetch]
    exact holdRow_write (freeToWrite_fetch hfree)

end

section
variable (hbad : scalarAddr f (core s c) % n ≠ 0 ∨ spmSize < scalarAddr f (core s c) + n)
include hbad

theorem load_misplaced (g : Glitch) (ext : Nat → Word) : StoppedIllegal s (load s c f g n ext) c :=
  dispatch_illegal h (localCheck_illegal hbad)

theorem store_misplaced : StoppedIllegal s (store s c f n) c :=
  dispatch_illegal h (localCheck_illegal hbad)

end

end

/-! ## The rows (Table 4.18) -/

theorem ofNat_eq_extended (n v : Nat) : BitVec.ofNat 64 v = extended false n v := rfl

/-- Sign extension of a value of n bytes. -/
theorem sext_eq_extended {n v : Nat} (hv : v < 256 ^ n) : sext n v = extended true n v := by
  have hpow : (256 : Nat) ^ n = 2 ^ (8 * n) := (Nat.pow_mul 2 8 n).symm
  rw [sext, signedOf, Nat.mod_eq_of_lt (hpow ▸ hv), extended]
  by_cases hneg : v < 2 ^ (8 * n - 1)
  · simp [hneg, Nat.not_le.mpr hneg]
  · simp [hneg, Nat.not_lt.mp hneg]

/-- A row of the local loads is load with a function that extends its bytes. -/
theorem exec_loadRow : ∀ r ∈ loadRows, ∃ ext : Nat → Word, (∀ v, v < 256 ^ r.2.1 → ext v = extended r.2.2 r.2.1 v) ∧
    ∀ c f g s, exec (r.1 c f g) s = .next (load s c f g r.2.1 ext) := by
  simp only [loadRows, List.forall_mem_cons, List.not_mem_nil, false_implies, implies_true, and_true]
  exact ⟨⟨_, fun v _ => ofNat_eq_extended 1 v, fun _ _ _ _ => rfl⟩, ⟨_, fun v _ => ofNat_eq_extended 2 v, fun _ _ _ _ => rfl⟩,
    ⟨_, fun v _ => ofNat_eq_extended 4 v, fun _ _ _ _ => rfl⟩, ⟨_, fun v _ => ofNat_eq_extended 8 v, fun _ _ _ _ => rfl⟩,
    ⟨_, fun _ => sext_eq_extended, fun _ _ _ _ => rfl⟩,
    ⟨_, fun _ => sext_eq_extended, fun _ _ _ _ => rfl⟩,
    ⟨_, fun _ => sext_eq_extended, fun _ _ _ _ => rfl⟩⟩

theorem exec_storeRow : ∀ r ∈ storeRows, ∀ c f s, exec (r.1 c f) s = .next (store s c f r.2) := by
  simp only [storeRows, List.forall_mem_cons, List.not_mem_nil, false_implies, implies_true, and_true]
  exact ⟨fun _ _ _ => rfl, fun _ _ _ => rfl, fun _ _ _ => rfl, fun _ _ _ => rfl⟩

/-! ## The statements -/

/-- Settles O7: a row is load, and the value read is below 256^n, where its extension is that of the row. -/
theorem localLoads : Obligations.LocalLoads := by
  rintro r hr c f s a h rfl halign hfit hfree
  obtain ⟨ext, hext, he⟩ := exec_loadRow r hr
  obtain ⟨⟨honly, hframe, hpc⟩, hregs⟩ := load_runs h halign hfit hfree ext
  rw [hext _ (leNat_spmRead_lt ..)] at hregs
  exact ⟨_, he c f .none s, honly, hframe, hpc, hregs⟩

/-- Settles O8: the store dispatches, and then writes its bytes, by which the gatherer alone changes in the core. -/
theorem localStores : Obligations.LocalStores := by
  rintro r hr c f s a h hwf rfl halign hfit hfree
  obtain ⟨u, honly, hcore, hstore⟩ := store_runs h halign hfit (wf_spm hwf) hfree
  obtain ⟨honlySpm, hgath, hsame, hother⟩ := hstore
  rw [hcore] at hgath
  rw [honly.spm] at hother
  simp only [length_leBytes] at hsame hother
  refine ⟨_, exec_storeRow r hr c f s, honly.trans_spm honlySpm, ?frame, fun n => ?regs, hgath.pc, fun i hi => ?bytes, hother⟩
  case frame =>
    have hback : { core (store s c f r.2) c with gath := (core s c).gath, merged := (core s c).merged } =
        (core s c).fetch.advance ((core s c).pc + 16) := by
      rw [hgath, fetch_eq]
      rfl
    rw [hback]
    exact seqFrame_advance (ready_hold h) _
  case regs => rw [hgath.sreg, advance_sreg, fetch_sreg]
  case bytes => exact (hsame i hi).trans (getD_leBytes_toNat hi _)

/-- Settles O9: the access fails check 5, and the stop of an illegal instruction is all that it does. -/
theorem localAccessFaults : Obligations.LocalAccessFaults := by
  rintro c f s a h rfl stops
  have hstops : ∀ {i t}, exec i s = .next t → StoppedIllegal s t c → stops i :=
    fun he hstop => ⟨_, he, hstop.st, hstop.spm, hstop.hbm, hstop.sram, hstop.regs, hstop.status⟩
  refine ⟨fun r hr g hbad => ?_, fun r hr hbad => hstops (exec_storeRow r hr c f s) (store_misplaced h hbad)⟩
  obtain ⟨ext, -, he⟩ := exec_loadRow r hr
  exact hstops (he c f g s) (load_misplaced h hbad g ext)

end Sys2Proof.Machine

/-!
Words of the vector unit on its formats, predicates and reductions (R131, R132, R135, R136, log 68): check 7 of an arithmetic
word, the bits of a predicate, and lane 0 of a reduction.
-/
namespace Sys2Proof.Machine

open Sys2Proof

/-! ## Formats of vector arithmetic (R131, R132) -/

theorem arithFmt_eq_ofCode {f : VecFields} (h : f.fmt = 0 ∨ f.fmt = 8 ∨ f.fmt = 10 ∨ f.fmt = 11) :
    arithFmt f = Fmt.ofCode f.fmt.toNat := by
  rcases h with h | h | h | h <;> rw [arithFmt, h] <;> rfl

section
variable {f : VecFields} {rounds : Bool} (h : arithOk rounds f)
include h

theorem fmtOf_eq_fp32_iff : fmtOf f = .fp32 ↔ f.fmt = 0 := by
  obtain ⟨hfmt, -⟩ := h
  rw [fmtOf, arithFmt_eq_ofCode hfmt]
  rcases hfmt with hf | hf | hf | hf <;> rw [hf] <;> decide

/-- Check 7 of an arithmetic word passes under the condition that the statements give it. -/
theorem arithCheck_pass (k : Core) : arithCheck f rounds k = .pass := by
  have hfp := fmtOf_eq_fp32_iff h
  obtain ⟨hfmt, hrnd⟩ := h
  have hsome : (arithFmt f).isSome = true := by
    rw [arithFmt_eq_ofCode hfmt]
    rcases hfmt with hf | hf | hf | hf <;> rw [hf] <;> rfl
  refine if_pos ?_
  rw [hsome, Bool.true_and, Bool.not_eq_true']
  refine Bool.eq_false_iff.mpr fun hbad => hrnd ?_
  simpa [Bool.and_eq_true, hfp, and_assoc] using hbad

end

/-! ## Predicates (R66, R130, R135) -/

@[simp] theorem vec_flag (k : Core) (fl : Astat) : (k.flag fl).vec = k.vec := rfl

theorem flag_zero (k : Core) : k.flag 0 = k := by
  simp [Core.flag]

@[simp] theorem pred_setPred_same (k : Core) (d : BitVec 3) (x : BitVec 64) : (k.setPred d x).vec.pred d.toNat = x := by
  simp [Core.setPred, VecSt.pred]

theorem pred_setPred_other (k : Core) {d n : BitVec 3} (h : n ≠ d) (x : BitVec 64) :
    (k.setPred d x).vec.pred n.toNat = k.vec.pred n.toNat := by
  have hno : n.toNat ≠ d.toNat := fun e => h (BitVec.eq_of_toNat_eq e)
  simp [Core.setPred, VecSt.pred, aget_aput_other hno]

theorem getLsbD_maskOf (p : Nat → Bool) {n l : Nat} (hl : l < 64) : (maskOf p n).getLsbD l = (decide (l < n) && p l) := by
  induction n with
  | zero => simp [maskOf]
  | succ n ih =>
    rw [maskOf, BitVec.getLsbD_or, ih]
    rcases Nat.lt_trichotomy l n with hlt | rfl | hgt
    · have hne : n ≠ l := (Nat.ne_of_lt hlt).symm
      split <;> simp [hlt, Nat.lt_succ_of_lt hlt, hne]
    · split <;> simp [*]
    · have hne : n ≠ l := Nat.ne_of_lt hgt
      have hle : ¬l < n + 1 := by omega
      split <;> simp [Nat.lt_asymm hgt, hle, hne]

/-- Bit l of the predicate that vcmp writes. -/
theorem pred_vcmpEff (f : VecFields) (k : Core) {l : Nat} (hl : l < 64) :
    ((vcmpEff f k).vec.pred f.pd.toNat).getLsbD l =
      if (enabled k f).getLsbD l then (cmpLane f (lane k f.va l) ((second k f).getD l 0)).1
      else (k.vec.pred f.pd.toNat).getLsbD l := by
  rw [vcmpEff, vec_flag, pred_setPred_same, BitVec.getLsbD_or, BitVec.getLsbD_and, BitVec.getLsbD_and, BitVec.getLsbD_not,
    getLsbD_maskOf _ hl, getD_map_range _ _ hl]
  cases (enabled k f).getLsbD l <;> simp [hl, lane]

/-! ## vsel (R135) -/

theorem lane_vselEff (f : VecFields) (k : Core) {l : Nat} (hl : l < 64) :
    lane (vselEff f k) f.vd l =
      if (k.vec.pred f.pg.toNat).getLsbD l then lane k f.va l else (second k f).getD l 0 := by
  rw [lane, vselEff, vreg_setVreg_same, getD_map_range _ _ hl, lane]

/-- Settles O19: each word is a write of one predicate or register of the dispatched core. -/
theorem vectorPredicates : Obligations.VectorPredicates := by
  intro c f s h hu k others
  have hothers {t : State} {x : BitVec 64} {fl : Astat} (honly : OnlyCore s t c)
      (hcore : core t c = ((vecDispatched k).setPred f.pd x).flag fl) : others t := by
    refine ⟨honly, ?_, ?_, fun n hn => ?_⟩ <;> rw [hcore]
    · rfl
    · exact flag_or_left BitVec.and_self fl
    · exact pred_setPred_other _ hn x
  refine ⟨?vpset, fun hok hcond => ?vcmp, ?vsel⟩
  case vpset =>
    obtain ⟨t, ht, honly, hcore⟩ := vecReg_pass h hu (check := noCheck) rfl fun k => k.setPred f.pd (k.sreg f.rs.toNat)
    refine ⟨t, congrArg _ ht, hothers (fl := 0) honly (hcore.trans (flag_zero _).symm), ?_, ?_⟩ <;> rw [hcore]
    · rfl
    · exact pred_setPred_same ..
  case vcmp =>
    have hcheck : ((arithCheck f false (core s c).fetch).and (Check.need (f.cond != 7) .format)) = .pass := by
      rw [arithCheck_pass hok, Check.and, if_pos rfl, Check.need, if_pos (bne_iff_ne.mpr hcond)]
    obtain ⟨t, ht, honly, hcore⟩ := vecReg_pass h hu
      (check := fun k => (arithCheck f false k).and (Check.need (f.cond != 7) .format)) hcheck (vcmpEff f)
    refine ⟨t, congrArg _ ht, hothers honly hcore, ?_, fun l hl => ?_⟩ <;> rw [hcore]
    · rfl
    · exact pred_vcmpEff f _ hl
  case vsel =>
    obtain ⟨t, ht, honly, hcore⟩ := vecReg_pass h hu (check := noCheck) rfl (vselEff f)
    refine ⟨t, congrArg _ ht, honly, ?_, ?_, fun n hn => ?_, ?_, fun l hl => ?_⟩ <;> rw [hcore]
    · rfl
    · rfl
    · exact vreg_setVreg_other _ hn _
    · rfl
    · exact lane_vselEff f _ hl

/-! ## Reductions (R136) -/

section
variable (k : Core) (f : VecFields) (r : BitVec 32)

theorem lane_redOut_zero : lane (redOut k f r) f.vd 0 = r := by
  rw [lane, redOut, vreg_setVreg_same]
  rfl

theorem lane_redOut_pos {l : Nat} (h0 : 0 < l) (hl : l < 64) : lane (redOut k f r) f.vd l = 0 := by
  obtain ⟨l, rfl⟩ := Nat.exists_eq_add_one_of_ne_zero (Nat.ne_of_gt h0)
  rw [lane, redOut, vreg_setVreg_same, List.getD_cons_succ, List.getD_eq_getElem?_getD, List.getElem?_replicate,
    if_pos (Nat.lt_of_succ_lt_succ hl), Option.getD_some]

end

/-- Result of a reduction, which enters lane 0 (R131, R136). -/
def redResult (f : VecFields) (rounds : Bool) (fp : Rnd → BitVec 32 → BitVec 32 → BitVec 32 × Astat) (neutral : BitVec 32)
    (int : Int → Int → Int) (z : Int) (k : Core) : BitVec 32 :=
  if f.fmt = 0 then (tree (if rounds then f.rnd.toNat else 0) fp (redSrc k f neutral) k.vec.lfsr).1.getD 0 0
  else (intOut (fmtOf f) f.ovf (((List.range 64).map fun l =>
    if (enabled k f).getLsbD l then intIn (fmtOf f) (lane k f.va l) else z).foldl int z)).1

/-- A reduction writes its result through redOut; LFSRs and flags besides. -/
theorem reduceEff_eq {f : VecFields} {rounds : Bool} (h : arithOk rounds f)
    (fp : Rnd → BitVec 32 → BitVec 32 → BitVec 32 × Astat) (neutral : BitVec 32) (int : Int → Int → Int) (z : Fmt → Int)
    (k : Core) : ∃ ls fl, reduceEff f rounds fp neutral int z k =
      (redOut (k.setLfsr ls) f (redResult f rounds fp neutral int (z (fmtOf f)) k)).flag fl := by
  have hfp := fmtOf_eq_fp32_iff h
  unfold reduceEff redResult
  split
  case h_1 hf => exact ⟨_, _, by rw [if_pos (hfp.mp hf)]; rfl⟩
  case h_2 hf => exact ⟨k.vec.lfsr, _, by rw [if_neg fun h0 => hf (hfp.mpr h0)]; rfl⟩

section
variable (c : CoreId) (f : VecFields) (g : Glitch) (s : State)

theorem exec_vredmax : exec (.vredmax c f g) s = .next (vecReg s c g (arithCheck f false)
    (reduceEff f false (fun _ => fpMinMax true) 0xFF800000 (fun a b => if a ≤ b then b else a) intMin)) := by
  rw [← funext fun a => funext fun b => Int.max_def a b]
  rfl

theorem exec_vredmin : exec (.vredmin c f g) s = .next (vecReg s c g (arithCheck f false)
    (reduceEff f false (fun _ => fpMinMax false) 0x7F800000 (fun a b => if a ≤ b then a else b) intMax)) := by
  rw [← funext fun a => funext fun b => Int.min_def a b]
  rfl

end

/-- Settles O20: each word is a reduction with the operation of its row, and its result enters the lanes through redOut. -/
theorem vectorReductions : Obligations.VectorReductions := by
  intro c f s h hu k gives
  have hgives {i : Instr} {rounds : Bool} (hok : arithOk rounds f) (fp : Rnd → BitVec 32 → BitVec 32 → BitVec 32 × Astat)
      (neutral : BitVec 32) (int : Int → Int → Int) (z : Fmt → Int)
      (he : exec i s = .next (vecReg s c .none (arithCheck f rounds) (reduceEff f rounds fp neutral int z))) :
      gives i (if rounds then f.rnd.toNat else 0) fp neutral int (z (fmtOf f)) := by
    obtain ⟨t, ht, honly, hcore⟩ := vecReg_pass h hu (arithCheck_pass hok _) (reduceEff f rounds fp neutral int z)
    obtain ⟨ls, fl, heff⟩ := reduceEff_eq hok fp neutral int z (vecDispatched k)
    rw [heff] at hcore
    refine ⟨t, he.trans (congrArg _ ht), honly, ?_, fun n hn => ?_, fun l h0 hl => ?_, ?_⟩ <;> rw [hcore]
    · rfl
    · exact vreg_setVreg_other _ hn _
    · exact lane_redOut_pos _ f _ h0 hl
    · exact lane_redOut_zero ..
  exact ⟨fun hok => hgives hok fpAdd _ _ (fun _ => 0) rfl, fun hok => hgives hok _ _ _ intMin (exec_vredmax c f .none s),
    fun hok => hgives hok _ _ _ intMax (exec_vredmin c f .none s)⟩

end Sys2Proof.Machine

/-!
Vector words with a scratchpad operand (R72, R74, R121, R137, R139): the dispatch of a word whose operand is absolute, the words
and bytes that its range holds, and the four words.
-/
namespace Sys2Proof.Machine

open Sys2Proof

/-! ## Words and bytes of a range (R3, R139) -/

/-- The words of a range of a memory. -/
theorem bytesWords_memRead (m : Mem) (a n : Nat) :
    bytesWords n (memRead m a (4 * n)) =
      (List.range n).map fun i => BitVec.ofNat 32 (leNat (memRead m (a + 4 * i) 4)) := by
  induction n generalizing a with
  | zero => rfl
  | succ n ih =>
    have hnext (i : Nat) : a + 4 + 4 * i = a + 4 * (i + 1) := by omega
    have hhead : (memRead m a (4 * (n + 1))).take 4 = memRead m a 4 := rfl
    have htail : (memRead m a (4 * (n + 1))).drop 4 = memRead m (a + 4) (4 * n) := rfl
    rw [bytesWords, hhead, htail, ih, List.range_succ_eq_map, List.map_cons, List.map_map]
    simp only [Function.comp_def, hnext]
    rfl

theorem length_wordsBytes (ws : List (BitVec 32)) : (wordsBytes ws).length = 4 * ws.length := by
  induction ws with
  | nil => rfl
  | cons w ws ih =>
    rw [wordsBytes, List.flatMap_cons, List.length_append, length_leBytes, ← wordsBytes, ih, List.length_cons]
    omega

theorem getD_wordsBytes (ws : List (BitVec 32)) (i : Nat) :
    (wordsBytes ws).getD i 0 = (ws.getD (i / 4) 0).extractLsb' (8 * (i % 4)) 8 := by
  induction ws generalizing i with
  | nil => simp [wordsBytes]
  | cons w ws ih =>
    rw [wordsBytes, List.flatMap_cons, ← wordsBytes]
    rcases Nat.lt_or_ge i 4 with hi | hi
    · rw [List.getD_eq_getElem?_getD, List.getElem?_append_left (by rwa [length_leBytes]), ← List.getD_eq_getElem?_getD,
        getD_leBytes_toNat hi, Nat.div_eq_of_lt hi, Nat.mod_eq_of_lt hi, List.getD_cons_zero]
    · obtain ⟨j, rfl⟩ := Nat.exists_eq_add_of_le' hi
      rw [List.getD_eq_getElem?_getD, List.getElem?_append_right (by rwa [length_leBytes]), length_leBytes,
        Nat.add_sub_cancel, ← List.getD_eq_getElem?_getD, ih,
        Nat.add_div_right _ (by decide), Nat.add_mod_right, List.getD_cons_succ]

/-- A field of 32 bits of a word. -/
theorem ofNat_bits (w : Word) (lo : Nat) : BitVec.ofNat 32 (bits w.toNat (lo + 31) lo) = w.extractLsb' lo 32 := by
  apply BitVec.eq_of_toNat_eq
  have hwidth : lo + 31 + 1 - lo = 32 := by omega
  rw [BitVec.toNat_ofNat, BitVec.extractLsb'_toNat, Nat.shiftRight_eq_div_pow, bits, hwidth, Nat.mod_mod]

/-! ## Absolute operands (R120, R121) -/

section
variable (s : State) (c a : Nat)

theorem locRead_flat {n : Nat} (hn : n ≠ 0) : locRead s c ⟨a, 0, 0⟩ 0 n = spmRead s c a n := by
  simp [locRead, Loc.runs, hn]

theorem locWrite_flat (bs : List Byte) (narrow : Bool) : locWrite s c ⟨a, 0, 0⟩ 0 bs narrow = spmWrite s c a bs narrow := by
  cases bs with
  | nil => rfl
  | cons b bs => simp [locWrite, Loc.runs, writeRuns]

end

theorem operand_congr {k k' : Core} (h : ∀ n, k'.sreg n = k.sreg n) (spo : BitVec 24) : operand k' spo = operand k spo := by
  simp only [operand, h]

theorem opndRange_flat (k : Core) (write : Bool) (a : Nat) {len : Nat} (hlen : len ≠ 0) :
    opndRange k write (.flat a) len = ⟨write, [(a, len)], none, len⟩ := by
  simp [opndRange, opndLoc, Loc.runs, hlen]

/-! ## Dispatch -/

/-- Scoreboard entries enter the scoreboard alone. -/
theorem addEntries_eq (serial : Nat) (ready : Bool) (rs : List Range) (k : Core) (ls : List Lines) :
    ∃ sb, addEntries serial ready rs k ls = { k with sb := sb } := by
  induction ls generalizing k with
  | nil => exact ⟨k.sb, rfl⟩
  | cons l ls ih =>
    obtain ⟨sb, h⟩ := ih { k with sb := _ }
    exact ⟨sb, h⟩

/-- A range outside a ring takes no reservation. -/
theorem declare_flat (k : Core) (ready write : Bool) (runs : List (Nat × Nat)) (len : Nat) :
    ∃ sb, k.declare ready [⟨write, runs, none, len⟩] = { k with sb := sb, serial := k.serial + 1 } := by
  obtain ⟨sb, h⟩ := addEntries_eq k.serial ready [⟨write, runs, none, len⟩] k (declared [⟨write, runs, none, len⟩])
  refine ⟨sb, ?_⟩
  simp only [Core.declare, reserveAll, List.length_singleton, List.range_one, List.zip_cons_cons, List.zip_nil_left, h]

theorem holdRow_flat {k : Core} (hsb : k.sb = []) (write : Bool) (a n : Nat) :
    (holdRow k [⟨write, [(a, n)], none, n⟩] false).1 = 0 := by
  cases write
  · exact holdRow_read ⟨by simp [hsb], by simp [hsb]⟩
  · exact holdRow_write ⟨by simp [hsb], by simp [hsb]⟩

/-- No drill or mismatch keeps a dispatched word from its work (R90). -/
theorem vecAct_undrilled {s : State} {c : Nat} (hu : Undrilled s c) (ranges : Core → List Range) (eff : State → State) :
    vecAct c .none ranges eff (setCore s c (core s c).fetch) = eff (setCore (setCore s c (core s c).fetch) c
      (((core s c).fetch.declare true (ranges (core s c).fetch)).advance ((core s c).pc + 16))) := by
  have hdrill : ((core s c).paired && drillWith (setCore s c (core s c).fetch) 2
      (pcidOf (setCore s c (core s c).fetch) c)) = false := by
    show ((core s c).paired && drillWith s 2 (pcidOf s c)) = false
    rcases hu with hu | hu <;> simp [hu]
  rw [vecAct]
  simp [hdrill, readGlitch]

/-- A ready core with an empty scoreboard runs a vector word whose absolute operand passes check 5 (R76, R139). -/
theorem vecMem_pass {s : State} {c a len align : Nat} {f : VecFields} (h : Ready s c) (hu : Undrilled s c)
    (hsb : (core s c).sb = []) (hop : operand (core s c) f.spo = .flat a) (halign : a % align = 0)
    (hfit : a + len ≤ spmSize) (hlen : len ≠ 0) (write : Bool) (eff : Loc → State → State) :
    ∃ u sb, vecMem s c f .none write len align eff = eff ⟨a, 0, 0⟩ u ∧ OnlyCore s u c ∧
      core u c = { vecDispatched (core s c) with sb := sb } := by
  have hopf : operand (core s c).fetch f.spo = .flat a := by rw [operand_congr (fetch_sreg _), hop]
  have hrange : spoRange f write len (core s c).fetch = [⟨write, [(a, len)], none, len⟩] := by
    rw [spoRange, hopf, opndRange_flat _ _ _ hlen]
  have hcheck : spoOk f write len align (core s c).fetch = .pass := by
    simp [spoOk, hopf, opndOk, Check.need, halign, hfit]
  have hact : vecMem s c f .none write len align eff =
      vecAct c .none (spoRange f write len) (eff ⟨a, 0, 0⟩) (setCore s c (core s c).fetch) := by
    rw [vecMem, dispatch_ready (sync := false) (wait := fun _ => 0) h nofun hcheck _ rfl]
    · rw [core_setCore_same, hopf]
      rfl
    · rw [hrange]
      exact holdRow_flat (by rw [fetch_sb, hsb]) ..
  obtain ⟨sb, hdeclare⟩ := declare_flat (core s c).fetch true write [(a, len)] len
  rw [hact, vecAct_undrilled hu, hrange, hdeclare]
  refine ⟨_, sb, rfl, onlyCore_setCore2 .., ?_⟩
  rw [core_setCore_same, fetch_eq]
  rcases ready_hold h with hhold | hhold <;> simp [Core.advance, vecDispatched, hhold]

/-! ## vld and vtload -/

/-- A lane of an elementwise word that does not round (R89). -/
theorem lane_elementwise_exact (f : VecFields) (op : Core → Rnd → Nat → BitVec 32 × Astat) (k : Core) {l : Nat} (hl : l < 64) :
    lane (elementwise f false op k) f.vd l = if (enabled k f).getLsbD l then (op k .near l).1 else lane k f.vd l := by
  rw [lane, elementwise, vreg_flag, vreg_setVreg_same, getD_mapLanes _ _ _ hl, if_neg Bool.false_ne_true,
    getD_map_range _ _ hl, lane]

/-- Word i of the scratchpad range that starts at a. -/
def spmWord (s : State) (c a i : Nat) : BitVec 32 := BitVec.ofNat 32 (leNat (spmRead s c (a + 4 * i) 4))

theorem bytesWords_locRead (s : State) (c a : Nat) {n : Nat} (hn : n ≠ 0) :
    bytesWords n (locRead s c ⟨a, 0, 0⟩ 0 (4 * n)) = (List.range n).map (spmWord s c a) := by
  rw [locRead_flat _ _ _ (by omega), spmRead, bytesWords_memRead]
  exact List.map_congr_left fun i _ => by rw [spmWord, spmRead, spmKey_add]

/-- A core with one activation table written (R137). -/
def Core.setTable (k : Core) (n : Nat) (x : ActTable) : Core := { k with vec := { k.vec with tab := aput n x k.vec.tab } }

theorem table_setTable_same (k : Core) (n : Nat) (x : ActTable) : (k.setTable n x).vec.table n = x := by
  simp [Core.setTable, VecSt.table]

/-- A dispatch that changes one core leaves the words that a vector word then reads. -/
theorem spmWord_of_onlyCore {s u : State} {d : Nat} (h : OnlyCore s u d) (c a : Nat) : spmWord u c a = spmWord s c a := by
  funext i
  rw [spmWord, spmRead, h.spm, ← spmRead, ← spmWord]

section
variable (u : State) (c a : Nat) (f : VecFields)

/-- vld is an elementwise word on the words of its range. -/
theorem vldAct_flat : vldAct c f ⟨a, 0, 0⟩ u =
    setCore u c (elementwise f false (fun _ _ l => (((List.range 64).map (spmWord u c a)).getD l 0, 0)) (core u c)) := by
  rw [vldAct, bytesWords_locRead u c a (n := 64) (by decide), modCore_eq]

/-- An activation table takes the words of its range, and its domain from a scalar register (R137). -/
theorem vtloadAct_flat : vtloadAct c f ⟨a, 0, 0⟩ u =
    setCore u c ((core u c).setTable (f.cond.toNat % 4) ⟨(List.range 256).map (spmWord u c a),
      ((core u c).sreg f.rs.toNat).extractLsb' 0 32, ((core u c).sreg f.rs.toNat).extractLsb' 32 32⟩) := by
  rw [vtloadAct, bytesWords_locRead u c a (n := 256) (by decide), modCore_eq, ← ofNat_bits _ 0, ← ofNat_bits _ 32]
  rfl

end

/-! ## vst and vpst -/

/-- Without a predicate vst writes every lane of its source (R139). -/
theorem vstAct_flat {u : State} {c : Nat} {f : VecFields} (hpen : f.pen = false) (loc : Loc) :
    vstAct c f loc u = locWrite u c loc 0 (wordsBytes ((List.range 64).map fun l => lane (core u c) f.va l)) false := by
  rw [vstAct, hpen]
  rfl

/-- A write to an absolute range after the dispatch of its word: bytes enter the scratchpad, and registers and predicates stay. -/
theorem locWrite_dispatched {s t u : State} {c a : Nat} {bs : List Byte} {narrow : Bool} {sb : Assoc SbEntry}
    (ht : t = locWrite u c ⟨a, 0, 0⟩ 0 bs narrow) (hwf : Memory.wf s.spm = true) (honly : OnlyCore s u c)
    (hcore : core u c = { vecDispatched (core s c) with sb := sb }) :
    OnlyCoreSpm s t c ∧ KeepsRegs (core s c) (core t c) ∧ (core t c).vec = (core s c).vec ∧
      WritesAt s.spm t.spm c a bs := by
  obtain ⟨honlySpm, hgath, hbytes⟩ := spmWrite_stores (s := u) (by rwa [honly.spm]) c a bs narrow
  rw [← locWrite_flat, ← ht] at honlySpm hgath hbytes
  rw [hcore] at hgath
  rw [honly.spm] at hbytes
  exact ⟨honly.trans_spm honlySpm, hgath.sreg, hgath.vec, hbytes⟩

/-! ## The statement -/

/-- Settles O22: the word dispatches, and then reads or writes the range of its operand. -/
theorem vectorMemory : Obligations.VectorMemory := by
  intro c f s a h hu hsb hwf hop k word
  refine ⟨fun halign hfit => ?vld, fun halign hfit => ?vtload, fun halign hfit hpen => ?vst, fun halign hfit => ?vpst⟩
  case vld =>
    obtain ⟨u, sb, ht, honly, hcore⟩ := vecMem_pass h hu hsb hop halign hfit (by decide) false (vldAct c f)
    rw [vldAct_flat, spmWord_of_onlyCore honly] at ht
    refine ⟨_, congrArg Host.Outcome.next ht, honly.trans (onlyCore_setCore ..), ?_, ?_, fun l hl => ?_⟩ <;>
      rw [core_setCore_same, hcore]
    · exact fun _ => rfl
    · exact fun n hn => vreg_setVreg_other _ hn _
    · rw [lane_elementwise_exact _ _ _ hl, getD_map_range _ _ hl]
      rfl
  case vtload =>
    obtain ⟨u, sb, ht, honly, hcore⟩ := vecMem_pass h hu hsb hop halign hfit (by decide) false (vtloadAct c f)
    rw [vtloadAct_flat, spmWord_of_onlyCore honly] at ht
    refine ⟨_, congrArg Host.Outcome.next ht, honly.trans (onlyCore_setCore ..), ?_, ?_, ?_⟩ <;>
      rw [core_setCore_same, hcore]
    · exact fun _ => rfl
    · rfl
    · exact table_setTable_same ..
  case vst =>
    obtain ⟨u, sb, ht, honly, hcore⟩ := vecMem_pass h hu hsb hop halign hfit (by decide) true (vstAct c f)
    rw [vstAct_flat hpen, hcore] at ht
    obtain ⟨honlySpm, hregs, hvec, hsame, hother⟩ := locWrite_dispatched ht (wf_spm hwf) honly hcore
    simp only [length_wordsBytes, List.length_map, List.length_range] at hsame hother
    refine ⟨_, rfl, honlySpm, hregs, hvec, fun i hi => ?_, hother⟩
    rw [hsame i hi, getD_wordsBytes, getD_map_range _ _ (by omega)]
    rfl
  case vpst =>
    obtain ⟨u, sb, ht, honly, hcore⟩ := vecMem_pass h hu hsb hop halign hfit (by decide) true fun loc s =>
      locWrite s c loc 0 (leBytes 8 ((core s c).vec.pred f.pg.toNat).toNat) true
    rw [hcore] at ht
    obtain ⟨honlySpm, hregs, hvec, hsame, hother⟩ := locWrite_dispatched ht (wf_spm hwf) honly hcore
    simp only [length_leBytes] at hsame hother
    exact ⟨_, rfl, honlySpm, hregs, hvec, fun i hi => (hsame i hi).trans (getD_leBytes_toNat hi _), hother⟩

end Sys2Proof.Machine

/-!
Every command completes, and every step keeps the memories canonical (R154, R179, R237, R302, log 3).

A memory changes only where a function of the model writes one, and few do: the writes of bytes to a scratchpad, to a stack
and to SRAM, the scrub of a scratchpad and the fill of a stack, and the two resets. Each of these keeps the canonical form by
the laws of byte memories. Of every other function one lemma says that it leaves the three memories as they were (`mems_f`),
or, where it calls a writer, that it keeps them canonical (`canonical_f`); of a command with an argument of its own, that it
completes (`completes_f`). The lemmas stand in the order of the model's files, so that each rests on those before it.
-/
namespace Sys2Proof.Machine

open Sys2Proof

/-! ## The memories of the panel -/

/-- The memories of the panel: scratchpads, HBM stacks and host-die SRAM. -/
def State.mems (s : State) : Mem × Mem × Mem := (s.spm, s.hbm, s.sram)

/-- Three memories in canonical form. -/
def Canonical (m : Mem × Mem × Mem) : Prop :=
  Memory.wf m.1 = true ∧ Memory.wf m.2.1 = true ∧ Memory.wf m.2.2 = true

theorem memsWf_iff {s : State} : s.memsWf = true ↔ Canonical s.mems := by
  simp [State.memsWf, State.mems, Canonical, and_assoc]

/-- The command answers a next state, and its memories are canonical. -/
def Completes (o : Host.Outcome State Fault Refusal) : Prop := ∃ t, o = .next t ∧ Canonical t.mems

@[simp] theorem completes_next {t : State} : Completes (.next t) ↔ Canonical t.mems :=
  ⟨fun ⟨_, heq, hw⟩ => by cases heq; exact hw, fun hw => ⟨t, rfl, hw⟩⟩

/-! ## Updates, choices and folds

A proof `(rfl)` stands in parentheses where simp is to use the equation with its proof: only so may it serve under a
hypothesis such as that of `mems_foldl`. -/

section
variable {s : State} {pending : List Instr} {prc fresh : Nat} {out : List Out} {dict : Assoc Nat} {cores : Assoc Core}
  {msites : Assoc MSite} {fab : Fab} {links : LinksSt} {host : HostSt} {clk : ClkSt} {pwr : PwrSt} {parts : PartSt}
  {health : HealthSt} {mgmt : MgmtSt} {tray : TraySt}

/-- An update of other fields leaves the memories. -/
@[simp] theorem mems_update :
    State.mems ⟨pending, prc, fresh, out, s.spm, s.hbm, s.sram, dict, cores, msites, fab, links, host, clk, pwr, parts,
      health, mgmt, tray⟩ = s.mems := (rfl)

end

section
variable {p : Prop} [Decidable p]

@[simp] theorem mems_ite {s t : State} : (if p then s else t).mems = if p then s.mems else t.mems := apply_ite ..

@[simp] theorem mems_fst_ite {α : Type} {x y : State × α} :
    (if p then x else y).1.mems = if p then x.1.mems else y.1.mems := by
  split <;> rfl

@[simp] theorem canonical_ite {m n : Mem × Mem × Mem} :
    Canonical (if p then m else n) ↔ if p then Canonical m else Canonical n := by
  split <;> rfl

@[simp] theorem completes_ite {o o' : Host.Outcome State Fault Refusal} :
    Completes (if p then o else o') ↔ if p then Completes o else Completes o' := by
  split <;> rfl

end

section
variable {α : Type} {f : State → α → State} {l : List α} {s : State}

@[simp] theorem mems_foldl (hf : ∀ s a, (f s a).mems = s.mems) : (l.foldl f s).mems = s.mems := by
  induction l generalizing s with
  | nil => rfl
  | cons a l ih => exact ih.trans (hf s a)

theorem canonical_foldl (hf : ∀ s a, Canonical s.mems → Canonical (f s a).mems) (hw : Canonical s.mems) :
    Canonical (l.foldl f s).mems := by
  induction l generalizing s with
  | nil => exact hw
  | cons a l ih => exact ih (hf s a hw)

end

/-! ## What each function of the machine does to the memories -/

section
variable {s t : State} {c cause ch code comp d die eng ep fuel h hi idx inc index k kind l lcid len level lo m n new
  ni off p part pc pcid port power r reg ring row seq serial site slot src status sub unit v w : Nat}
  {drill narrow pass warm : Bool} {body bs data : List Byte} {tag : BitVec 10} {payload : BitVec 128}
  {sid : BitVec 16} {qpn : BitVec 24} {mac : BitVec 48} {o : BootObs} {x : Cell} {check : Core → Check}
  {ranges : Core → List Range} {f : CtlFields} {e : EccObs} {g : Glitch} {i : Inbound} {loc : Loc}
  {owner : Option (Nat × Nat × Nat)} {din : Option Dir} {q : Qp} {act : State → State} {who : Who} {a : Word}
  {td : Word × Word}

/-! ### Named operations over the state: dictionary, events, cores, scratchpads -/

@[simp] theorem mems_dset : (dset s index sub v).mems = s.mems := (rfl)
@[simp] theorem mems_dbump : (dbump s index sub hi lo).mems = s.mems := by simp [dbump]
@[simp] theorem mems_waitBus : (waitBus s n).mems = s.mems := (rfl)
@[simp] theorem mems_logEv {e : Ev} : (logEv s e).mems = s.mems := by simp [logEv]
@[simp] theorem mems_setEring {e : ERing} : (setEring s r e).mems = s.mems := (rfl)
@[simp] theorem mems_setCring {c : CRing} : (setCring s r c).mems = s.mems := (rfl)
@[simp] theorem mems_emit {o : Out} : (emit s o).mems = s.mems := (rfl)
@[simp] theorem mems_eringSend {i : Word} {e : Ev} : (eringSend s r i e).mems = s.mems := (rfl)
@[simp] theorem mems_eringWrite {e : Ev} : (eringWrite s r e).mems = s.mems := (rfl)
@[simp] theorem mems_eringPut {e : Ev} : (eringPut s r e).mems = s.mems := by simp [eringPut]

@[simp] theorem mems_eringFlush : (eringFlush n s r).mems = s.mems := by
  induction n generalizing s with
  | zero => rfl
  | succ n ih =>
    simp only [eringFlush]
    (repeat' split) <;> simp [ih]

@[simp] theorem mems_eringAsync {e : Ev} : (eringAsync s r e).mems = s.mems := by simp [eringAsync]
@[simp] theorem mems_raiseEv {e : Ev} : (raiseEv s e).mems = s.mems := by simp [raiseEv]
@[simp] theorem mems_raiseD : (raiseD s drill code part payload).mems = s.mems := by simp [raiseD]
@[simp] theorem mems_raise : (raise s code part payload).mems = s.mems := by simp [raise]

@[simp] theorem mems_blamed (hact : ∀ t, (act t).mems = t.mems) : (blamed drill s act).mems = s.mems := by
  simp only [blamed]
  split <;> simp [hact]

theorem canonical_blamed (hact : ∀ t, Canonical t.mems → Canonical (act t).mems) (hw : Canonical s.mems) :
    Canonical (blamed drill s act).mems := by
  simp only [blamed]
  split
  · simpa using hact _ (by simpa using hw)
  · exact hact s hw

@[simp] theorem mems_addressErrorEv : (addressErrorEv s ep part a).mems = s.mems := by simp [addressErrorEv]
@[simp] theorem mems_reservedAccess : (reservedAccess s ep part a).mems = s.mems := by simp [reservedAccess]

@[simp] theorem mems_markDrill {r : DrillRec} : (markDrill s r).mems = s.mems := by
  unfold markDrill
  split <;> simp

@[simp] theorem mems_endDrill {result : Nat} : (endDrill s slot result cause).mems = s.mems := by
  unfold endDrill
  split <;> simp

@[simp] theorem mems_drillOver : (drillOver s).mems = s.mems := by
  unfold drillOver
  split <;> simp

@[simp] theorem mems_touchTopo : (touchTopo s).mems = s.mems := by
  unfold touchTopo
  split <;> simp

@[simp] theorem mems_setCore {k : Core} : (setCore s c k).mems = s.mems := (rfl)
@[simp] theorem mems_raiseCore : (raiseCore s c code payload).mems = s.mems := by simp [raiseCore]
@[simp] theorem mems_raiseCoreD : (raiseCoreD s drill c code payload).mems = s.mems := by simp [raiseCoreD]
@[simp] theorem mems_faultStop {chan : Nat} : (faultStop s c status unit chan pc).mems = s.mems := by simp [faultStop]

/-- A client of a scratchpad writes bytes; the gatherer holds a mask only (R158). -/
@[simp] theorem canonical_spmWrite (hw : Canonical s.mems) : Canonical (spmWrite s c off bs narrow).mems := by
  simp only [spmWrite]
  obtain ⟨hspm, hrest⟩ := hw
  split
  · exact ⟨hspm, hrest⟩
  · split <;> exact ⟨wf_memWrite _ _ hspm, hrest⟩

theorem canonical_writeRuns (rs : List (Nat × Nat)) (hw : Canonical s.mems) :
    Canonical (writeRuns narrow s c rs bs).mems := by
  induction rs generalizing s bs with
  | nil => exact hw
  | cons r rs ih => exact ih (canonical_spmWrite hw)

@[simp] theorem canonical_locWrite {l : Loc} {i : Nat} (hw : Canonical s.mems) :
    Canonical (locWrite s c l i bs narrow).mems := canonical_writeRuns _ hw

@[simp] theorem mems_raiseRing : (raiseRing s c n code payload).mems = s.mems := by simp [raiseRing]

/-! ### Firmware bundles -/

@[simp] theorem mems_runSlot : (runSlot s k slot).mems = s.mems := by
  unfold runSlot
  split <;> simp

@[simp] theorem mems_fallbackEv : (fallbackEv s k slot).mems = s.mems := by simp [fallbackEv]
@[simp] theorem mems_verifyEv {check : Nat} : (verifyEv s k slot check).mems = s.mems := by simp [verifyEv]
@[simp] theorem mems_bootHalt : (bootHalt s).mems = s.mems := (rfl)

@[simp] theorem mems_loadComp : (loadComp s k).mems = s.mems := by
  simp only [loadComp]
  (repeat' split) <;> simp

@[simp] theorem mems_raiseFloors : (raiseFloors s).mems = s.mems := mems_foldl fun t k => by
  split
  · split <;> simp
  · rfl

@[simp] theorem mems_takeLicences : (takeLicences s).mems = s.mems := (rfl)

/-! ### Completions -/

@[simp] theorem mems_modCmd {f : Cmd → Cmd} : (modCmd s ring idx f).mems = s.mems := (rfl)

@[simp] theorem mems_putCompletion {id cstat : Nat} : (putCompletion s ring id cstat).mems = s.mems := by
  simp [putCompletion]

@[simp] theorem mems_putAborts {xs : List (Nat × Nat)} : (putAborts s xs).mems = s.mems := by
  induction xs generalizing s with
  | nil => rfl
  | cons x xs ih =>
    simp only [putAborts]
    split <;> simp [ih]

@[simp] theorem mems_finishCmd {cstat : Nat} : (finishCmd s ring idx cstat).mems = s.mems := by
  unfold finishCmd
  split <;> simp

@[simp] theorem mems_launchCheck : (launchCheck s ring idx).mems = s.mems := by
  unfold launchCheck
  split <;> simp

@[simp] theorem mems_takeToken {core : Nat} {t : Token} : (takeToken s ring idx core t).mems = s.mems := by
  unfold takeToken
  split <;> simp

@[simp] theorem mems_reportLost {core : Nat} : (reportLost s ring idx core).mems = s.mems := by
  unfold reportLost
  split <;> simp

@[simp] theorem mems_itemDone {entry : Nat} : (itemDone s ring idx entry status).mems = s.mems := by
  unfold itemDone
  split <;> simp

/-! ### Conditions of positions and the loss of a core -/

@[simp] theorem mems_setHealthRec : (setHealthRec s pcid v).mems = s.mems := (rfl)
@[simp] theorem mems_healthBump : (healthBump s pcid hi lo).mems = s.mems := by simp [healthBump]
@[simp] theorem mems_bumpRepairGen : (bumpRepairGen s).mems = s.mems := (rfl)
@[simp] theorem mems_setRepair : (setRepair s k w).mems = s.mems := by simp [setRepair]

@[simp] theorem mems_recommend {subject : Nat} : (recommend s part kind subject code).mems = s.mems := by
  simp [recommend]

@[simp] theorem mems_setCondD : (setCondD s drill pcid new cause).mems = s.mems := by simp [setCondD]
@[simp] theorem mems_setCond : (setCond s pcid new cause).mems = s.mems := by simp [setCond]
@[simp] theorem mems_makeSuspect : (makeSuspect s pcid cause).mems = s.mems := by simp [makeSuspect]
@[simp] theorem mems_partitionStopAll : (partitionStopAll s p).mems = s.mems := (rfl)
@[simp] theorem mems_fencePcid : (fencePcid s pcid cause).mems = s.mems := by simp [fencePcid]

@[simp] theorem mems_coreLostD : (coreLostD s drill c cause).mems = s.mems := by
  simp only [coreLostD]
  split <;> simp

@[simp] theorem mems_coreLost : (coreLost s c cause).mems = s.mems := by simp [coreLost]

/-! ### Source network interfaces -/

@[simp] theorem mems_inject : (inject s x).mems = s.mems := (rfl)

@[simp] theorem mems_respond {dest : BitVec 28} {cnt : Nat} :
    (respond s ep dest tag kind idx cnt off data).mems = s.mems := by
  unfold respond
  split <;> simp

@[simp] theorem mems_injectAll {xs : List Cell} : (injectAll s xs).mems = s.mems := by simp [injectAll]

theorem mems_of_sendReq {p : Purpose} {d : Dest} {q : Req} (h : sendReq s ep p a d q = .sent t) : t.mems = s.mems := by
  simp only [sendReq] at h
  split at h
  · cases h
  · split at h <;> cases h
    simp

theorem mems_of_sendTo {part : Option Nat} {p : Purpose} {q : Dest → Option Req}
    (h : sendTo s ep part p a q = .sent t) : t.mems = s.mems := by
  simp only [sendTo] at h
  split at h
  · cases h
  · split at h
    · exact mems_of_sendReq h
    · cases h

@[simp] theorem mems_closeMsg {tag : Nat} {failed : Bool} : (closeMsg s ep tag failed).mems = s.mems := (rfl)
@[simp] theorem mems_abandon : (abandon s ep).mems = s.mems := (rfl)
@[simp] theorem mems_modMsg {tag : Nat} {f : Msg → Msg} : (modMsg s ep tag f).mems = s.mems := (rfl)
@[simp] theorem mems_bumpNi : (bumpNi s ni sub hi lo).mems = s.mems := by simp [bumpNi]

/-! ### Operands and dispatch -/

@[simp] theorem mems_stallCore {ring : Option Nat} : (stallCore s c row ring).mems = s.mems := (rfl)
@[simp] theorem mems_publishRing {tail : Bool} : (publishRing s c n tail).mems = s.mems := by simp [publishRing]

@[simp] theorem mems_retireRefs {xs : List (Nat × Bool × Nat)} : (retireRefs s c xs).mems = s.mems := by
  induction xs generalizing s with
  | nil => rfl
  | cons x xs ih => simp [retireRefs, ih]

@[simp] theorem mems_retireEntry : (retireEntry s c slot).mems = s.mems := by
  simp only [retireEntry]
  split <;> simp

@[simp] theorem mems_failCheck {r : Check} : (failCheck s c unit r).mems = s.mems := by
  unfold failCheck
  split <;> simp

@[simp] theorem canonical_dispatch {sync : Bool} {wait : Core → Nat} {queueFull : Core → Bool}
    (hact : ∀ t, Canonical t.mems → Canonical (act t).mems) (hw : Canonical s.mems) :
    Canonical (dispatch s c unit sync check ranges wait queueFull act).mems := by
  simp only [dispatch]
  split
  · split
    · simpa using hw
    · simpa using hw
    · have hfetched : Canonical (act (setCore s c (core s c).fetch)).mems := hact _ (by simpa using hw)
      simp [hw, hfetched]
  · exact hw

/-! ### Matrix unit -/

@[simp] theorem mems_readGlitch : (readGlitch s c g).mems = s.mems := by
  simp only [readGlitch]
  (repeat' split) <;> simp

@[simp] theorem mems_runLoad : (runLoad s c td loc serial g).mems = s.mems := by simp [runLoad]

@[simp] theorem mems_runMul {f : MatFields} : (runMul s c td f loc serial g).mems = s.mems := by
  simp only [runMul]
  split <;> simp

@[simp] theorem mems_countTile {unchecked : Bool} : (countTile s pcid unchecked).mems = s.mems := (rfl)
@[simp] theorem mems_tileFail : (tileFail s c row pc drill).mems = s.mems := by simp [tileFail]

@[simp] theorem mems_compareTile : (compareTile s c m pc).mems = s.mems := by
  simp only [compareTile]
  (repeat' split) <;> simp

@[simp] theorem canonical_runRead {f : MatFields} (hw : Canonical s.mems) :
    Canonical (runRead s c td f loc serial pc).mems := by simp [runRead, hw]

@[simp] theorem canonical_runMatQ {q : MatQ} (hw : Canonical s.mems) : Canonical (runMatQ s c q).mems := by
  unfold runMatQ
  split <;> simp [hw]

@[simp] theorem canonical_runMatrix (hw : Canonical s.mems) : Canonical (runMatrix n s c).mems := by
  induction n generalizing s with
  | zero => exact hw
  | succ n ih =>
    simp only [runMatrix]
    split
    · exact hw
    split
    · exact hw
    · exact ih (by simp [hw])

@[simp] theorem canonical_matEnqueue {q : Core → MatQ} (hw : Canonical s.mems) :
    Canonical (matEnqueue s c ranges q).mems := by simp [matEnqueue, hw]

/-! ### Move channels -/

@[simp] theorem canonical_movDispatch {f : MovFields} (hw : Canonical s.mems) :
    Canonical (movDispatch s c kind f).mems := by simp [movDispatch, hw]

@[simp] theorem mems_moveFault : (moveFault s c ch cause a).mems = s.mems := by
  simp only [moveFault]
  split <;> simp

theorem mems_of_pump {r : Sent} (h : r.pump a = .go t) : r = .sent t := by
  simp only [Sent.pump] at h
  split at h <;> cases h
  rfl

theorem canonical_of_sendPiece {m : MoveOp} {p : Piece} (hw : Canonical s.mems) (h : sendPiece s c ch m p = .go t) :
    Canonical t.mems := by
  have hsent {r : Sent} {a : Word} (hr : r.pump a = .go t) (hkeep : ∀ u, r = .sent u → u.mems = s.mems) :
      Canonical t.mems := by rwa [hkeep t (mems_of_pump hr)]
  simp only [sendPiece] at h
  split at h
  · split at h
    · cases h
    · exact hsent h fun _ => mems_of_sendTo
  · cases h
    exact canonical_locWrite hw
  · split at h
    · split at h
      · cases h
      · exact hsent h fun _ => mems_of_sendTo
    · exact hsent h fun _ => mems_of_sendTo
  · cases h
    exact hw

@[simp] theorem mems_movSettle : (movSettle s c ch).mems = s.mems := by
  simp only [movSettle]
  split <;> simp

@[simp] theorem canonical_pump (hw : Canonical s.mems) : Canonical (pump n s c ch).mems := by
  induction n generalizing s with
  | zero => exact hw
  | succ n ih =>
    simp only [pump]
    split
    · split
      case h_1 t hgo =>
        have ht : Canonical t.mems := canonical_of_sendPiece hw hgo
        split
        · exact ht
        · exact ih (by simpa using ht)
      case h_2 => exact hw
      case h_3 => simpa using hw
    · exact hw

@[simp] theorem canonical_runChan (hw : Canonical s.mems) : Canonical (runChan s c ch).mems := by simp [runChan, hw]

theorem completes_execMoveStart {c : CoreId} {ch : ChanNo} (hw : Canonical s.mems) :
    Completes (execMoveStart c ch g s) := by
  refine completes_next.2 ?_
  dsimp only
  split
  · split
    · exact hw
    · split <;> simp [hw]
  · exact hw

@[simp] theorem canonical_movData {dst : Side} (hw : Canonical s.mems) : Canonical (movData s c ch dst bs).mems := by
  simp only [movData]
  split
  · split <;> simp [hw]
  · exact hw

@[simp] theorem canonical_movAck (hw : Canonical s.mems) : Canonical (movAck s c ch).mems := by simp [movAck, hw]

@[simp] theorem mems_movFail : (movFail s c ch cause a).mems = s.mems := by
  unfold movFail
  split <;> simp

@[simp] theorem canonical_movGrant {granted : Nat} (hw : Canonical s.mems) :
    Canonical (movGrant s c ch status granted a).mems := by
  simp only [movGrant]
  split
  · split
    · simpa using hw
    split
    · simpa using hw
    split
    case h_1 t hsent => simp [mems_of_sendTo hsent, hw]
    case h_2 => simpa using hw
    case h_3 => simpa using hw
  · exact hw

@[simp] theorem canonical_chanRetry (hw : Canonical s.mems) : Canonical (chanRetry s c ch).mems := by
  simp [chanRetry, hw]

@[simp] theorem mems_movSignal {m : MoveOp} : (movSignal s c ch m).mems = s.mems := by
  simp only [movSignal]
  split
  · split
    case h_1 t hsent => simp [mems_of_sendTo hsent]
    case h_2 => simp
    case h_3 => rfl
  · simp

@[simp] theorem mems_movSigAck : (movSigAck s c ch).mems = s.mems := by simp [movSigAck]

/-! ### Sync unit -/

@[simp] theorem canonical_synDispatch {wait : Core → Nat} (hact : ∀ t, Canonical t.mems → Canonical (act t).mems)
    (hw : Canonical s.mems) : Canonical (synDispatch s c wait act).mems := canonical_dispatch hact hw

@[simp] theorem mems_addressFault : (addressFault s c unit pc).mems = s.mems := by simp [addressFault]

@[simp] theorem mems_esigSend {ctr : Nat} : (esigSend s c ctr a pc).mems = s.mems := by
  simp only [esigSend]
  split
  · split
    case h_1 t hsent => exact mems_of_sendTo hsent
    case h_2 => simp
  · simp

@[simp] theorem mems_runSynQ {q : SynQ} : (runSynQ s c q).mems = s.mems := by
  unfold runSynQ
  split <;> simp

@[simp] theorem mems_runSync : (runSync n s c).mems = s.mems := by
  induction n generalizing s with
  | zero => rfl
  | succ n ih =>
    simp only [runSync]
    split
    · split
      · rfl
      · split <;> simp [ih]
    · rfl

@[simp] theorem canonical_synEnqueue {q : Core → SynQ} (hw : Canonical s.mems) : Canonical (synEnqueue s c q).mems := by
  simp [synEnqueue, hw]

/-! ### Sequencer -/

@[simp] theorem canonical_ctlDispatch {act : Core → Core} (hw : Canonical s.mems) :
    Canonical (ctlDispatch s c check act).mems := by simp [ctlDispatch, hw]

@[simp] theorem canonical_alu {op : Word → Word → Word} (hw : Canonical s.mems) : Canonical (alu s c f op).mems := by
  simp [alu, hw]

@[simp] theorem canonical_branch {cond : Word → Word → Bool} (hw : Canonical s.mems) :
    Canonical (branch s c f cond).mems := by simp [branch, hw]

@[simp] theorem canonical_load {ext : Nat → Word} (hw : Canonical s.mems) : Canonical (load s c f g n ext).mems :=
  canonical_dispatch (by simp) hw

@[simp] theorem canonical_store (hw : Canonical s.mems) : Canonical (store s c f n).mems :=
  canonical_dispatch (fun _ ht => canonical_spmWrite ht) hw

@[simp] theorem mems_accessFail : (accessFail s c cause a pc).mems = s.mems := by simp [accessFail]

@[simp] theorem canonical_access {p : Purpose} {rd : Option (BitVec 5)} {req : Core → Dest → Req}
    (hw : Canonical s.mems) : Canonical (access s c f p rd req).mems := by
  refine canonical_dispatch (fun t ht => ?_) hw
  dsimp only
  split
  · split
    case h_1 u hsent => simpa [mems_of_sendTo hsent] using ht
    case h_2 => simpa using ht
    case h_3 => exact ht
  · simpa using ht

@[simp] theorem mems_accessDone {v : Option Word} : (accessDone s c v).mems = s.mems := by
  simp only [accessDone]
  split <;> simp

@[simp] theorem mems_accessLost : (accessLost s c cause a).mems = s.mems := by
  unfold accessLost
  split <;> simp

/-! ### Tasks and rings -/

@[simp] theorem mems_takeBelay {b : Belay} : (takeBelay s c b).mems = s.mems := (rfl)
@[simp] theorem mems_ringCfg {v : Word} : (ringCfg s c n v).mems = s.mems := by simp [ringCfg]
@[simp] theorem mems_ringPush {v : Word} : (ringPush s c n v).mems = s.mems := by simp [ringPush]
@[simp] theorem mems_ringPop {v : Word} : (ringPop s c n v).mems = s.mems := by simp [ringPop]

/-! ### Registers -/

@[simp] theorem mems_coreRegWrite {v : Word} : (coreRegWrite s c off v).mems = s.mems := by
  unfold coreRegWrite
  (repeat' split) <;> simp

@[simp] theorem mems_spmRegWrite {v : Word} : (spmRegWrite s c off v).mems = s.mems := by
  unfold spmRegWrite
  (repeat' split) <;> simp

@[simp] theorem mems_modMsite {f : MSite → MSite} : (modMsite s m f).mems = s.mems := (rfl)

@[simp] theorem mems_cruRegWrite {v : Word} : (cruRegWrite s m off v).mems = s.mems := by
  unfold cruRegWrite
  (repeat' split) <;> simp

/-! ### Fabric -/

@[simp] theorem mems_eccDrop {q : Nat} : (eccDrop s site q).mems = s.mems := by simp [eccDrop]

@[simp] theorem mems_dropCell {l : RouterLoc} {reason : Nat} : (dropCell s l reason x).mems = s.mems := by
  unfold dropCell
  split <;> simp

@[simp] theorem mems_takeCell {at_ : Stand} : (takeCell s at_ x).mems = s.mems := (rfl)
@[simp] theorem mems_putCells {fs : List Flight} : (putCells s fs).mems = s.mems := (rfl)

@[simp] theorem mems_doHop {l : RouterLoc} {h : Hop} : (doHop s l din x h).mems = s.mems := by
  unfold doHop
  split <;> simp

@[simp] theorem mems_routeOne {l : RouterLoc} : (routeOne s l din x).mems = s.mems := by
  unfold routeOne
  split <;> simp

theorem completes_execCellRoute {at_ : RouterLoc} {ecc : Bool} (hw : Canonical s.mems) :
    Completes (execCellRoute at_ din x ecc s) := by simp [execCellRoute, hw]

theorem completes_execCmapRecord (hw : Canonical s.mems) : Completes (execCmapRecord s) := by simp [execCmapRecord, hw]
@[simp] theorem mems_bumpGen : (bumpGen s index sub).mems = s.mems := (rfl)
@[simp] theorem mems_fenceRouter {q : Nat} : (fenceRouter s site q cause).mems = s.mems := by simp [fenceRouter]

/-! ### Links -/

@[simp] theorem mems_setLink {x : Link} : (setLink s l x).mems = s.mems := (rfl)
@[simp] theorem mems_moveLink {x : Link} : (moveLink s l x).mems = s.mems := by simp [moveLink]

@[simp] theorem mems_sendCw {ctype cvc ccnt : Nat} {cells : List Cell} {need : Nat} :
    (sendCw s l ctype seq cvc ccnt cells need).mems = s.mems := by simp [sendCw]

@[simp] theorem mems_leaveService {reason : Nat} : (leaveService s l reason).mems = s.mems := by simp [leaveService]
@[simp] theorem mems_takeLinkCell : (takeLinkCell s l x).mems = s.mems := by simp [takeLinkCell]
@[simp] theorem mems_inOrder {w : Codeword} : (inOrder s l w).mems = s.mems := by simp [inOrder]

@[simp] theorem mems_resendCells : (resendCells fuel s l).mems = s.mems := by
  induction fuel generalizing s with
  | zero => rfl
  | succ fuel ih =>
    simp only [resendCells]
    (repeat' split) <;> simp [ih]

@[simp] theorem mems_goAgain : (goAgain s l).mems = s.mems := by simp [goAgain]

@[simp] theorem mems_linkUp {r : CapRec} : (linkUp s l r).mems = s.mems := by simp [linkUp]

@[simp] theorem mems_checkCaps {r : CapRec} : (checkCaps s l r).mems = s.mems := by
  unfold checkCaps
  split <;> simp

@[simp] theorem mems_release {x : Link} : (release s l x).mems = s.mems := by simp [release]
@[simp] theorem mems_linkCtl : (linkCtl s l v).mems = s.mems := by simp [linkCtl]
@[simp] theorem mems_noRoute : (noRoute s d).mems = s.mems := by simp [noRoute]

/-! ### Reads and writes by panel address -/

/-- A write to an HBM stack. -/
@[simp] theorem canonical_hbmWrite (hw : Canonical s.mems) : Canonical (hbmWrite s m off bs).mems := by
  obtain ⟨hspm, hhbm, hsram⟩ := hw
  exact ⟨hspm, wf_memWrite _ _ hhbm, hsram⟩

@[simp] theorem mems_hbmUncorrectable : (hbmUncorrectable s drill m off).mems = s.mems := by simp [hbmUncorrectable]

@[simp] theorem mems_hbmObs : (hbmObs s m off e).mems = s.mems := by
  unfold hbmObs
  (repeat' split) <;> simp

@[simp] theorem mems_spmObs : (spmObs s c off e).mems = s.mems := by
  unfold spmObs
  split <;> simp

@[simp] theorem mems_turnedAway : (turnedAway s ep).mems = s.mems := by simp [turnedAway]

@[simp] theorem mems_destObs {d : Dest} : (destObs s d n e).mems = s.mems := by
  unfold destObs
  split <;> simp

theorem canonical_of_destWrite {own req : Nat} {d : Dest} (hw : Canonical s.mems)
    (h : destWrite s own req d bs = some t) : Canonical t.mems := by
  simp only [destWrite] at h
  split at h
  · cases h
  · split at h
    · cases h
    · simp only [Option.ite_none_right_eq_some, Option.some.injEq] at h
      exact h.2 ▸ canonical_hbmWrite hw
    · simp only [Option.ite_none_right_eq_some, Option.some.injEq] at h
      exact h.2 ▸ canonical_spmWrite hw
    · cases h

@[simp] theorem mems_panelObs {part : Option Nat} : (panelObs fuel s part a n e).1.mems = s.mems := by
  induction fuel generalizing s a n e with
  | zero => rfl
  | succ fuel ih =>
    simp only [panelObs]
    split
    · rfl
    split
    · rfl
    · (repeat' split) <;> simp [ih]

@[simp] theorem canonical_panelWrite {part : Option Nat} (hw : Canonical s.mems) :
    Canonical (panelWrite fuel s part a bs).1.mems := by
  induction fuel generalizing s a bs with
  | zero => exact hw
  | succ fuel ih =>
    simp only [panelWrite]
    split
    · exact hw
    split
    · exact hw
    split
    · exact hw
    split
    case h_1 => simpa using hw
    case h_2 t hdest => exact ih (canonical_of_destWrite hw hdest)

@[simp] theorem mems_readRangeObs {part : Option Nat} : (readRangeObs s part a n e).1.mems = s.mems := by
  simp [readRangeObs]

@[simp] theorem canonical_writeRange {part : Option Nat} (hw : Canonical s.mems) :
    Canonical (writeRange s part a bs).1.mems := by simp [writeRange, hw]

theorem mems_of_sendMcast {p : Purpose} {masks : Word} (h : sendMcast s ep p masks off bs = .sent t) :
    t.mems = s.mems := by
  simp only [sendMcast] at h
  split at h
  · cases h
  · split at h <;> cases h
    simp

/-! ### Engines of the memory sites -/

@[simp] theorem mems_engineFault {tag : Nat} : (engineFault s m eng status tag).mems = s.mems := by simp [engineFault]
@[simp] theorem mems_writeStatus {tag count : Nat} : (writeStatus s m eng tag status count).mems = s.mems := (rfl)

@[simp] theorem mems_doneSignal {d : List Byte} : (doneSignal s m eng d).mems = s.mems := by
  simp only [doneSignal]
  split
  · simp
  split
  case h_1 t hsent => exact mems_of_sendReq hsent
  case h_2 => simp
  case h_3 => simp

@[simp] theorem mems_pumpSignals : (pumpSignals fuel s m).mems = s.mems := by
  induction fuel generalizing s with
  | zero => rfl
  | succ fuel ih =>
    simp only [pumpSignals]
    (repeat' split) <;> simp [ih]

@[simp] theorem mems_endDesc {d : List Byte} {count : Nat} : (endDesc s m eng d owner status count).mems = s.mems := by
  unfold endDesc
  (repeat' split) <;> simp

@[simp] theorem mems_refuseDesc {d : List Byte} : (refuseDesc s m eng src d).1.mems = s.mems := by simp [refuseDesc]
@[simp] theorem mems_setStream {x : Stream} : (setStream s m n x).mems = s.mems := (rfl)
@[simp] theorem mems_dropStream : (dropStream s m n).mems = s.mems := (rfl)

@[simp] theorem mems_endStream : (endStream s m n status).mems = s.mems := by
  unfold endStream
  split <;> simp

@[simp] theorem mems_submitReduce {d : List Byte} : (submitReduce s m src d owner).1.mems = s.mems := by
  unfold submitReduce
  (repeat' split) <;> simp

@[simp] theorem mems_grantCredits {k : BitVec 28} {want : Nat} : (grantCredits s m n k want).1.mems = s.mems := by
  unfold grantCredits
  (repeat' split) <;> simp

@[simp] theorem mems_takeContrib {k : BitVec 28} {pos : Nat} : (takeContrib s m n k pos bs).1.mems = s.mems := by
  unfold takeContrib
  (repeat' split) <;> simp

theorem mems_of_sendOut {x : Stream} (h : sendOut s m n x bs = .sent t) : t.mems = s.mems := by
  simp only [sendOut] at h
  split at h
  · exact mems_of_sendTo h
  · exact mems_of_sendMcast h
  · split at h
    · cases h
    · exact mems_of_sendReq h

@[simp] theorem mems_askCredits {x : Stream} : (askCredits s m n x).mems = s.mems := by
  simp only [askCredits]
  split
  · rfl
  split
  · simp
  split
  case h_1 t hsent => exact mems_of_sendReq hsent
  case h_2 => simp
  case h_3 => rfl

@[simp] theorem mems_refuseRecord {src : BitVec 28} {ver : Nat} : (refuseRecord s m src ver).mems = s.mems := by
  simp [refuseRecord]

@[simp] theorem mems_runStream : (runStream fuel s m n).mems = s.mems := by
  induction fuel generalizing s with
  | zero => rfl
  | succ fuel ih =>
    simp only [runStream]
    split
    · rfl
    split
    · rfl
    split
    · split <;> simp
    split
    · simp
    split
    · simp
    split
    case h_1 => rfl
    case h_2 => simp
    case h_3 t hsent =>
      rw [ih, mems_setStream, ← mems_of_sendOut hsent]
      split
      · split <;> simp
      · rfl

@[simp] theorem mems_pumpStream : (pumpStream s m n).mems = s.mems := by simp [pumpStream]
@[simp] theorem mems_streamFail : (streamFail s m n).mems = s.mems := by simp [streamFail]

@[simp] theorem mems_streamGrant {granted : Nat} : (streamGrant s m n status granted).mems = s.mems := by
  unfold streamGrant
  split <;> simp

@[simp] theorem mems_streamRetry : (streamRetry s m n).mems = s.mems := by
  unfold streamRetry
  (repeat' split) <;> simp

@[simp] theorem mems_setEngQueue {q : List QDesc} : (setEngQueue s m eng q).mems = s.mems := (rfl)

@[simp] theorem mems_submitQueue {d : List Byte} : (submitQueue s m eng src d owner).1.mems = s.mems := by
  simp [submitQueue]

@[simp] theorem mems_submitTo {d : List Byte} : (submitTo s m eng src d owner).1.mems = s.mems := by simp [submitTo]

theorem canonical_of_engDestWrite {d : Dest} (hw : Canonical s.mems) (h : engDestWrite s m eng d bs = .ok t) :
    Canonical t.mems := by
  simp only [engDestWrite] at h
  split at h
  · cases h
  · split at h <;> cases h
    exact canonical_of_destWrite hw ‹_›

@[simp] theorem mems_setHead {q : QDesc} : (setHead s m eng q).mems = s.mems := (rfl)

/-- The state that a step of an engine leaves, where it leaves one, has canonical memories. -/
@[simp] def EngStep.Canonical : EngStep → Prop
  | .done t => Machine.Canonical t.mems
  | .sent t => Machine.Canonical t.mems
  | .wait => True
  | .fail t _ => Machine.Canonical t.mems

theorem canonical_engPut (hw : Canonical s.mems) : (engPut s m eng a bs inc).Canonical := by
  simp only [engPut]
  split
  · exact hw
  split
  · split
    case h_1 t hput => exact canonical_of_engDestWrite hw hput
    case h_2 => simpa [EngStep.Canonical] using hw
  split
  case h_1 t hsent => simpa [EngStep.Canonical, mems_of_sendReq hsent] using hw
  case h_2 => exact hw
  case h_3 => trivial

theorem canonical_engPiece {p : Piece} (hw : Canonical s.mems) : (engPiece s m eng p inc).Canonical := by
  simp only [engPiece]
  split
  · split
    · split
      · exact hw
      split
      · split
        · exact canonical_engPut hw
        · simpa [EngStep.Canonical] using hw
      split
      · trivial
      split
      case h_1 t hsent => simpa [EngStep.Canonical, mems_of_sendReq hsent] using hw
      case h_2 => exact hw
      case h_3 => trivial
    · exact canonical_engPut hw
    · exact canonical_engPut hw
    · exact hw
  · exact hw

@[simp] theorem mems_failHead : (failHead s m eng status).mems = s.mems := by
  unfold failHead
  split <;> simp

@[simp] theorem mems_readsObs {ps : List (Word × Dest × Nat)} : (readsObs s ps e).1.mems = s.mems := by
  induction ps generalizing s e with
  | nil => rfl
  | cons p ps ih =>
    simp only [readsObs]
    (repeat' split) <;> simp [ih]

@[simp] theorem mems_lostHead {ps : List (Word × Dest × Nat)} {d : Dest} : (lostHead s m eng ps e d).mems = s.mems := by
  simp only [lostHead]
  split <;> simp

@[simp] theorem canonical_engPump (hw : Canonical s.mems) : Canonical (engPump fuel s m eng).mems := by
  induction fuel generalizing s with
  | zero => exact hw
  | succ fuel ih =>
    simp only [engPump]
    split
    · exact hw
    split
    · exact hw
    case h_2 p inc ps htodo =>
      have hpiece := canonical_engPiece (m := m) (eng := eng) (p := p) (inc := inc) hw
      split
      case h_1 => exact hw
      case h_2 t status heq => rw [heq] at hpiece; simpa using hpiece
      case h_3 t heq =>
        rw [heq] at hpiece
        split
        · simpa using hw
        · exact ih (by simpa using hpiece)
      case h_4 t heq =>
        rw [heq] at hpiece
        split
        · simpa using hw
        · exact ih (by simpa using hpiece)

@[simp] theorem canonical_runEngine (hw : Canonical s.mems) : Canonical (runEngine s m eng).mems := by
  unfold runEngine
  split <;> simp [hw]

@[simp] theorem canonical_engAck (hw : Canonical s.mems) : Canonical (engAck s m eng inc).mems := by
  unfold engAck
  split <;> simp [hw]

@[simp] theorem canonical_engData {dst : Word} (hw : Canonical s.mems) :
    Canonical (engData s m eng dst bs inc).mems := by
  simp only [engData]
  split
  · split <;> simp [hw]
  · exact hw

@[simp] theorem mems_listTurned {d : List Byte} : (listTurned s m eng d).mems = s.mems := by
  unfold listTurned
  split <;> simp

@[simp] theorem mems_hostSubmit : (hostSubmit fuel s ring idx).mems = s.mems := by
  induction fuel generalizing s with
  | zero => rfl
  | succ fuel ih =>
    simp only [hostSubmit]
    (repeat' split) <;> simp [ih]

@[simp] theorem mems_resumeCmds : (resumeCmds s).mems = s.mems := by simp [resumeCmds]

@[simp] theorem mems_submitRow {d : List Byte} : (submitRow s m eng src d).mems = s.mems := by simp [submitRow]

/-! ### Queue pairs of the host dies -/

@[simp] theorem mems_modQp {f : Qp → Qp} : (modQp s h qpn f).mems = s.mems := (rfl)
@[simp] theorem mems_dropQp : (dropQp s h qpn).mems = s.mems := (rfl)

@[simp] theorem mems_copyPart {ok : Bool} : (copyPart s ring idx ok).mems = s.mems := by
  unfold copyPart
  split <;> simp

@[simp] theorem mems_outLost {o : OutOp} : (outLost s o).mems = s.mems := by
  unfold outLost
  split <;> simp

@[simp] theorem mems_recordKept {o : OutOp} : (recordKept s o).mems = s.mems := by
  unfold recordKept
  split <;> simp

@[simp] theorem mems_qpToError {syndrome : Nat} : (qpToError s h qpn syndrome).mems = s.mems := by
  unfold qpToError
  split <;> simp

@[simp] theorem mems_qpsFail : (qpsFail s p).mems = s.mems := by simp [qpsFail]

@[simp] theorem mems_markedBy {ce : Bool} : (markedBy s h qpn ce).mems = s.mems := by
  unfold markedBy
  split <;> simp

@[simp] theorem mems_setPort {up : Bool} : (setPort s port up).mems = s.mems := by simp [setPort]
@[simp] theorem mems_takePort : (takePort s port).mems = s.mems := (rfl)
@[simp] theorem mems_restartPort : (restartPort s port).mems = s.mems := by simp [restartPort]

@[simp] theorem mems_popOut : (popOut s h qpn).mems = s.mems := (rfl)

/-! ### Rails and regions -/

@[simp] theorem mems_setRail {r : Rail} : (setRail s site r).mems = s.mems := (rfl)
@[simp] theorem mems_modRail {f : Rail → Rail} : (modRail s site f).mems = s.mems := (rfl)
@[simp] theorem mems_setRegion {x : RegionPwr} : (setRegion s r x).mems = s.mems := (rfl)
@[simp] theorem mems_modRegion {f : RegionPwr → RegionPwr} : (modRegion s r f).mems = s.mems := (rfl)
@[simp] theorem mems_orderRail : (orderRail s site k).mems = s.mems := (rfl)
@[simp] theorem mems_setShed {off : Bool} : (setShed s site off).mems = s.mems := (rfl)
@[simp] theorem mems_refitRail : (refitRail s site).mems = s.mems := (rfl)

@[simp] theorem mems_orderRails {die : Option Nat} : (orderRails s die k).mems = s.mems := by
  unfold orderRails
  split <;> simp

@[simp] theorem mems_writePoints : (writePoints s).mems = s.mems := by simp [writePoints]
@[simp] theorem mems_pwrRailWrite : (pwrRailWrite s site v).mems = s.mems := (rfl)
@[simp] theorem mems_pwrRegionWrite : (pwrRegionWrite s r v).mems = s.mems := (rfl)
@[simp] theorem mems_wakeRegion : (wakeRegion s r).mems = s.mems := by simp [wakeRegion]
@[simp] theorem mems_temperEv : (temperEv s r).mems = s.mems := by simp [temperEv]
@[simp] theorem mems_applyFall : (applyFall s r).mems = s.mems := by simp [applyFall]
@[simp] theorem mems_applyFalls : (applyFalls s r).mems = s.mems := by simp [applyFalls]

/-! ### Host commands -/

/-- A write to host-die SRAM. -/
@[simp] theorem canonical_sramWrite (hw : Canonical s.mems) : Canonical (sramWrite s h off bs).mems := by
  obtain ⟨hspm, hhbm, hsram⟩ := hw
  exact ⟨hspm, hhbm, wf_memWrite _ _ hsram⟩

@[simp] theorem mems_modeConflict {m1 m2 : Nat} : (modeConflict s m1 m2 p).mems = s.mems := by simp [modeConflict]
@[simp] theorem mems_modeEvent {r : List Byte} : (modeEvent s ring r).mems = s.mems := by simp [modeEvent]
@[simp] theorem mems_sendStops {cs : List Nat} : (sendStops s cs).mems = s.mems := (rfl)

@[simp] theorem mems_stopEngines : (stopEngines s ring idx).mems = s.mems := mems_foldl fun t m => by
  dsimp only
  rw [mems_foldl fun u q => by split <;> simp]
  simp

@[simp] theorem mems_stopTarget {t : Cmd} : (stopTarget s t).mems = s.mems := by
  simp only [stopTarget]
  (repeat' split) <;> simp

@[simp] theorem mems_acceptAbort {r : List Byte} : (acceptAbort s ring idx r).mems = s.mems := by
  unfold acceptAbort
  (repeat' split) <;> simp

@[simp] theorem mems_sendOutOp {f : OutFor} {pkt : Out} : (sendOutOp s h qpn f pkt).mems = s.mems := (rfl)

@[simp] theorem canonical_acceptQuery {r : List Byte} (hw : Canonical s.mems) :
    Canonical (acceptQuery s ring idx r).mems := by simp [acceptQuery, hw]

@[simp] theorem mems_addCmd {r : List Byte} : (addCmd s ring r).mems = s.mems := (rfl)

@[simp] theorem canonical_acceptRec {r : List Byte} (hw : Canonical s.mems) : Canonical (acceptRec s ring r).mems := by
  simp [acceptRec, hw]

@[simp] theorem canonical_acceptRing (hw : Canonical s.mems) : Canonical (acceptRing fuel s r).mems := by
  induction fuel generalizing s with
  | zero => exact hw
  | succ fuel ih =>
    simp only [acceptRing]
    split
    · exact hw
    split
    · simpa using hw
    · exact ih (canonical_acceptRec (by simpa using hw))

@[simp] theorem canonical_tailWrite {tail : Word} (hw : Canonical s.mems) : Canonical (tailWrite s r tail).mems := by
  simp [tailWrite, hw]

@[simp] theorem canonical_wakeRings {e : Nat} (hw : Canonical s.mems) : Canonical (wakeRings s e).mems :=
  canonical_foldl (fun t r ht => by dsimp only; split <;> simp [ht]) hw

@[simp] theorem canonical_eringGo {e : Nat} (hw : Canonical s.mems) : Canonical (eringGo s e).mems := by
  simp [eringGo, hw]

@[simp] theorem canonical_consWrite {v : Word} (hw : Canonical s.mems) : Canonical (consWrite s r v).mems := by
  simp [consWrite, hw]

@[simp] theorem canonical_directRec {op : Nat} {r : List Byte} (hw : Canonical s.mems) :
    Canonical (directRec s ring op r).mems := by simp [directRec, hw]

@[simp] theorem canonical_startNext {op : Nat} {ready : Cmd → Bool} {go : State → Cmd → State}
    (hgo : ∀ t c, Canonical t.mems → Canonical (go t c).mems) (hw : Canonical s.mems) :
    Canonical (startNext s ring op ready go).mems := by
  simp only [startNext]
  split
  · exact hw
  split
  · exact hw
  split
  · simpa using hw
  · exact hgo _ _ (by simpa using hw)

@[simp] theorem mems_startLaunch {ring : RingNo} {c : Cmd} : (startLaunch ring s c).mems = s.mems := by
  simp [startLaunch]

@[simp] theorem canonical_startCopy {c : Cmd} (hw : Canonical s.mems) : Canonical (startCopy ring e s c).mems := by
  simp only [startCopy]
  (repeat' split) <;> simp [hw]

@[simp] theorem mems_startList {c : Cmd} : (startList ring s c).mems = s.mems := by simp [startList]
@[simp] theorem mems_startBarrier {c : Cmd} : (startBarrier ring s c).mems = s.mems := by simp [startBarrier]

@[simp] theorem mems_settleFence : (settleFence s ring).mems = s.mems := by
  unfold settleFence
  split <;> simp

@[simp] theorem mems_startPitch {c : Cmd} : (startPitch ring s c).mems = s.mems := by simp [startPitch]

@[simp] theorem mems_flushRing : (flushRing fuel s r).mems = s.mems := by
  induction fuel generalizing s with
  | zero => rfl
  | succ fuel ih => simp [flushRing, ih]

@[simp] theorem mems_ringsReset : (ringsReset s p).mems = s.mems := by simp [ringsReset]
@[simp] theorem mems_cringEnable {on_ : Bool} : (cringEnable s r on_).mems = s.mems := by simp [cringEnable]
@[simp] theorem mems_eringAgain : (eringAgain s r).mems = s.mems := by simp [eringAgain]

@[simp] theorem canonical_eringEnable {on_ : Bool} (hw : Canonical s.mems) : Canonical (eringEnable s r on_).mems := by
  simp [eringEnable, hw]

/-! ### Clocking -/

@[simp] theorem mems_recommendDie : (recommendDie s d).mems = s.mems := by simp [recommendDie]
@[simp] theorem mems_armAt {die : Option Nat} {step at_ : Nat} : (armAt s die step at_).mems = s.mems := by simp [armAt]

@[simp] theorem mems_armChange {die : Option Nat} {step : Nat} : (armChange s die step).mems = s.mems := by
  simp [armChange]

@[simp] theorem mems_armRise : (armRise s k).mems = s.mems := by simp [armRise]
@[simp] theorem mems_cancelChange {g : Change} : (cancelChange s g cause).mems = s.mems := by simp [cancelChange]

@[simp] theorem mems_stepEv {old : Nat} {die : Option Nat} : (stepEv s old new die c).mems = s.mems := by simp [stepEv]

@[simp] theorem mems_finishChange {g : Change} {unlocked : List Nat} : (finishChange s g unlocked).mems = s.mems := by
  simp [finishChange]

@[simp] theorem mems_armQuench : (armQuench s).mems = s.mems := by
  unfold armQuench
  (repeat' split) <;> simp

@[simp] theorem mems_clkStateWrite : (clkStateWrite s d v).mems = s.mems := (rfl)

/-! ### Rank maps -/

@[simp] theorem mems_rmapStatus : (rmapStatus s p v).mems = s.mems := (rfl)
@[simp] theorem mems_askCommit : (askCommit s p).1.mems = s.mems := by simp [askCommit]
@[simp] theorem mems_abandonLoad : (abandonLoad s p).mems = s.mems := by simp [abandonLoad]
@[simp] theorem mems_refuseMap {rank : Nat} : (refuseMap s p k rank).mems = s.mems := by simp [refuseMap]

/-! ### Resets -/

@[simp] theorem mems_resetCore : (resetCore s c).mems = s.mems := by simp [resetCore]

/-- A scrub zeroes one scratchpad. -/
@[simp] theorem canonical_scrubCore (hw : Canonical s.mems) : Canonical (scrubCore s c).mems := by
  obtain ⟨hspm, hrest⟩ := hw
  have hzero : Canonical ({ s with spm := memZero s.spm (spmKey c 0) spmSize } : State).mems :=
    ⟨wf_memZero _ _ hspm, hrest⟩
  simp only [scrubCore]
  split <;> simpa using hzero

@[simp] theorem canonical_switchCore (hw : Canonical s.mems) : Canonical (switchCore s c).mems := by
  simp [switchCore, hw]

@[simp] theorem canonical_switchIn (hw : Canonical s.mems) : Canonical (switchIn s k).mems :=
  canonical_foldl (fun t j ht => by split <;> simp [ht]) hw

@[simp] theorem mems_beginReset : (beginReset s level unit lcid).mems = s.mems := by simp [beginReset]
@[simp] theorem mems_resetDone {r : RunReset} : (resetDone s drill part r).mems = s.mems := by simp [resetDone]

@[simp] theorem canonical_endReset (hw : Canonical s.mems) : Canonical (endReset s level unit).mems := by
  unfold endReset
  split <;> simp [hw]

@[simp] theorem canonical_resetRow (hw : Canonical s.mems) : Canonical (resetRow s level unit).mems := by
  simp [resetRow, hw]

@[simp] theorem mems_setPart : (setPart s p new).mems = s.mems := by simp [setPart]
@[simp] theorem mems_siteReset : (siteReset s m).mems = s.mems := by simp [siteReset]
@[simp] theorem mems_beginPart {off : Bool} : (beginPart s p lcid off).mems = s.mems := by simp [beginPart]
@[simp] theorem mems_regionOff : (regionOff s r).mems = s.mems := by simp [regionOff]
@[simp] theorem mems_sweepPart : (sweepPart s p).mems = s.mems := by simp [sweepPart]
@[simp] theorem mems_endPart {r : RunReset} : (endPart s p r).mems = s.mems := by simp [endPart]

@[simp] theorem mems_askPartReset : (askPartReset s p lcid).mems = s.mems := by
  unfold askPartReset
  split <;> simp

@[simp] theorem canonical_partRow {ask : State → State} {st : Nat}
    (hask : ∀ t, Canonical t.mems → Canonical (ask t).mems) (hw : Canonical s.mems) :
    Canonical (partRow s p ask st).mems := by
  simp only [partRow]
  split
  · split
    · split
      · simpa using hw
      · split <;> simp [hw]
    · exact hw
  · exact hask s hw

@[simp] theorem mems_askOff : (askOff s p).mems = s.mems := by simp [askOff]

@[simp] theorem mems_startWaiting : (startWaiting s p).mems = s.mems := by
  unfold startWaiting
  split <;> simp

/-! ### Power -/

@[simp] theorem mems_setThr {scope : Nat} : (setThr s d scope n).mems = s.mems := by simp [setThr]
@[simp] theorem mems_startThrottle {scope : Nat} : (startThrottle s d scope).mems = s.mems := by simp [startThrottle]

@[simp] theorem mems_grantHead : (grantHead s r).mems = s.mems := by
  unfold grantHead
  split <;> simp

@[simp] theorem mems_sleepRegion {pstate : Nat} : (sleepRegion s r pstate).mems = s.mems := by simp [sleepRegion]
@[simp] theorem mems_isolate {slice : Nat} : (isolate s drill r slice).mems = s.mems := by simp [isolate]

@[simp] theorem mems_restoreSlice : (restoreSlice s).mems = s.mems := by
  unfold restoreSlice
  (repeat' split) <;> simp

@[simp] theorem mems_darken : (darken s r).mems = s.mems := by simp [darken]
@[simp] theorem mems_thermalWarn {value : Int} : (thermalWarn s row die value).mems = s.mems := by simp [thermalWarn]
@[simp] theorem mems_phaseEvents {old : Nat} : (phaseEvents s site old new).mems = s.mems := by simp [phaseEvents]
@[simp] theorem mems_temperRegion : (temperRegion s r).mems = s.mems := by simp [temperRegion]

@[simp] theorem mems_rearm : (rearm s d).mems = s.mems := (rfl)
@[simp] theorem mems_modHint {id : Nat} {f : Hint → Hint} : (modHint s id f).mems = s.mems := (rfl)
@[simp] theorem mems_forecastStep {h : Hint} : (forecastStep s h power).mems = s.mems := by simp [forecastStep]
@[simp] theorem mems_wakeHint {h : Hint} : (wakeHint s h).mems = s.mems := by simp [wakeHint]

@[simp] theorem mems_unwake {x : Nat × Nat} : (unwake s x).mems = s.mems := by simp [unwake]

/-! ### Heat and the power cap -/

@[simp] theorem mems_perturbEv {active : Bool} : (perturbEv s drill die reg active).mems = s.mems := by simp [perturbEv]
@[simp] theorem mems_neutral : (neutral s drill die reg).mems = s.mems := by simp [neutral]
@[simp] theorem mems_neutralAll : (neutralAll s drill).mems = s.mems := by simp [neutralAll]
@[simp] theorem mems_quenchWatch : (quenchWatch s).mems = s.mems := (rfl)
@[simp] theorem mems_startQuench : (startQuench s drill cause).mems = s.mems := by simp [startQuench]
@[simp] theorem mems_headsFrom : (headsFrom s).mems = s.mems := (rfl)

theorem completes_execQuenchLifted (hw : Canonical s.mems) : Completes (execQuenchLifted s) := by
  refine completes_next.2 ?_
  dsimp only
  split
  · split
    · rw [mems_raiseD]
      exact canonical_foldl (fun _ _ => canonical_runMatrix) (by simpa using hw)
    · exact hw
  · exact hw

@[simp] theorem mems_hubWarn {v : Option Int} {limit : Int} : (hubWarn s row v limit).mems = s.mems := by
  unfold hubWarn
  split <;> simp

@[simp] theorem mems_flowWarn : (flowWarn s).mems = s.mems := by
  unfold flowWarn
  split <;> simp

@[simp] theorem mems_flowTriggers : (flowTriggers s).mems = s.mems := by
  unfold flowTriggers
  split <;> simp

@[simp] theorem mems_takeReadings {i o p : Option Int} {f : Option Nat} : (takeReadings s i o p f).mems = s.mems := by
  unfold takeReadings
  split <;> simp

@[simp] theorem mems_setCap {cap : Nat} : (setCap s cap cause).mems = s.mems := by
  simp only [setCap]
  split <;> simp

@[simp] theorem mems_takeLimits : (takeLimits s).mems = s.mems := (rfl)

theorem completes_execCapUpdate (hw : Canonical s.mems) : Completes (execCapUpdate power s) := by
  refine completes_next.2 ?_
  extract_lets measured limit src capped ceiling heated stored
  have hstored : stored.mems = s.mems := by simp [stored, heated, capped, src, measured]
  split
  · split <;> simpa [hstored] using hw
  · exact hw

@[simp] theorem mems_countSilent {silent : List Nat} : (countSilent s d silent).mems = s.mems := (rfl)
@[simp] theorem mems_takeProgress : (takeProgress s c).mems = s.mems := by simp [takeProgress]
@[simp] theorem mems_takeBeat {silent : List Nat} : (takeBeat s site silent).mems = s.mems := (rfl)

@[simp] theorem mems_diePinEv {pinned : Bool} {temp : Int} : (diePinEv s site pinned temp).mems = s.mems := by
  simp [diePinEv]

@[simp] theorem mems_coolRegions : (coolRegions s site).mems = s.mems := by simp [coolRegions]

@[simp] theorem mems_dropPower : (dropPower s).mems = s.mems := (rfl)
@[simp] theorem mems_undervoltEvents : (undervoltEvents s).mems = s.mems := by simp [undervoltEvents]

/-! ### Partitions -/

@[simp] theorem mems_setOwners {mask : Nat} : (setOwners s p mask).mems = s.mems := by simp [setOwners]

@[simp] theorem mems_define {f : PartField} : (define s p f).mems = s.mems := by
  unfold define
  split <;> simp

@[simp] theorem mems_startPart : (startPart s p).mems = s.mems := by simp [startPart]
@[simp] theorem mems_askOn : (askOn s p).mems = s.mems := by simp [askOn]

@[simp] theorem mems_scrubLost : (scrubLost s pcid).mems = s.mems := by
  unfold scrubLost
  (repeat' split) <;> simp

@[simp] theorem canonical_scrubDie (hw : Canonical s.mems) : Canonical (scrubDie s d).mems :=
  canonical_foldl (fun _ _ => canonical_scrubCore) hw

/-- A fill zeroes one HBM stack. -/
@[simp] theorem canonical_fillSite (hw : Canonical s.mems) : Canonical (fillSite s m).mems := by
  obtain ⟨hspm, hhbm, hsram⟩ := hw
  exact ⟨hspm, wf_memZero _ _ hhbm, hsram⟩

theorem completes_execPartitionStarted {p : PartNo} {failed : List (BitVec 14)} (hw : Canonical s.mems) :
    Completes (execPartitionStarted p failed s) := by
  refine completes_next.2 ?_
  split
  · have hscrubbed : ∀ ds ms : List Nat, Canonical (ms.foldl fillSite (ds.foldl scrubDie s)).mems := fun ds ms =>
      canonical_foldl (fun _ _ => canonical_fillSite) (canonical_foldl (fun _ _ => canonical_scrubDie) hw)
    simp [hscrubbed]
  · exact hw

@[simp] theorem mems_deletePart : (deletePart s p).mems = s.mems := by simp [deletePart]

/-! ### Boot -/

@[simp] theorem canonical_bootThen {f : State → State} (hf : ∀ t, Canonical t.mems → Canonical (f t).mems)
    (hw : Canonical s.mems) : Canonical (bootThen s f).mems := by
  simp only [bootThen]
  split
  · exact hw
  · exact hf s hw

@[simp] theorem mems_stage : (stage warm n s).mems = s.mems := by simp [stage]
@[simp] theorem mems_romStop : (romStop s o cause).mems = s.mems := (rfl)
@[simp] theorem mems_romStart : (romStart o s).mems = s.mems := by simp [romStart]

@[simp] theorem mems_tripEvent : (tripEvent s).mems = s.mems := by
  unfold tripEvent
  split <;> simp

@[simp] theorem mems_haltOff : (haltOff s).mems = s.mems := by simp [haltOff]
@[simp] theorem mems_identify {fault : Nat} : (identify fault s).mems = s.mems := by simp [identify]
@[simp] theorem mems_takeTopo : (takeTopo s).mems = s.mems := (rfl)
@[simp] theorem mems_bootRegions : (bootRegions s).mems = s.mems := by simp [bootRegions]
@[simp] theorem mems_raiseRails : (raiseRails s).mems = s.mems := by simp [raiseRails]
@[simp] theorem mems_restoreParts : (restoreParts s).mems = s.mems := by simp [restoreParts]
@[simp] theorem mems_portsUp : (portsUp o s).mems = s.mems := by simp [portsUp]
@[simp] theorem mems_enterBivouac {x : Nat × Nat × Nat} : (enterBivouac o s x).mems = s.mems := by simp [enterBivouac]

@[simp] theorem canonical_loadFirmware (hw : Canonical s.mems) : Canonical (loadFirmware o s).mems := by
  simp only [loadFirmware]
  have hloaded := canonical_bootThen (f := fun t => loadComp t 3) (by simp)
    (canonical_bootThen (f := fun t => loadComp t 2) (by simp) (canonical_bootThen (f := fun t => loadComp t 1) (by simp)
      (s := { s with mgmt := { s.mgmt with running := s.mgmt.running.filter (fun e => e.1 == 0),
                                           revisions := o.revisions.map fun r => (r.1.toNat, r.2.toNat) } })
      (by simpa using hw)))
  split
  · simpa using hloaded
  split
  · simpa using hloaded
  · exact hloaded

@[simp] theorem mems_calibrate : (calibrate o s).mems = s.mems := by simp [calibrate]
@[simp] theorem mems_compactCluster : (compactCluster s k).mems = s.mems := by simp [compactCluster]

@[simp] theorem canonical_compactAll (hw : Canonical s.mems) : Canonical (compactAll s).mems := by
  simp only [compactAll]
  split
  · exact canonical_foldl (fun t k ht => by simpa using canonical_switchIn ht) (by simpa using hw)
  · exact hw

@[simp] theorem mems_clearHoles : (clearHoles s).mems = s.mems := by simp [clearHoles]
@[simp] theorem mems_actionDone : (actionDone s w status).mems = s.mems := by simp [actionDone]

@[simp] theorem mems_unfencePcid : (unfencePcid s p).mems = s.mems := by
  simp only [unfencePcid]
  (repeat' split) <;> simp

@[simp] theorem mems_resetActions : (resetActions o s).mems = s.mems := by
  unfold resetActions
  split <;> simp

@[simp] theorem mems_gateQuarantined : (gateQuarantined s).mems = s.mems := mems_foldl fun t p => by
  split
  · split <;> simp
  · rfl

@[simp] theorem canonical_testCores (hw : Canonical s.mems) : Canonical (testCores o s).mems := by
  simp only [testCores, mems_update, mems_gateQuarantined]
  exact canonical_foldl (fun _ _ => canonical_switchIn) (by simpa using hw)

@[simp] theorem mems_releaseLinks : (releaseLinks s).mems = s.mems := by simp [releaseLinks]
@[simp] theorem mems_topoEv {item : Nat} : (topoEv s item die).mems = s.mems := by simp [topoEv]
@[simp] theorem mems_topoEvNone {item : Nat} : (topoEvNone s item k).mems = s.mems := by simp [topoEvNone]

@[simp] theorem mems_fenceHalf {e : Nat × Nat} : (fenceHalf s e).mems = s.mems := by
  simp only [fenceHalf]
  split <;> simp

@[simp] theorem mems_topoCheck : (topoCheck o s).1.mems = s.mems := by simp [topoCheck]
@[simp] theorem mems_publishMaps : (publishMaps s).mems = s.mems := by simp [publishMaps]
@[simp] theorem mems_autostart : (autostart s).mems = s.mems := by simp [autostart]
@[simp] theorem mems_bootEnd : (bootEnd warm o s).mems = s.mems := by simp [bootEnd]
@[simp] theorem mems_awaitLinks : (awaitLinks warm o s).mems = s.mems := by simp [awaitLinks]

/-- A cold boot empties every memory. -/
@[simp] theorem canonical_coldClear : Canonical (coldClear o s).mems := ⟨rfl, rfl, rfl⟩

@[simp] theorem canonical_coldPowered (hw : Canonical s.mems) : Canonical (coldPowered o s).mems := by
  simp only [coldPowered, mems_awaitLinks, mems_stage]
  refine canonical_bootThen (by simp) ?_
  rw [mems_stage]
  refine canonical_bootThen (by simp) ?_
  rw [mems_stage]
  refine canonical_bootThen (fun _ => canonical_testCores) ?_
  rw [mems_stage]
  refine canonical_bootThen (fun t ht => by simp [ht]) ?_
  rw [mems_stage]
  refine canonical_bootThen (by simp) ?_
  rw [mems_stage]
  exact canonical_bootThen (fun t ht => by simp [ht]) (by simpa using hw)

@[simp] theorem canonical_coldLocked {fault : Nat} (hw : Canonical s.mems) : Canonical (coldLocked o fault s).mems := by
  simp [coldLocked, hw]

@[simp] theorem canonical_coldSteps (hw : Canonical s.mems) : Canonical (coldSteps o s).mems := by simp [coldSteps, hw]

@[simp] theorem canonical_coldStart : Canonical (coldStart o s).mems := by simp [coldStart]

@[simp] theorem mems_askWarm : (askWarm s).mems = s.mems := by simp [askWarm]

/-- A warm reset empties the scratchpads and leaves the stacks and the SRAM. -/
@[simp] theorem canonical_warmClear (hw : Canonical s.mems) : Canonical (warmClear o s).mems := by
  have hrest : Canonical (restoreSlice (neutralAll s false)).mems := by simpa using hw
  exact ⟨rfl, hrest.2⟩

@[simp] theorem canonical_warmSteps (hw : Canonical s.mems) : Canonical (warmSteps o s).mems := by
  simp only [warmSteps, mems_awaitLinks]
  refine canonical_bootThen (by simp) ?_
  rw [mems_stage]
  refine canonical_bootThen (fun t ht => by simp [ht]) ?_
  rw [mems_stage]
  refine canonical_bootThen (by simp) ?_
  rw [mems_stage]
  exact canonical_bootThen (fun t ht => by simp [ht]) (by simp [hw])

/-! ### Health -/

@[simp] theorem mems_sweepTrace : (sweepTrace s c).mems = s.mems := (rfl)

@[simp] theorem mems_sweepFail {pushed : Bool} {temp unit_ : Nat} : (sweepFail s p pushed temp unit_).mems = s.mems := by
  simp [sweepFail]

@[simp] theorem mems_pushedFail {temp unit_ : Nat} : (pushedFail s p temp unit_).mems = s.mems := by simp [pushedFail]

@[simp] theorem mems_addProbe : (addProbe s k).mems = s.mems := (rfl)
@[simp] theorem mems_dieLost : (dieLost s site).mems = s.mems := by simp [dieLost]

@[simp] theorem mems_livenessEv {beat progress : Nat} : (livenessEv s c kind beat progress).mems = s.mems := by
  simp [livenessEv]

@[simp] theorem mems_takeAction : (takeAction s w).mems = s.mems := (rfl)

@[simp] theorem mems_askAction : (askAction s v).1.mems = s.mems := by
  simp only [askAction]
  (repeat' split) <;> simp

@[simp] theorem mems_ungate : (ungate s c).mems = s.mems := (rfl)

@[simp] theorem mems_doQuarantine : (doQuarantine s p).mems = s.mems := by
  simp only [doQuarantine]
  split <;> simp

@[simp] theorem mems_doReturn : (doReturn s p pass).mems = s.mems := by
  simp only [doReturn]
  (repeat' split) <;> simp

@[simp] theorem canonical_doFence (hw : Canonical s.mems) : Canonical (doFence s p).mems := by simp [doFence, hw]

@[simp] theorem mems_armDrill {r : DrillRec} : (armDrill s slot r).1.mems = s.mems := by
  unfold armDrill
  extract_lets busy off noAssay
  cases off <;> cases noAssay <;> simp

@[simp] theorem mems_openWindow {d : DrillSlot} : (openWindow s slot d).mems = s.mems := (rfl)

@[simp] theorem mems_injectDrill {d : DrillSlot} : (injectDrill s slot d).mems = s.mems := by
  simp only [injectDrill]
  (repeat' split) <;> simp

@[simp] theorem mems_perturb {v0 : Nat} : (perturb s die reg v0).1.mems = s.mems := by
  cases h : marginBlocked s die reg (pertMask reg v0) <;> simp [perturb, h]

/-! ### Drills, sessions and staging -/

@[simp] theorem mems_modSession {f : Session → Session} : (modSession s sid f).mems = s.mems := (rfl)
@[simp] theorem mems_stageIdle : (stageIdle s).mems = s.mems := (rfl)

@[simp] theorem mems_endSession : (endSession s sid cause).mems = s.mems := by
  unfold endSession
  split <;> simp

@[simp] theorem mems_changeOwner {old : Option (List Byte)} {l : List Byte} : (changeOwner s old l).mems = s.mems := by
  simp [changeOwner]

@[simp] theorem mems_installLicence {l : List Byte} : (installLicence s l).1.mems = s.mems := by
  unfold installLicence
  (repeat' split) <;> simp

@[simp] theorem mems_stageBegin : (stageBegin s who comp).1.mems = s.mems := by simp [stageBegin]

@[simp] theorem mems_stageAppend : (stageAppend s who v).1.mems = s.mems := by
  unfold stageAppend
  (repeat' split) <;> simp

@[simp] theorem mems_putBundle : (putBundle s comp bs).1.mems = s.mems := by
  simp only [putBundle]
  split <;> simp

@[simp] theorem mems_stageEnd : (stageEnd s who).1.mems = s.mems := by
  simp only [stageEnd]
  (repeat' split) <;> simp

@[simp] theorem canonical_stageWrite {f : State → Who → State × Nat} (hf : Canonical (f s (.session sid)).1.mems)
    (hw : Canonical s.mems) : Canonical (stageWrite s sid f).mems := by
  simp only [stageWrite]
  split
  · exact hw
  split
  · simpa using hw
  · exact hf

@[simp] theorem mems_issueReport : (issueReport s).mems = s.mems := by simp [issueReport]
@[simp] theorem mems_askReport : (askReport s).1.mems = s.mems := by simp [askReport]
@[simp] theorem mems_dropFrame : (dropFrame s).mems = s.mems := by simp [dropFrame]
@[simp] theorem mems_dropTag : (dropTag s).mems = s.mems := by simp [dropTag]
@[simp] theorem mems_failShake : (failShake s mac).mems = s.mems := by simp [failShake]

@[simp] theorem mems_badTag {x : Session} : (badTag s x).mems = s.mems := by simp [badTag]

@[simp] theorem mems_endArmed : (endArmed s).mems = s.mems := (rfl)
@[simp] theorem mems_busUnlock : (busUnlock s n).mems = s.mems := by simp [busUnlock]

/-! ### Dictionary access -/

@[simp] theorem mems_writeTopo : (writeTopo s sub v).1.mems = s.mems := by simp [writeTopo]

@[simp] theorem mems_writeSwitch : (writeSwitch s p v).1.mems = s.mems := by
  unfold writeSwitch
  split <;> simp

@[simp] theorem mems_writeReset : (writeReset s p v).1.mems = s.mems := by simp [writeReset]

@[simp] theorem mems_writePart : (writePart s p sub v).1.mems = s.mems := by
  unfold writePart
  split <;> simp

@[simp] theorem mems_writeCring : (writeCring s r sub v).1.mems = s.mems := by simp [writeCring]

@[simp] theorem canonical_writeEring (hw : Canonical s.mems) : Canonical (writeEring s r sub v).1.mems := by
  simp [writeEring, hw]

theorem canonical_fst_ite {α : Type} {p : Prop} [Decidable p] {x y : State × α} (hx : Canonical x.1.mems)
    (hy : Canonical y.1.mems) : Canonical (if p then x else y).1.mems := by
  split <;> assumption

@[simp] theorem canonical_writeVal (hw : Canonical s.mems) : Canonical (writeVal s who index sub v).1.mems := by
  simp only [writeVal]
  repeat' with_reducible apply canonical_fst_ite
  all_goals (repeat' split) <;> simp [hw]

@[simp] theorem mems_writeBytes : (writeBytes s index sub bs).1.mems = s.mems := by
  unfold writeBytes
  (repeat' split) <;> simp

@[simp] theorem canonical_writeRow {lv : Nat} {r : CRow} (hw : Canonical s.mems) :
    Canonical (writeRow s who lv r index sub bs).1.mems := by simp [writeRow, hw]

@[simp] theorem canonical_cairnWrite (hw : Canonical s.mems) : Canonical (cairnWrite s who index sub bs).1.mems := by
  simp only [cairnWrite]
  (repeat' split) <;> simp [hw]

@[simp] theorem mems_cairnRefused : (cairnRefused s h qpn index sub status).mems = s.mems := by
  unfold cairnRefused
  split <;> simp

@[simp] theorem canonical_slotWrite {h : HostNo} {v : Word} (hw : Canonical s.mems) :
    Canonical (slotWrite s h qpn n v).mems := by simp [slotWrite, hw]

@[simp] theorem canonical_wordWrite {v : Word} (hw : Canonical s.mems) :
    Canonical (wordWrite s who index sub v).mems := by
  unfold wordWrite
  split <;> simp [hw]

@[simp] theorem canonical_busWrite {v : Word} (hw : Canonical s.mems) : Canonical (busWrite s who index sub v).mems := by
  simp [busWrite, hw]

/-! ### Inbound operations of the host -/

@[simp] theorem canonical_ringWrite {w : RingWrite} (hw : Canonical s.mems) :
    Canonical (ringWrite s h off bs w).mems := by
  unfold ringWrite
  split <;> simp [hw]

/-- The state that an answered operation leaves has canonical memories. -/
def AnsweredCanonical (r : Answered) : Prop := ∀ t o, r = some (t, o) → Canonical t.mems

theorem canonical_inRings (hw : Canonical s.mems) : AnsweredCanonical (inRings s h qpn p i) := by
  intro t o heq
  simp only [inRings] at heq
  split at heq
  · cases heq
  · split at heq
    · obtain ⟨w, -, hw'⟩ := Option.map_eq_some_iff.1 heq
      cases hw'
      simp [hw]
    · obtain ⟨w, -, hw'⟩ := Option.map_eq_some_iff.1 heq
      cases hw'
      exact hw
    · split at heq
      · cases heq
      · split at heq <;> cases heq
        · simp [hw]
        · simpa using hw

@[simp] theorem canonical_cairnSlots {h : HostNo} {bss : List (List Byte)} (hw : Canonical s.mems) :
    Canonical (cairnSlots s h qpn n bss).mems := by
  induction bss generalizing s n with
  | nil => exact hw
  | cons bs bss ih => exact ih (canonical_slotWrite hw)

@[simp] theorem mems_cairnReads {h : HostNo} : (cairnReads k s h qpn n).1.mems = s.mems := by
  induction k generalizing s n with
  | zero => rfl
  | succ k ih => simp [cairnReads, ih]

@[simp] theorem mems_cairnContents {h : HostNo} : (cairnContents s h qpn n off len).1.mems = s.mems := by
  simp [cairnContents]

@[simp] theorem mems_cairnArea {h : HostNo} : (cairnArea k s h qpn n len).1.mems = s.mems := by
  induction k generalizing s n len with
  | zero => rfl
  | succ k ih =>
    simp only [cairnArea]
    split <;> simp [ih]

theorem canonical_inCairn {h : HostNo} (hw : Canonical s.mems) : AnsweredCanonical (inCairn s h qpn i) := by
  intro t o heq
  simp only [inCairn] at heq
  split at heq
  · cases heq
  · split at heq
    · split at heq
      · obtain ⟨-, heq⟩ := Option.ite_none_right_eq_some.1 heq
        cases heq
        simpa using hw
      · cases heq
    · split at heq
      · cases heq
      · split at heq <;> cases heq
        · simp [hw]
        · simpa using hw

@[simp] theorem mems_modIn {f : InOp → InOp} : (modIn s n f).mems = s.mems := (rfl)
@[simp] theorem mems_dropIn : (dropIn s n).mems = s.mems := (rfl)

@[simp] theorem mems_sendIn : (sendIn k s n).mems = s.mems := by
  induction k generalizing s with
  | zero => rfl
  | succ k ih =>
    simp only [sendIn]
    split
    · rfl
    split
    · rfl
    split
    case h_1 t hsent => rw [ih, mems_modIn, mems_of_sendTo hsent]
    case h_2 => simp
    case h_3 => rfl

@[simp] theorem mems_windowFail {x : InOp} : (windowFail s q x).mems = s.mems := by simp [windowFail]

theorem canonical_answerIn {x : InOp} {r : Answered} (hr : AnsweredCanonical r) (hw : Canonical s.mems) :
    Canonical (answerIn s q x r).mems := by
  unfold answerIn
  split
  · simpa using hr _ _ rfl
  · simpa using hw

@[simp] theorem canonical_beginIn {x : InOp} (hw : Canonical s.mems) : Canonical (beginIn s q x).mems := by
  simp only [beginIn]
  split
  · simpa using hw
  split
  · simpa using hw
  split
  · exact canonical_answerIn (canonical_inRings hw) hw
  split
  · simpa using hw
  split
  · split
    · simpa using hw
    · exact canonical_answerIn (canonical_inCairn hw) hw
  · split <;> simpa using hw

@[simp] theorem canonical_runIn (hw : Canonical s.mems) : Canonical (runIn k s h qpn).mems := by
  induction k generalizing s with
  | zero => exact hw
  | succ k ih =>
    simp only [runIn]
    split
    · exact hw
    split
    · split
      · split
        · exact ih (canonical_beginIn hw)
        split
        · exact ih (by simpa using hw)
        · simpa using hw
      · simpa using hw
    · simpa using hw

@[simp] theorem canonical_pumpQp (hw : Canonical s.mems) : Canonical (pumpQp s h qpn).mems := by simp [pumpQp, hw]

@[simp] theorem canonical_pumpHost (hw : Canonical s.mems) : Canonical (pumpHost s h).mems :=
  canonical_foldl (fun _ _ => canonical_pumpQp) hw

@[simp] theorem mems_inAck : (inAck s n).mems = s.mems := (rfl)
@[simp] theorem mems_inRead {pos : Nat} : (inRead s n pos bs).mems = s.mems := (rfl)
@[simp] theorem mems_inFail : (inFail s n cause).mems = s.mems := (rfl)

@[simp] theorem canonical_arrive {ce : Bool} (hw : Canonical s.mems) : Canonical (arrive s h qpn i ce).mems := by
  unfold arrive
  split <;> simp [hw]

/-! ### Monitor -/

@[simp] theorem mems_okLine {l : List (List Byte)} : (okLine s l).mems = s.mems := (rfl)
@[simp] theorem mems_errLine : (errLine s code).mems = s.mems := (rfl)
@[simp] theorem mems_setMon {f : MonSt → MonSt} : (setMon s f).mems = s.mems := (rfl)
@[simp] theorem mems_takeBus : (takeBus s).mems = s.mems := by simp [takeBus]

@[simp] theorem canonical_giveBus (hw : Canonical s.mems) : Canonical (giveBus s).mems :=
  canonical_foldl (fun _ _ => canonical_pumpQp) (by simpa using hw)

theorem completes_command {f : State → State} (hf : ∀ t, Canonical t.mems → Canonical (f t).mems)
    (hw : Canonical s.mems) : Completes (command s f) := by
  refine completes_next.2 ?_
  split
  · exact hf _ (by simpa using hw)
  · exact hw

theorem completes_unlockedCommand {f : State → State} (hf : ∀ t, Canonical t.mems → Canonical (f t).mems)
    (hw : Canonical s.mems) : Completes (unlockedCommand s f) :=
  completes_command (fun t ht => by split <;> simp [ht, hf]) hw

@[simp] theorem canonical_endUnlock (hw : Canonical s.mems) : Canonical (endUnlock s).mems := by simp [endUnlock, hw]
@[simp] theorem mems_refuseUnlock : (refuseUnlock s).mems = s.mems := by simp [refuseUnlock]

theorem completes_execUnlock {answer : Option (List Byte)} (hw : Canonical s.mems) :
    Completes (execUnlock answer s) := by
  refine completes_command (fun t ht => ?_) hw
  dsimp only
  (repeat' split) <;> simp [ht]

theorem completes_execLock (hw : Canonical s.mems) : Completes (execLock s) :=
  completes_command (fun t ht => by simp [ht]) hw

theorem completes_execState (hw : Canonical s.mems) : Completes (execState s) :=
  completes_command (fun t ht => by split <;> simp [ht]) hw

@[simp] theorem canonical_startRecovered (hw : Canonical s.mems) : Canonical (startRecovered s).mems := by
  unfold startRecovered
  split <;> simp [hw]

@[simp] theorem canonical_recover {bundle : List Byte} (hw : Canonical s.mems) :
    Canonical (recover s comp bundle).mems := by
  simp only [recover]
  (repeat' split) <;> simp [hw]

theorem completes_execRecover {comp : Byte} {bundle : List Byte} (hw : Canonical s.mems) :
    Completes (execRecover comp bundle s) := by
  simp only [execRecover]
  split
  · exact completes_command (fun _ => canonical_recover) hw
  · exact completes_unlockedCommand (fun _ => canonical_recover) hw

/-! ### Target network interfaces -/

@[simp] theorem mems_sink : (sink s x).mems = s.mems := (rfl)
@[simp] theorem mems_answer {cnt : Nat} : (answer s x kind idx cnt off data).mems = s.mems := by simp [answer]

theorem mems_of_notTaken (h : notTaken s x = some t) : t.mems = s.mems := by
  simp only [notTaken] at h
  split at h
  · cases h
    simp
  · obtain ⟨-, heq⟩ := Option.ite_none_right_eq_some.1 h
    cases heq
    simp

theorem mems_of_contribLost (h : contribLost s x = some t) : t.mems = s.mems := by
  obtain ⟨-, heq⟩ := Option.ite_none_right_eq_some.1 h
  cases heq
  simp

theorem mems_of_respLost (h : respLost s x = some t) : t.mems = s.mems := by
  obtain ⟨-, heq⟩ := Option.ite_none_right_eq_some.1 h
  cases heq
  simp

@[simp] theorem mems_contribCell : (contribCell s m x).st.mems = s.mems := by
  simp only [contribCell]
  (repeat' split) <;> simp

@[simp] theorem mems_portCell : (portCell s m x).st.mems = s.mems := by
  simp only [portCell]
  (repeat' split) <;> simp

@[simp] theorem canonical_writeCell (hw : Canonical s.mems) : Canonical (writeCell s x).st.mems := by
  simp only [writeCell]
  (repeat' split) <;> simp [hw]

@[simp] theorem mems_dropSlot {src : BitVec 28} : (dropSlot s ni src tag).mems = s.mems := (rfl)
@[simp] theorem mems_duplicate : (duplicate s ni).mems = s.mems := by simp [duplicate]

@[simp] theorem mems_completeWrite {t : TSlot} : (completeWrite s x t).mems = s.mems := by
  simp only [completeWrite]
  (repeat' split) <;> simp

theorem canonical_inSlot {t : TSlot} {cellOf : State → Cell → CellDone} (hcell : Canonical (cellOf s x).st.mems)
    (hw : Canonical s.mems) : Canonical (inSlot s ni x t cellOf).mems := by
  simp only [inSlot]
  split
  · simpa using hw
  · split <;> simpa using hcell

theorem canonical_takeWrite {cellOf : State → Cell → CellDone} (hcell : Canonical (cellOf s x).st.mems)
    (hw : Canonical s.mems) : Canonical (takeWrite s x cellOf).mems := by
  simp only [takeWrite]
  split
  · simpa using hcell
  split
  · exact canonical_inSlot hcell hw
  split
  · simpa using hw
  · exact canonical_inSlot hcell hw

theorem completes_request (hact : ∀ t, Canonical t.mems → Canonical (act t).mems) (hw : Canonical s.mems) :
    Completes (request s kind x act) := by
  refine completes_next.2 ?_
  split
  · cases hlost : notTaken s x with
    | some t => simpa [mems_of_notTaken hlost] using hw
    | none => simp [hw, hact (sink s x) (by simpa using hw)]
  · exact hw

theorem completes_execWrite (hw : Canonical s.mems) : Completes (execWrite x s) :=
  completes_request (fun _ ht => canonical_takeWrite (canonical_writeCell ht) ht) hw

theorem completes_execContrib (hw : Canonical s.mems) : Completes (execContrib x s) := by
  refine completes_next.2 ?_
  split
  · cases hlost : contribLost s x with
    | some t => simpa [mems_of_contribLost hlost] using hw
    | none =>
      have hsink : Canonical (sink s x).mems := by simpa using hw
      have htaken := canonical_takeWrite (s := sink s x) (x := x)
        (cellOf := fun t y => match epKind y.dstEp.toNat with
          | .mem m => contribCell t m y
          | _ => ⟨t, false, none⟩) (by split <;> simpa using hw) hsink
      simp only [Option.getD_none, mems_ite, mems_duplicate]
      split
      · exact hsink
      · exact htaken
  · exact hw

@[simp] theorem mems_sendData {reply : Nat} : (sendData s x reply bs).mems = s.mems := by simp [sendData]

@[simp] theorem mems_drilledRead : (drilledRead s x m t).mems = t.mems := by
  simp only [drilledRead]
  split <;> simp

@[simp] theorem mems_lineRead {d : Dest} : (lineRead s x d n e bs).1.mems = s.mems := by
  unfold lineRead
  split <;> simp

@[simp] theorem mems_readCell : (readCell s x n e).1.mems = s.mems := by
  unfold readCell
  (repeat' split) <;> simp

theorem completes_execRead (hw : Canonical s.mems) : Completes (execRead x e s) :=
  completes_request (fun t ht => by dsimp only; split <;> simpa using ht) hw

@[simp] theorem mems_noReg : (noReg s x).mems = s.mems := by simp [noReg]

@[simp] theorem mems_writeReg {v : Word} {r : RegAt} : (writeReg s v r).mems = s.mems := by
  unfold writeReg
  split <;> simp

theorem completes_execRegWrite (hw : Canonical s.mems) : Completes (execRegWrite x s) :=
  completes_request (fun t ht => by split <;> simpa using ht) hw

theorem completes_execRegRead (hw : Canonical s.mems) : Completes (execRegRead x s) :=
  completes_request (fun t ht => by split <;> simpa using ht) hw

theorem completes_execSignal (hw : Canonical s.mems) : Completes (execSignal x s) :=
  completes_request (fun t ht => by split <;> simpa using ht) hw

theorem completes_execCreditRequest (hw : Canonical s.mems) : Completes (execCreditRequest x s) :=
  completes_request (fun t ht => by split <;> simpa using ht) hw

@[simp] theorem canonical_mcastCell (hw : Canonical s.mems) : Canonical (mcastCell s k x).st.mems := by
  simp only [mcastCell]
  split
  · exact canonical_foldl (fun _ _ => canonical_spmWrite) (by simpa using hw)
  · simpa using hw

@[simp] theorem mems_mcastDone {bad : Bool} : (mcastDone s k x bad).mems = s.mems := by simp [mcastDone]

@[simp] theorem canonical_pumpEp (hw : Canonical s.mems) : Canonical (pumpEp s ep).mems := by
  simp only [pumpEp]
  split
  · simpa using canonical_foldl (fun _ _ => canonical_runChan) hw
  · exact canonical_runEngine (canonical_runEngine (by simpa using hw))
  · exact canonical_pumpHost hw
  · exact hw

@[simp] theorem mems_stray : (stray s x).mems = s.mems := by simp [stray]

@[simp] theorem canonical_acked {p : Purpose} (hw : Canonical s.mems) : Canonical (acked s p).mems := by
  unfold acked
  split <;> simp [hw]

@[simp] theorem canonical_dataCame {p : Purpose} (hw : Canonical s.mems) : Canonical (dataCame s p bs).mems := by
  unfold dataCame
  split <;> simp [hw]

@[simp] theorem mems_failed {p : Purpose} : (failed s p cause a).mems = s.mems := by
  unfold failed
  split <;> simp

@[simp] theorem mems_undrill {src : BitVec 28} : (undrill s src tag).mems = s.mems := by simp [undrill]

theorem canonical_endMsg {m : Msg} {lost : Bool} (hact : ∀ t, Canonical t.mems → Canonical (act t).mems)
    (hw : Canonical s.mems) : Canonical (endMsg s m lost act).mems :=
  canonical_pumpEp (canonical_blamed hact (by simpa using hw))

theorem completes_response {ok : Purpose → Bool} {f : State → Msg → State}
    (hf : ∀ t m, Canonical t.mems → Canonical (f t m).mems) (hw : Canonical s.mems) :
    Completes (response s kind x ok f) := by
  refine completes_next.2 ?_
  split
  · cases hlost : respLost s x with
    | some t => simpa [mems_of_respLost hlost] using hw
    | none =>
      have hsink : Canonical (sink s x).mems := by simpa using hw
      dsimp only [Option.getD_none]
      split
      case h_1 m _ =>
        split
        · exact hf _ m hsink
        · simpa using hsink
      case h_2 => simpa using hsink
  · exact hw

theorem completes_execWriteAck (hw : Canonical s.mems) : Completes (execWriteAck x s) := by
  refine completes_response (fun t m ht => ?_) hw
  split
  · simpa using ht
  · exact canonical_endMsg (fun _ => canonical_acked) ht

theorem completes_execReadData (hw : Canonical s.mems) : Completes (execReadData x s) := by
  refine completes_response (fun t m ht => ?_) hw
  dsimp only
  split
  · simpa using ht
  split
  · simpa using ht
  · exact canonical_endMsg (fun _ => canonical_dataCame) ht

theorem completes_execRegData (hw : Canonical s.mems) : Completes (execRegData x s) :=
  completes_response (fun _ _ => canonical_endMsg fun _ => canonical_dataCame) hw

theorem completes_execAddressErrorResponse (hw : Canonical s.mems) : Completes (execAddressErrorResponse x s) :=
  completes_response (fun _ _ => canonical_endMsg (by simp)) hw

theorem completes_execResetNack (hw : Canonical s.mems) : Completes (execResetNack x s) :=
  completes_response (fun _ _ => canonical_endMsg (by simp)) hw

theorem completes_execCoreAbsent (hw : Canonical s.mems) : Completes (execCoreAbsent x s) :=
  completes_response (fun _ _ => canonical_endMsg (by simp)) hw

theorem completes_execBusy (hw : Canonical s.mems) : Completes (execBusy x s) := completes_response (by simp) hw

theorem completes_execBusyRetry {ep : BitVec 16} {idx : BitVec 9} (hw : Canonical s.mems) :
    Completes (execBusyRetry ep tag idx s) := by
  refine completes_next.2 ?_
  split
  · split
    · split
      · split
        · simpa using hw
        · exact canonical_endMsg (by simp) hw
      · exact hw
    · exact hw
  · exact hw

theorem completes_execCreditGrant (hw : Canonical s.mems) : Completes (execCreditGrant x s) := by
  refine completes_response (fun t m ht => ?_) hw
  dsimp only
  split <;> simp [ht]

@[simp] theorem mems_timeoutEv {side : Nat} {src : BitVec 28} {dst tag cells counted : Nat} :
    (timeoutEv s part side src dst tag cells counted).mems = s.mems := by simp [timeoutEv]

@[simp] theorem mems_slotTimedOut {t : TSlot} : (slotTimedOut s t).mems = s.mems := by simp [slotTimedOut]

theorem completes_execRequesterTimeout {ep : BitVec 16} (hw : Canonical s.mems) :
    Completes (execRequesterTimeout ep tag s) := by
  refine completes_next.2 ?_
  split
  · split
    · exact canonical_endMsg (by simp) (by simpa using hw)
    · exact hw
  · exact hw

/-! ### Session requests -/

@[simp] theorem canonical_runOp {head : Nat} {rest : List Byte} (hw : Canonical s.mems) :
    Canonical (runOp s who head rest).st.mems := by
  simp only [runOp]
  (repeat' split) <;> simp [hw]

@[simp] theorem canonical_runOps {resp : List Byte} (hw : Canonical s.mems) :
    Canonical (runOps fuel s who body resp).1.mems := by
  induction fuel generalizing s body resp with
  | zero => exact hw
  | succ fuel ih =>
    simp only [runOps]
    split
    · exact hw
    · exact ih (canonical_runOp hw)

@[simp] theorem mems_sendResponse {x : Session} {resp : List Byte} : (sendResponse s x seq resp).mems = s.mems := (rfl)

@[simp] theorem canonical_acceptRequest {x : Session} {tag : List Byte} (hw : Canonical s.mems) :
    Canonical (acceptRequest s x seq body tag).mems := by simp [acceptRequest, hw]

@[simp] theorem canonical_takeRequest {x : Session} {tag : List Byte} (hw : Canonical s.mems) :
    Canonical (takeRequest s x seq body tag).mems := by
  unfold takeRequest
  split <;> simp [hw]

@[simp] theorem canonical_busRequest {x : Session} {tag : List Byte} (hw : Canonical s.mems) :
    Canonical (busRequest s x seq body tag).mems := by simp [busRequest, hw]

/-! ### Vector unit -/

@[simp] theorem canonical_vecAct {eff : State → State} (heff : ∀ t, Canonical t.mems → Canonical (eff t).mems)
    (hw : Canonical s.mems) : Canonical (vecAct c g ranges eff s).mems := by
  simp only [vecAct]
  split
  · simpa using hw
  · simpa using heff _ (by simpa using hw)

@[simp] theorem canonical_vecReg {eff : Core → Core} (hw : Canonical s.mems) :
    Canonical (vecReg s c g check eff).mems := canonical_dispatch (fun _ => canonical_vecAct (by simp)) hw

@[simp] theorem mems_vldAct {f : VecFields} : (vldAct c f loc s).mems = s.mems := (rfl)

/-- A store under a predicate writes the enabled lanes alone (R139). -/
@[simp] theorem canonical_vstMasked {on : BitVec 64} {ws : List (BitVec 32)} (hw : Canonical s.mems) :
    Canonical (vstMasked s c loc on ws).mems := canonical_foldl (f := fun t l => { t with
      spm := memWrite t.spm (spmKey c (loc.addr (4 * l))) (leBytes 4 (ws.getD l 0).toNat) })
    (fun _ _ ht => ⟨wf_memWrite _ _ ht.1, ht.2⟩) hw

@[simp] theorem canonical_vstAct {f : VecFields} (hw : Canonical s.mems) : Canonical (vstAct c f loc s).mems := by
  simp only [vstAct]
  split <;> simp [hw]

@[simp] theorem canonical_vecMem {f : VecFields} {write : Bool} {align : Nat} {eff : Loc → State → State}
    (heff : ∀ l t, Canonical t.mems → Canonical (eff l t).mems) (hw : Canonical s.mems) :
    Canonical (vecMem s c f g write len align eff).mems := canonical_dispatch (fun _ => canonical_vecAct (heff _)) hw

@[simp] theorem mems_vtloadAct {f : VecFields} : (vtloadAct c f loc s).mems = s.mems := (rfl)

end

/-! ## Commands and steps -/

/-- Every command completes: those named first by the rule of the function they pass through, or by a lemma of their own; the
others because they answer one `.next` of functions above, after the cases that the command distinguishes. -/
theorem completes_exec {s : State} (hw : Canonical s.mems) (i : Instr) : Completes (exec i s) := by
  cases i with
  | mload | mmul | mread => exact completes_next.2 (canonical_dispatch (fun _ => canonical_matEnqueue) hw)
  | rseed => exact completes_next.2 (canonical_dispatch (fun _ ht => canonical_runMatrix ht) hw)
  | vst => exact completes_next.2 (canonical_vecMem (fun _ _ => canonical_vstAct) hw)
  | vpst => exact completes_next.2 (canonical_vecMem (fun _ _ => canonical_locWrite) hw)
  | copy => exact completes_next.2 (canonical_startNext (fun _ _ => canonical_startCopy) hw)
  | moveStart => exact completes_execMoveStart hw
  | cellRoute => exact completes_execCellRoute hw
  | cmapRecord => exact completes_execCmapRecord hw
  | quenchLifted => exact completes_execQuenchLifted hw
  | capUpdate => exact completes_execCapUpdate hw
  | partitionStarted => exact completes_execPartitionStarted hw
  | unlock => exact completes_execUnlock hw
  | lock => exact completes_execLock hw
  | state => exact completes_execState hw
  | recover => exact completes_execRecover hw
  | write => exact completes_execWrite hw
  | contrib => exact completes_execContrib hw
  | read => exact completes_execRead hw
  | regWrite => exact completes_execRegWrite hw
  | regRead => exact completes_execRegRead hw
  | signal => exact completes_execSignal hw
  | creditRequest => exact completes_execCreditRequest hw
  | writeAck => exact completes_execWriteAck hw
  | readData => exact completes_execReadData hw
  | regData => exact completes_execRegData hw
  | addressErrorResponse => exact completes_execAddressErrorResponse hw
  | resetNack => exact completes_execResetNack hw
  | coreAbsent => exact completes_execCoreAbsent hw
  | busy => exact completes_execBusy hw
  | busyRetry => exact completes_execBusyRetry hw
  | creditGrant => exact completes_execCreditGrant hw
  | requesterTimeout => exact completes_execRequesterTimeout hw
  | barrierRelease | congestionMap | linkCredit | capabilityRecord | creditRequestRetry | streamTimeout | cmRej |
    cmDreq | cmDrep | invalidOpcode | changeDeadline | relockFallback | headroomDeferTimeout | headroomRelease |
    regionOn | pitchPhaseStart | pitchPhaseEnd | coldBoot | warmPanelReset | heartbeatMissing | drillTrigger |
    drillWindowEnd | perturbTimeout | finishTimeout | sessionIdleTimeout | registerWrite | targetSlotTimeout =>
    exact completes_next.2 (by split <;> simp [hw])
  | moveComplete | cellExit | descriptorStart | descriptorEnd | rdmaAck | ackTimeout | changeStop | changeResume |
    domainReport | hubSample | finish | close | unlockTimeout | request =>
    exact completes_next.2 (by (repeat' split) <;> simp [hw])
  | completionToken | cellEntry | cmReq | rdmaReadResponse | rankMapLoaded | dieUnpin | sweep | probeTimeout |
    actionProceed | hello =>
    exact completes_next.2 (by dsimp only; (repeat' split) <;> simp [hw])
  | _ => exact completes_next.2 (by simp [hw])

/-- A step completes: it counts a tick, or runs the command at the front of the queue. -/
theorem completes_step {s : State} (hw : Canonical s.mems) : Completes (step s) := by
  unfold step
  split
  · exact completes_next.2 (by simpa [tick] using hw)
  · exact completes_exec (by simpa using hw) _

theorem Completes.exists_memsWf {o : Host.Outcome State Fault Refusal} (h : Completes o) :
    ∃ t, o = .next t ∧ t.memsWf = true := by
  obtain ⟨t, heq, hw⟩ := h
  exact ⟨t, heq, memsWf_iff.2 hw⟩

/-- Settles O60: from canonical memories every command, and so every step, completes with canonical memories. -/
theorem memoriesStayCanonical : Obligations.MemoriesStayCanonical := by
  intro s hs
  have hw : Canonical s.mems := memsWf_iff.1 hs
  exact ⟨fun i => (completes_exec hw i).exists_memsWf, (completes_step hw).exists_memsWf⟩

end Sys2Proof.Machine

/-!
Events of a memory site (R238 to R247): the lock-outs of the channel arbiter, the waited intervals of refresh, the counts of the
patrol's findings and the stack's temperature.
-/
namespace Sys2Proof.Machine

open Sys2Proof

/-! ## Tables, and counter fields of the dictionary (R234) -/

/-- A rising table after an entry is removed. -/
theorem agetD_adel {α : Type} {k : Nat} {t : Assoc α} (h : keysRise t = true) (j : Nat) (d : α) :
    agetD j d (adel k t) = if j = k then d else agetD j d t := by
  split
  case isTrue hj => subst hj; simp [agetD, aget_adel_same h]
  case isFalse hj => simp [agetD, aget_adel_other hj]

/-- The replaced field holds the new value, as far as it fits. -/
theorem bits_setBits (n hi lo v : Nat) : bits (setBits n hi lo v) hi lo = v % 2 ^ (hi + 1 - lo) := by
  unfold setBits bits
  generalize 2 ^ (hi + 1 - lo) = w
  have hlo : 0 < 2 ^ lo := Nat.two_pow_pos lo
  generalize 2 ^ lo = p at *
  obtain ⟨high, hhigh⟩ : ∃ high, n / p = w * high + n / p % w := ⟨_, (Nat.div_add_mod ..).symm⟩
  have hset : n - n / p % w * p + v % w * p = n % p + p * (w * high + v % w) := by
    have hsplit : p * (w * high + n / p % w) + n % p = n := by rw [← hhigh, Nat.div_add_mod]
    rw [Nat.mul_add, Nat.mul_comm p (n / p % w)] at hsplit
    rw [Nat.mul_add, Nat.mul_comm p (v % w)]
    omega
  rw [hset, Nat.add_mul_div_left _ _ hlo, Nat.div_eq_of_lt (Nat.mod_lt _ hlo), Nat.zero_add, Nat.mul_add_mod, Nat.mod_mod]

/-- A counter field after it has counted one. -/
theorem bits_dbump (s : State) (i j hi lo : Nat) :
    bits (dget (dbump s i j hi lo) i j) hi lo = min (2 ^ (hi + 1 - lo) - 1) (bits (dget s i j) hi lo + 1) := by
  have hlt : bits (dget s i j) hi lo < 2 ^ (hi + 1 - lo) := Nat.mod_lt _ (Nat.two_pow_pos _)
  simp only [dbump]
  split
  case isTrue hroom => rw [dget_dset_same, bits_setBits, Nat.mod_eq_of_lt hroom]; omega
  case isFalse hfull => omega

theorem OnlyEvents.keepsMem {s t : State} (h : OnlyEvents s t) : KeepsMem s t := ⟨h.spm, h.hbm, h.sram⟩

theorem OnlyEvents.msite {s t : State} (h : OnlyEvents s t) (m : Nat) : Machine.msite t m = Machine.msite s m := by
  rw [Machine.msite, h.msites, ← Machine.msite]

@[simp] theorem msite_modMsite (s : State) (m : Nat) (f : MSite → MSite) : msite (modMsite s m f) m = f (msite s m) :=
  msite_setMsite_same ..

/-! ## The channel arbiter (R245, R246) -/

section
variable (m : MemSiteNo) (s : State)

/-- The keys of two requester classes are equal where channel and class are. -/
theorem lockKey_inj {c q d r : Nat} (hq : q < 5) (hr : r < 5) : 8 * c + q = 8 * d + r ↔ c = d ∧ q = r := by omega

theorem arbiterCutoff_holds (ch : Fin 32) (req : Fin 5) {held : Nat} (hfree : lockedOut s m ch req = false)
    (hheld : usTicks (dget s 0xA000 1) < held) :
    ∃ t, exec (.arbiterCutoff m ch ⟨req, held⟩) s = .next t ∧ t.cores = s.cores ∧ KeepsMem s t ∧ ∀ c q, c < 32 → q < 5 →
      lockedOut t m c q = (lockedOut s m c q || (c == ch.val && q == req.val)) := by
  have hact : ¬ (lockedOut s m ch req = true ∨ held ≤ usTicks (dget s 0xA000 1)) := by simp [hfree, hheld]
  have hev := onlyEvents_raise (modMsite s m fun x => { x with locks := aput (8 * ch.val + req.val) true x.locks }) 0x0405
    (ownerOfSite s m) (pf 0 4 m ||| pf 4 5 ch ||| pf 9 3 req)
  refine ⟨_, congrArg Host.Outcome.next (if_neg hact), hev.cores, hev.keepsMem, fun c q _ hq => ?_⟩
  rw [lockedOut, hev.msite, msite_modMsite, agetD_aput, ← lockedOut]
  simp only [lockKey_inj hq req.isLt]
  by_cases hkey : c = ch.val ∧ q = req.val
  · simp [hkey]
  · rw [if_neg hkey, show (c == ch.val && q == req.val) = false by simpa using hkey, Bool.or_false]

theorem arbiterCutoff_waits (ch : Fin 32) (req : Fin 5) {held : Nat} (hheld : held ≤ usTicks (dget s 0xA000 1)) :
    exec (.arbiterCutoff m ch ⟨req, held⟩) s = .next s :=
  congrArg Host.Outcome.next (if_pos (.inr hheld))

theorem arbLockClear_frees :
    ∃ t, exec (.arbLockClear m) s = .next t ∧ t = { s with msites := t.msites } ∧ ∀ c q, lockedOut t m c q = false :=
  ⟨modMsite s m fun x => { x with locks := [] }, rfl, rfl, fun c q => by rw [lockedOut, msite_modMsite]; rfl⟩

/-! ## Refresh (R247) -/

section
variable (pc : Fin 64) (hrise : keysRise (msite s m).refWait = true)
include hrise

theorem refresh_counts (g : Bool) :
    ∃ t, exec (.refresh m pc g) s = .next t ∧ t = { s with msites := t.msites } ∧
      ∀ p, agetD p 0 (msite t m).refWait =
        if p = pc.val then (if g then 0 else min 4 (agetD p 0 (msite s m).refWait + 1)) else agetD p 0 (msite s m).refWait := by
  refine ⟨_, rfl, rfl, fun p => ?_⟩
  rw [msite_modMsite]
  cases g with
  | true => exact agetD_adel hrise p 0
  | false =>
    refine (agetD_aput ..).trans ?_
    split
    case isTrue hp => rw [hp]; rfl
    case isFalse => rfl

theorem refreshOverdue_granted (hdue : agetD pc.val 0 (msite s m).refWait = 4) :
    ∃ t, exec (.refreshOverdue m pc) s = .next t ∧ t = { s with msites := t.msites } ∧
      ∀ p, agetD p 0 (msite t m).refWait = if p = pc.val then 0 else agetD p 0 (msite s m).refWait :=
  ⟨_, congrArg Host.Outcome.next (if_pos hdue), rfl, fun p => by rw [msite_modMsite]; exact agetD_adel hrise p 0⟩

end

/-! ## Patrol (R241) -/

/-- Without a drill of kind 7 a read of a stack reports its finding alone (R239, Table 7.1). -/
theorem hbmObs_undrilled {s : State} {m : Nat} (h : drillWith s 7 m = false) (off : Nat) :
    hbmObs s m off .clean = s ∧ (∀ l, hbmObs s m off (.corrected l) = dbump s (0xA100 + m) 2 31 0) ∧
      ∀ l, hbmObs s m off (.parity l) = dbump s (0xA100 + m) 2 63 48 := by
  simp [hbmObs, h]

/-- The site after the patrol has moved on from a line. -/
def patrolled (s : State) (m line : Nat) : State := modMsite s m fun x => { x with patrolPos := (line + 1) % hbmLines }

section
variable {line : Nat} (hline : line < hbmLines) (hfree : lockedOut s m (chanOf (64 * line)) 4 = false) {e : EccObs}
include hline hfree

/-- A patrol that is not locked out reads its line. -/
theorem exec_patrol :
    exec (.patrol m line e) s = .next (hbmObs (patrolled s m line) m (64 * line) (eccFirst 1 e)) :=
  congrArg Host.Outcome.next ((if_neg (Nat.not_le.2 hline)).trans (if_neg (by simp [hfree])))

/-- A finding that a read counts is counted once in its field. -/
theorem patrol_counts {hi lo : Nat}
    (hobs : hbmObs (patrolled s m line) m (64 * line) (eccFirst 1 e) = dbump (patrolled s m line) (0xA100 + m) 2 hi lo) :
    ∃ t, exec (.patrol m line e) s = .next t ∧ t = { s with msites := t.msites, dict := t.dict } ∧
      bits (dget t (0xA100 + m) 2) hi lo = min (2 ^ (hi + 1 - lo) - 1) (bits (dget s (0xA100 + m) 2) hi lo + 1) := by
  refine ⟨_, (exec_patrol m s hline hfree).trans (congrArg _ hobs), ?_, bits_dbump ..⟩
  simp only [dbump]
  split <;> rfl

end

/-! ## Temperature (R240) -/

/-- The site after a read of its stack's temperature. -/
def heated (s : State) (m : Nat) (temp : BitVec 16) : State :=
  modMsite s m fun x => { x with
    temp := temp, fastRef := decide (680 ≤ temp.toInt)
    hotRaised := decide (760 < temp.toInt) || ((msite s m).hotRaised && decide (744 < temp.toInt)) }

/-- A read of the temperature stores it, with the event hbm-hot or without. -/
theorem exec_hbmTempRead (temp : BitVec 16) :
    ∃ t, exec (.hbmTempRead m temp) s = .next t ∧ OnlyEvents (heated s m temp) t := by
  refine ⟨_, rfl, ?_⟩
  dsimp only
  split
  case isTrue => exact onlyEvents_raise ..
  case isFalse => exact .refl _

theorem hbmTempRead_holds (temp : BitVec 16) :
    ∃ t, exec (.hbmTempRead m temp) s = .next t ∧ t.cores = s.cores ∧ KeepsMem s t ∧
      (msite t m).temp = temp ∧ (msite t m).fastRef = decide (680 ≤ temp.toInt) ∧
      (msite t m).hotRaised = (decide (760 < temp.toInt) || ((msite s m).hotRaised && decide (744 < temp.toInt))) := by
  obtain ⟨t, hexec, hev⟩ := exec_hbmTempRead m s temp
  have hsite := (hev.msite m).trans (msite_modMsite ..)
  exact ⟨t, hexec, hev.cores, hev.keepsMem, by rw [hsite], by rw [hsite], by rw [hsite]⟩

end

/-! ## The statement -/

/-- Settles O45: each clause is what its event does at the site. -/
theorem memorySiteEvents : Obligations.MemorySiteEvents := by
  intro m s
  refine ⟨fun ch req held hfree => ⟨arbiterCutoff_holds m s ch req hfree, arbiterCutoff_waits m s ch req⟩,
    arbLockClear_frees m s, fun pc hrise => ⟨refresh_counts m s pc hrise, refreshOverdue_granted m s pc hrise⟩,
    fun line hline hfree hdrill => ?patrol, hbmTempRead_holds m s⟩
  obtain ⟨hclean, hcorrected, hparity⟩ := hbmObs_undrilled (s := patrolled s m line) hdrill (64 * line)
  exact ⟨⟨_, (exec_patrol m s hline hfree).trans (congrArg _ hclean), rfl, by rw [patrolled, msite_modMsite]⟩,
    patrol_counts m s hline hfree (hcorrected 0), patrol_counts m s hline hfree (hparity 0)⟩

end Sys2Proof.Machine

/-!
Descriptors of the engines of a memory site (R248 to R263). The end of a descriptor writes its status word and then reports it:
what a report leaves is one relation, `Reports`. An engine that executes a descriptor goes on executing it while it works, since
no piece of its work and no finding of a read touches the queues of a site.
-/
namespace Sys2Proof.Machine

open Sys2Proof

/-! ## The work that the host commands have still to submit (R315) -/

theorem map_replaceFirst {α β : Type} {p : α → Bool} {f : α → α} {g : α → β} {l : List α}
    (h : ∀ x, l.find? p = some x → g (f x) = g x) : (replaceFirst p f l).map g = l.map g := by
  induction l with
  | nil => rfl
  | cons x xs ih =>
    by_cases hx : p x = true
    · simp [replaceFirst, hx, h x (List.find?_cons_of_pos hx)]
    · rw [List.find?_cons_of_neg hx] at h
      simp [replaceFirst, hx, ih h]

/-- The entries that each host command has still to submit. -/
def State.todos (s : State) : List (List Nat) := s.host.cmds.map Cmd.todo

section
variable (s : State) (r : Nat) (e : Ev)

theorem todos_modCmd {r i : Nat} {f : Cmd → Cmd} (h : ∀ c, findCmd s r i = some c → (f c).todo = c.todo) :
    (modCmd s r i f).todos = s.todos := map_replaceFirst h

@[simp] theorem todos_dbump (i j hi lo : Nat) : (dbump s i j hi lo).todos = s.todos := by
  simp only [dbump]
  split <;> rfl

@[simp] theorem todos_logEv : (logEv s e).todos = s.todos := by
  simp only [logEv]
  split
  · split
    · rfl
    · exact todos_dbump ..
  · rfl

@[simp] theorem todos_eringPut : (eringPut s r e).todos = s.todos := by
  simp only [eringPut]
  split <;> rfl

@[simp] theorem todos_eringAsync : (eringAsync s r e).todos = s.todos := by
  simp only [eringAsync]
  split
  · simp
  · rfl

@[simp] theorem todos_raiseEv : (raiseEv s e).todos = s.todos := by
  rw [raiseEv, ← todos_logEv s e]
  generalize logEv s e = t
  induction s.host.erings.map (·.1) generalizing t with
  | nil => rfl
  | cons r rs ih =>
    rw [List.foldl_cons, ih]
    split <;> simp

@[simp] theorem todos_raise (code part : Nat) (p : BitVec 128) : (raise s code part p).todos = s.todos := todos_raiseEv ..

@[simp] theorem todos_putAborts (xs : List (Nat × Nat)) : (putAborts s xs).todos = s.todos := by
  induction xs generalizing s with
  | nil => rfl
  | cons x xs ih =>
    simp only [putAborts]
    split
    · rw [ih, putCompletion, todos_eringPut]
      exact todos_modCmd s fun _ _ => rfl
    · exact ih s

@[simp] theorem todos_finishCmd (i cstat : Nat) : (finishCmd s r i cstat).todos = s.todos := by
  unfold finishCmd
  split
  · rfl
  · split
    · rfl
    · rw [todos_putAborts, todos_eringPut]
      exact todos_modCmd s fun _ _ => rfl

@[simp] theorem todos_itemDone (i entry status : Nat) : (itemDone s r i entry status).todos = s.todos := by
  unfold itemDone
  split
  case h_1 c hc =>
    have hmod (left : List Nat) (fail : Option Nat) :
        (modCmd s r i fun _ => { c with left := left, fail := fail }).todos = s.todos :=
      todos_modCmd _ fun d hd => by rw [hc] at hd; cases hd; rfl
    split
    · dsimp only
      split
      · rw [todos_finishCmd, hmod]
      · exact hmod ..
    · rfl
  case h_2 => rfl

end

/-- Where every command has submitted its entries, none goes on. -/
theorem resumeCmds_eq {s : State} (h : ∀ l ∈ s.todos, l = []) : resumeCmds s = s := by
  have hcmds : ∀ c ∈ s.host.cmds, c.todo = [] := fun c hc => h _ (List.mem_map_of_mem hc)
  rw [resumeCmds]
  refine List.foldlRecOn (motive := fun t => t = s) _ _ rfl fun t ht c hc => ?_
  simp [hcmds c hc, ht]

theorem forall_todos {s : State} (h : ∀ c ∈ s.host.cmds, c.todo = []) : ∀ l ∈ s.todos, l = [] :=
  List.forall_mem_map.2 h

/-! ## The report of a descriptor's end (R249) -/

theorem keepsMem_of_mems {s t : State} (h : t.mems = s.mems) : KeepsMem s t := by
  obtain ⟨hspm, hrest⟩ := Prod.mk.inj h
  exact ⟨hspm, Prod.mk.inj hrest⟩

/-- What the report of a descriptor's end leaves: the cores and the memories, at every site all but the signals that wait for
a tag, and the work of the host commands. -/
structure Reports (s t : State) : Prop where
  cores : t.cores = s.cores
  mems : t.mems = s.mems
  site : ∀ m, msite t m = { msite s m with signals := (msite t m).signals }
  todos : t.todos = s.todos

namespace Reports
variable {s t u : State}

theorem refl (s : State) : Reports s s := ⟨rfl, rfl, fun _ => rfl, rfl⟩

theorem trans (h : Reports s t) (g : Reports t u) : Reports s u where
  cores := g.cores.trans h.cores
  mems := g.mems.trans h.mems
  site m := by rw [g.site m, h.site m]
  todos := g.todos.trans h.todos

theorem logs (h : Reports s t) (m : Nat) : (msite t m).logs = (msite s m).logs := by rw [h.site m]

theorem streams (h : Reports s t) (m : Nat) : (msite t m).streams = (msite s m).streams := by rw [h.site m]

theorem engQueue (h : Reports s t) (m eng : Nat) : engQueue (msite t m) eng = Machine.engQueue (msite s m) eng := by
  rw [h.site m]; rfl

/-- An event or a completion. -/
theorem ofOnlyEvents (h : OnlyEvents s t) (htodos : t.todos = s.todos) : Reports s t where
  cores := h.cores
  mems := by rw [h]; rfl
  site m := by rw [h.msite m]
  todos := htodos

end Reports

/-- A request that is sent touches the fabric alone. -/
theorem onlyFab_of_sendReq {s t : State} {ep : Nat} {p : Purpose} {a : Word} {d : Dest} {q : Req}
    (h : sendReq s ep p a d q = .sent t) : t = { s with fab := t.fab } := by
  have hinject : ∀ (xs : List Cell) (u : State), u = { s with fab := u.fab } →
      injectAll u xs = { s with fab := (injectAll u xs).fab } := by
    intro xs
    induction xs with
    | nil => exact fun _ hu => hu
    | cons x xs ih => exact fun u hu => ih (inject u x) (by rw [hu]; rfl)
  simp only [sendReq] at h
  split at h
  · cases h
  · split at h <;> cases h
    exact hinject _ _ rfl

section
variable (s : State) (m eng : Nat) (d : List Byte) (owner : Option (Nat × Nat × Nat)) (status count : Nat)

theorem onlyEvents_itemDone (r i entry : Nat) : OnlyEvents s (itemDone s r i entry status) := by
  unfold itemDone
  split
  · split
    · dsimp only
      split
      · exact .trans (onlyEvents_modCmd ..) (onlyEvents_finishCmd ..)
      · exact onlyEvents_modCmd ..
    · exact .refl s
  · exact .refl s

theorem reports_engineFault (tag : Nat) : Reports s (engineFault s m eng status tag) :=
  .ofOnlyEvents (onlyEvents_raise ..) (todos_raise ..)

theorem reports_doneSignal : Reports s (doneSignal s m eng d) := by
  simp only [doneSignal]
  split
  · exact reports_engineFault ..
  split
  case h_1 t hsent => rw [onlyFab_of_sendReq hsent]; exact ⟨rfl, rfl, fun _ => rfl, rfl⟩
  case h_2 => exact reports_engineFault ..
  case h_3 =>
    refine ⟨rfl, rfl, fun k => ?_, rfl⟩
    by_cases hk : k = m
    · subst hk; simp
    · rw [modMsite, msite_setMsite_other s _ hk]

/-- After the status word is written, the end of a descriptor only reports it. -/
theorem reports_endDesc :
    Reports (writeStatus s m eng (descTag d) status count) (endDesc s m eng d owner status count) := by
  simp only [endDesc]
  generalize writeStatus s m eng (descTag d) status count = t
  have hfault : Reports t (if status = 0 then t else engineFault t m eng status (descTag d)) := by
    split
    · exact .refl t
    · exact reports_engineFault ..
  refine hfault.trans ?_
  generalize (if status = 0 then t else engineFault t m eng status (descTag d)) = u
  split
  · exact reports_doneSignal ..
  split
  · split
    · exact .ofOnlyEvents (onlyEvents_itemDone ..) (todos_itemDone ..)
    · exact .refl u
  · exact .refl u

/-- The status word stands in its slot of the log. -/
theorem logs_writeStatus (tag : Nat) :
    agetD (0x200 * eng + 8 * (tag % 16)) 0 (msite (writeStatus s m eng tag status count) m).logs = statusWord tag status count := by
  rw [writeStatus, msite_modMsite, agetD_aput_same]

end

/-! ## The end of a stream and of a queued descriptor (R249, R252, R257) -/

/-- The state at the end of a stream, its status word written. -/
def streamEnded (s : State) (m n : Nat) (x : Stream) (status : Nat) : State :=
  writeStatus (dropStream s m n) m 0 (descTag x.desc) status (x.written / redElem x.desc)

section
variable {s : State} {m n : Nat} {x : Stream} (hx : stream s m n = some x)
include hx

theorem reports_endStream (status : Nat) : Reports (streamEnded s m n x status) (endStream s m n status) := by
  simp only [endStream, hx]
  exact reports_endDesc ..

theorem stream_endStream (hrise : keysRise (msite s m).streams = true) (status : Nat) :
    stream (endStream s m n status) m n = none := by
  rw [stream, (reports_endStream hx status).streams, streamEnded, writeStatus, msite_modMsite, dropStream, msite_modMsite]
  exact aget_adel_same hrise

/-- A command that ends a stream: it is no stream of the site any more, and its status word is in the log. -/
theorem streamEnds {i : Instr} {status : Nat} (hi : exec i s = .next (endStream s m n status))
    (hrise : keysRise (msite s m).streams = true) :
    ∃ t, exec i s = .next t ∧ stream t m n = none ∧ t.cores = s.cores ∧ KeepsMem s t ∧
      agetD (8 * (descTag x.desc % 16)) 0 (msite t m).logs =
        statusWord (descTag x.desc) status (x.written / redElem x.desc) := by
  have hrep := reports_endStream hx status
  refine ⟨_, hi, stream_endStream hx hrise status, hrep.cores, keepsMem_of_mems hrep.mems, ?_⟩
  rw [hrep.logs, streamEnded, ← logs_writeStatus (dropStream s m n) m 0, Nat.mul_zero, Nat.zero_add]

end

theorem engQueue_setEngQueue (s : State) (m eng : Nat) (q : List QDesc) :
    engQueue (msite (setEngQueue s m eng q) m) eng = q := by
  rw [setEngQueue, msite_modMsite, engQueue]
  split <;> rfl

/-- The state at the end of the executing descriptor, its status word written. -/
def headEnded (s : State) (m eng : Nat) (q : QDesc) : State :=
  writeStatus (setEngQueue s m eng ((engQueue (msite s m) eng).drop 1)) m eng (descTag q.desc) q.status q.count

theorem engQueue_headEnded (s : State) (m eng : Nat) (q : QDesc) :
    engQueue (msite (headEnded s m eng q) m) eng = (engQueue (msite s m) eng).drop 1 := by
  rw [← engQueue_setEngQueue s m eng ((engQueue (msite s m) eng).drop 1), headEnded, writeStatus, msite_modMsite]
  rfl

theorem reports_health (s : State) (h : HealthSt) : Reports s { s with health := h } := ⟨rfl, rfl, fun _ => rfl, rfl⟩

/-- A drill marks the events of the report and changes nothing else of it. -/
theorem reports_headEnded (s : State) (m eng : Nat) (q : QDesc) :
    Reports (headEnded s m eng q) (blamed q.drill (setEngQueue s m eng ((engQueue (msite s m) eng).drop 1)) fun u =>
      endDesc u m eng q.desc q.owner q.status q.count) := by
  rw [headEnded]
  generalize setEngQueue s m eng ((engQueue (msite s m) eng).drop 1) = t
  unfold blamed
  split
  case isTrue =>
    have hmarked : Reports (writeStatus t m eng (descTag q.desc) q.status q.count)
        (writeStatus { t with health := { t.health with causing := true } } m eng (descTag q.desc) q.status q.count) :=
      reports_health ..
    exact (hmarked.trans (reports_endDesc ..)).trans (reports_health ..)
  case isFalse => exact reports_endDesc ..

section
variable {s : State} {m : MemSiteNo} {e : Engine} {q : QDesc} (he : e ≠ .reduce) (hq : headDesc s m (engNo e) = some q)
include he hq

theorem descriptorEnd_holds (hdone : descDone s m (engNo e) = true) (htodos : ∀ l ∈ s.todos, l = []) (n : Fin 64) :
    ∃ t, exec (.descriptorEnd m e n) s = .next t ∧
      engQueue (msite t m) (engNo e) = (engQueue (msite s m) (engNo e)).drop 1 ∧ t.cores = s.cores ∧ KeepsMem s t ∧
      agetD (0x200 * engNo e + 8 * (descTag q.desc % 16)) 0 (msite t m).logs = statusWord (descTag q.desc) q.status q.count := by
  have hrep := reports_headEnded s m (engNo e) q
  refine ⟨_, congrArg Host.Outcome.next ((if_neg he).trans ?_), ?_, hrep.cores, keepsMem_of_mems hrep.mems, ?_⟩
  · simp only [hq, hdone, if_true]
    exact resumeCmds_eq (by rw [hrep.todos]; exact htodos)
  · rw [hrep.engQueue, engQueue_headEnded]
  · rw [hrep.logs, headEnded, logs_writeStatus]

end

section
variable {m : MemSiteNo} {n : Fin 64} {s : State} {x : Stream} (hx : stream s m n = some x)
include hx

theorem exec_descriptorEnd_stream (hdone : streamDone s m n = true) (htodos : ∀ l ∈ s.todos, l = []) :
    exec (.descriptorEnd m .reduce n) s = .next (endStream s m n (if x.badAnchor then 5 else 0)) := by
  refine congrArg Host.Outcome.next ((if_pos rfl).trans ?_)
  simp only [hx, hdone, if_true]
  exact resumeCmds_eq (by rw [(reports_endStream hx _).todos]; exact htodos)

theorem exec_streamTimeout :
    exec (.streamTimeout m n) s = .next (if x.lastPrc + usTicks x.window ≤ s.prc then endStream s m n 6 else s) := by
  refine congrArg Host.Outcome.next ?_
  simp only [hx]

end

/-! ## Submission (R248, R250, R259 to R261) -/

/-- The stream that an open descriptor opens: nothing granted, delivered or written. -/
def openedStream (s : State) (src : BitVec 16) (d : List Byte) : Stream :=
  { desc := d, submitter := src, ins := (redInputs d).map fun k => ⟨k, 0, []⟩, written := 0, outCr := 0, again := none,
    badAnchor := false, lastPrc := s.prc, window := dget s 0xA000 2, owner := none }

/-- A submitted descriptor in its queue: nothing of it has been done. -/
def waitingDesc (src : BitVec 16) (d : List Byte) : QDesc := ⟨d, src, false, 0, 0, [], .clean, false, false, none⟩

/-- An endpoint may submit, and the site takes it. -/
structure Submits (s : State) (m : MemSiteNo) (src : BitVec 16) (d : List Byte) : Prop where
  may : maySubmit s m src.toNat = true
  takes : absorbsSite s m = false
  present : absent s (epMem m) = false
  version : dfield d 3 0 = 1
  common : commonOk d = true

section
variable {s : State} {m : MemSiteNo} {src : BitVec 16} {d : List Byte} (h : Submits s m src d)
include h

theorem Submits.row (eng : Nat) : submitRow s m eng src.toNat d = (submitTo s m eng src.toNat d none).1 :=
  if_pos (by simp [h.may, h.takes, h.present])

theorem Submits.accepted : ¬(dfield d 3 0 ≠ 1 ∨ commonOk d = false) := by simp [h.version, h.common]

/-- The reduce engine takes open descriptors of free streams. -/
theorem submitReduce_open (hop : dfield d 7 4 = 1) (hopen : redOpenOk d = true) (hfree : stream s m (redStream d) = none) :
    submitReduce s m src.toNat d none = (setStream s m (redStream d) (openedStream s src d), true) := by
  simp only [submitReduce, if_neg h.accepted, hop, hopen, hfree, openedStream, BitVec.ofNat_toNat, BitVec.setWidth_eq]
  rfl

theorem submitReduce_close (hop : dfield d 7 4 = 2) {x : Stream} (hx : stream s m (redStream d) = some x) :
    submitReduce s m src.toNat d none = (endDesc (endStream s m (redStream d) 8) m 0 d none 0 0, true) := by
  simp only [submitReduce, if_neg h.accepted, hop, hx]
  rfl

/-- The gather and the re-layout engine take a descriptor behind the others. -/
theorem submitQueue_appends (eng : Nat) (hok : (if eng = 1 then gatherOk d else relayoutOk d) = true)
    (hroom : (engQueue (msite s m) eng).length < 16) :
    submitQueue s m eng src.toNat d none =
      (setEngQueue s m eng (engQueue (msite s m) eng ++ [waitingDesc src d]), true) := by
  have hno : ¬(dfield d 3 0 ≠ 1 ∨ commonOk d = false ∨ (if eng = 1 then gatherOk d else relayoutOk d) = false ∨
      16 ≤ (engQueue (msite s m) eng).length) := by
    rw [hok]
    simp [h.version, h.common, hroom]
  simp only [submitQueue, if_neg hno, waitingDesc, BitVec.ofNat_toNat, BitVec.setWidth_eq]

theorem reduceOpen_holds (hop : dfield d 7 4 = 1) (hopen : redOpenOk d = true) (hfree : stream s m (redStream d) = none) :
    ∃ t x, exec (.reduceOpen m src d) s = .next t ∧ t = { s with msites := t.msites } ∧
      stream t m (redStream d) = some x ∧ x.desc = d ∧ x.written = 0 ∧ x.ins = (redInputs d).map fun k => ⟨k, 0, []⟩ := by
  have hsub : submitRow s m 0 src.toNat d = setStream s m (redStream d) (openedStream s src d) :=
    (h.row 0).trans (congrArg Prod.fst (submitReduce_open h hop hopen hfree))
  refine ⟨_, openedStream s src d, congrArg Host.Outcome.next ((if_neg (by omega)).trans hsub), rfl, ?_, rfl, rfl, rfl⟩
  rw [stream, setStream, msite_modMsite, aget_aput_same]

theorem reduceClose_holds (hop : dfield d 7 4 = 2) (hused : stream s m (redStream d) ≠ none)
    (hrise : keysRise (msite s m).streams = true) :
    ∃ t, exec (.reduceClose m src d) s = .next t ∧ stream t m (redStream d) = none ∧ t.cores = s.cores ∧ KeepsMem s t := by
  obtain ⟨x, hx⟩ := Option.ne_none_iff_exists'.1 hused
  have hsub := (h.row 0).trans (congrArg Prod.fst (submitReduce_close h hop hx))
  have hends := reports_endStream hx 8
  have hrep := reports_endDesc (endStream s m (redStream d) 8) m 0 d none 0 0
  refine ⟨_, congrArg Host.Outcome.next ((if_pos hop).trans hsub), ?_, hrep.cores.trans hends.cores,
    keepsMem_of_mems (hrep.mems.trans hends.mems)⟩
  rw [stream, hrep.streams, writeStatus, msite_modMsite]
  exact stream_endStream hx hrise 8

/-- A row that submits to the gather or the re-layout engine. -/
theorem queued_holds {i : Instr} (eng : Nat) (hi : exec i s = .next (submitRow s m eng src.toNat d)) (heng : eng ≠ 0)
    (hok : (if eng = 1 then gatherOk d else relayoutOk d) = true) (hroom : (engQueue (msite s m) eng).length < 16) :
    ∃ t, exec i s = .next t ∧ t = { s with msites := t.msites } ∧
      engQueue (msite t m) eng = engQueue (msite s m) eng ++ [waitingDesc src d] := by
  rw [h.row, submitTo, if_neg heng, submitQueue_appends h eng hok hroom] at hi
  exact ⟨_, hi, rfl, engQueue_setEngQueue ..⟩

end

/-! ## What the work of an engine leaves of the sites (R239, R259 to R263) -/

section
variable (s : State) (m eng n off : Nat) (e : EccObs)

theorem msites_dbump (i j hi lo : Nat) : (dbump s i j hi lo).msites = s.msites := (onlyEvents_dbump ..).msites

theorem msites_endDrill (slot result cause : Nat) : (endDrill s slot result cause).msites = s.msites := by
  unfold endDrill
  split
  · refine (onlyEvents_raiseD ..).msites.trans ?_
    unfold markDrill
    split <;> rfl
  · rfl

theorem msites_drillOver : (drillOver s).msites = s.msites := by
  unfold drillOver
  split
  · exact msites_endDrill ..
  · rfl

theorem msites_hbmUncorrectable (drill : Bool) : (hbmUncorrectable s drill m off).msites = s.msites := by
  have hcounted (code part : Nat) (p : BitVec 128) :
      (raiseD (dbump s (0xA100 + m) 2 47 32) drill code part p).msites = s.msites :=
    (onlyEvents_raiseD ..).msites.trans (onlyEvents_dbump ..).msites
  simp only [hbmUncorrectable]
  split
  · exact hcounted ..
  · split
    · exact (onlyEvents_raise ..).msites.trans (hcounted ..)
    · exact hcounted ..

theorem msites_hbmObs : (hbmObs s m off e).msites = s.msites := by
  unfold hbmObs
  split
  · exact (msites_drillOver _).trans (msites_hbmUncorrectable ..)
  · split
    · rfl
    · exact msites_dbump ..
    · exact msites_hbmUncorrectable ..
    · exact msites_dbump ..

theorem msites_healthBump (pcid hi lo : Nat) : (healthBump s pcid hi lo).msites = s.msites := by
  simp only [healthBump]
  split <;> rfl

theorem msites_spmObs (c : Nat) : (spmObs s c off e).msites = s.msites := by
  unfold spmObs
  split
  case h_1 =>
    simp only [readGlitch]
    split
    · exact (onlyEvents_raise ..).msites.trans (msites_healthBump ..)
    · exact msites_healthBump ..
  case h_2 => rfl
  case h_3 => rfl

theorem msites_destObs (d : Dest) : (destObs s d n e).msites = s.msites := by
  unfold destObs
  split
  · rfl
  · exact msites_hbmObs ..
  · exact msites_spmObs ..
  · rfl

theorem msites_readsObs (ps : List (Word × Dest × Nat)) : (readsObs s ps e).1.msites = s.msites := by
  induction ps generalizing s e with
  | nil => rfl
  | cons p ps ih =>
    simp only [readsObs]
    split
    · exact msites_destObs ..
    · exact (ih ..).trans (msites_destObs ..)

theorem onlyEvents_turnedAway (ep : Nat) : OnlyEvents s (turnedAway s ep) := by
  have hbump (ni sub hi lo : Nat) : OnlyEvents s (bumpNi s ni sub hi lo) := by
    unfold bumpNi
    split
    · exact onlyEvents_dbump ..
    · exact .refl s
  unfold turnedAway
  split
  · exact hbump ..
  · split
    · exact hbump ..
    · exact .refl s

end

section
variable {s t : State} {m eng inc status : Nat}

/-- A write that fails is at most counted at the endpoint that turned it away. -/
theorem onlyEvents_of_engPut {a : Word} {bs : List Byte} (h : engPut s m eng a bs inc = .fail t status) : OnlyEvents s t := by
  simp only [engPut] at h
  split at h
  · cases h; exact .refl s
  split at h
  · split at h <;> cases h
    exact onlyEvents_turnedAway ..
  split at h <;> cases h
  exact .refl s

/-- A piece that fails is at most counted at the endpoint that turned it away. -/
theorem onlyEvents_of_engPiece {p : Piece} (h : engPiece s m eng p inc = .fail t status) : OnlyEvents s t := by
  simp only [engPiece] at h
  split at h
  · split at h
    · split at h
      · cases h; exact .refl s
      split at h
      · split at h
        · exact onlyEvents_of_engPut h
        · cases h; exact onlyEvents_turnedAway ..
      split at h
      · cases h
      split at h <;> cases h
      exact .refl s
    · exact onlyEvents_of_engPut h
    · exact onlyEvents_of_engPut h
    · cases h
  · cases h

end

/-! ## An engine that executes a descriptor -/

/-- An engine executes a descriptor. -/
def Executes (s : State) (m eng : Nat) (d : List Byte) : Prop :=
  ∃ q, headDesc s m eng = some q ∧ q.started = true ∧ q.desc = d

section
variable {s t : State} {m eng : Nat} {d : List Byte}

theorem headDesc_setHead (s : State) (m eng : Nat) (q : QDesc) : headDesc (setHead s m eng q) m eng = some q := by
  rw [headDesc, setHead, engQueue_setEngQueue]
  rfl

theorem executes_setHead (s : State) {q : QDesc} (hstart : q.started = true) (hdesc : q.desc = d) :
    Executes (setHead s m eng q) m eng d := ⟨q, headDesc_setHead .., hstart, hdesc⟩

theorem Executes.of_msites (h : Executes s m eng d) (hsites : t.msites = s.msites) : Executes t m eng d := by
  simpa only [Executes, headDesc, msite, hsites] using h

theorem Executes.failHead (h : Executes s m eng d) (status : Nat) : Executes (failHead s m eng status) m eng d := by
  obtain ⟨q, hq, hstart, hdesc⟩ := h
  simp only [Machine.failHead, hq]
  exact executes_setHead s hstart hdesc

theorem Executes.lostHead (h : Executes s m eng d) (ps : List (Word × Dest × Nat)) (e : EccObs) (x : Dest) :
    Executes (lostHead s m eng ps e x) m eng d := by
  obtain ⟨q, hq, hstart, hdesc⟩ := (h.of_msites (msites_readsObs s e ps)).failHead (lostStatus x)
  simp only [Machine.lostHead, hq]
  exact executes_setHead _ hstart hdesc

theorem Executes.engPump (h : Executes s m eng d) (fuel : Nat) : Executes (engPump fuel s m eng) m eng d := by
  induction fuel generalizing s with
  | zero => exact h
  | succ fuel ih =>
    obtain ⟨q, hq, hstart, hdesc⟩ := id h
    simp only [Machine.engPump, hq]
    split
    case h_1 => exact h
    case h_2 p inc ps htodo =>
      split
      case h_1 => exact h
      case h_2 t status heq => exact (h.of_msites (onlyEvents_of_engPiece heq).msites).failHead status
      case h_3 t heq =>
        split
        · exact h.lostHead ..
        · exact ih (executes_setHead _ hstart hdesc)
      case h_4 t heq =>
        split
        · exact h.lostHead ..
        · exact ih (executes_setHead _ hstart hdesc)

theorem Executes.runEngine (h : Executes s m eng d) : Executes (runEngine s m eng) m eng d := by
  unfold Machine.runEngine
  split
  · exact h.engPump _
  · exact h

end

/-- DESCRIPTOR_START at an idle engine. -/
theorem descriptorStart_holds {m : MemSiteNo} {e : Engine} {s : State} {q : QDesc} (he : e ≠ .reduce)
    (hq : headDesc s m (engNo e) = some q) (hidle : q.started = false) (ecc : EccObs) :
    ∃ t, exec (.descriptorStart m e ecc) s = .next t ∧ Executes t m (engNo e) q.desc := by
  refine ⟨_, congrArg Host.Outcome.next (if_neg he), ?_⟩
  simp only [hq, hidle]
  exact (executes_setHead _ rfl rfl).runEngine

/-! ## A re-layout of one piece (R261) -/

/-- Two states that an access of this panel does not tell apart: only the queues of the sites and the count of free bytes
differ. -/
structure SameAccess (s t : State) : Prop where
  eq : t = { s with fresh := t.fresh, msites := t.msites }
  locks : ∀ m, (msite t m).locks = (msite s m).locks
  logs : ∀ m, (msite t m).logs = (msite s m).logs

section
variable {s t : State} (h : SameAccess s t)
include h

theorem SameAccess.resolve (part : Option Nat) (a : Word) : resolve t part a = resolve s part a := by
  rw [h.eq]; rfl

theorem SameAccess.hbmOk (m req off n : Nat) : hbmOk t m req off n = hbmOk s m req off n := by
  simp only [Machine.hbmOk, rangeLocked, lockedOut, h.locks]

theorem SameAccess.answers (d : Dest) : (absent t d.ep || absorbs t d.ep) = (absent s d.ep || absorbs s d.ep) := by
  rw [h.eq]; rfl

theorem SameAccess.destRead (own req : Nat) (d : Dest) (n : Nat) : destRead t own req d n = destRead s own req d n := by
  have hhbm : t.hbm = s.hbm := by rw [h.eq]
  have hspm : t.spm = s.spm := by rw [h.eq]
  simp only [Machine.destRead, h.answers, h.hbmOk, logRead, h.logs, hbmRead, spmRead, hhbm, hspm]

theorem SameAccess.destWrite {own req : Nat} {d : Dest} {bs : List Byte} {u : State}
    (hu : destWrite s own req d bs = some u) :
    destWrite t own req d bs = some { u with fresh := t.fresh, msites := t.msites } := by
  have hspm (c off : Nat) : spmWrite t c off bs true =
      { spmWrite s c off bs true with fresh := t.fresh, msites := t.msites } := by
    rw [h.eq]
    simp only [spmWrite]
    split
    · rfl
    · split <;> rfl
  have hhbm (m off : Nat) : hbmWrite t m off bs = { hbmWrite s m off bs with fresh := t.fresh, msites := t.msites } := by
    rw [h.eq]; rfl
  simp only [Machine.destWrite, h.answers, h.hbmOk, hspm, hhbm] at hu ⊢
  split at hu
  · cases hu
  case isFalse hansw =>
    rw [if_neg hansw]
    split at hu
    case h_1 => cases hu
    case h_2 | h_3 =>
      rw [Option.ite_none_right_eq_some] at hu ⊢
      exact ⟨hu.1, by cases hu.2; rfl⟩
    case h_4 => cases hu

end

/-- A write at a destination leaves SRAM and the health state. -/
theorem destWrite_keeps {s u : State} {own req : Nat} {d : Dest} {bs : List Byte} (hu : destWrite s own req d bs = some u) :
    u.sram = s.sram ∧ u.health = s.health := by
  have hspm (c off : Nat) : (spmWrite s c off bs true).sram = s.sram ∧ (spmWrite s c off bs true).health = s.health := by
    simp only [spmWrite]
    split
    · exact ⟨rfl, rfl⟩
    · split <;> exact ⟨rfl, rfl⟩
  simp only [destWrite] at hu
  split at hu
  · cases hu
  split at hu
  case h_1 => cases hu
  case h_2 =>
    rw [Option.ite_none_right_eq_some] at hu
    cases hu.2
    exact ⟨rfl, rfl⟩
  case h_3 =>
    rw [Option.ite_none_right_eq_some] at hu
    cases hu.2
    exact hspm ..
  case h_4 => cases hu

/-- Without a drill, reads whose lines are all clean report nothing. -/
theorem readsObs_clean {s : State} (hdrill : ∀ x, drillWith s 7 x = false) (ps : List (Word × Dest × Nat)) :
    readsObs s ps .clean = (s, none, .clean) := by
  have hfirst (k : Nat) : eccFirst k .clean = .clean := ite_self _
  have hfinding (d : Dest) (n : Nat) : destFinding s d n .clean = .clean := by
    simp only [destFinding, siteObs, hdrill, hfirst]
    split <;> rfl
  have hobs (d : Dest) (n : Nat) : destObs s d n .clean = s := by
    simp only [destObs, hfirst, hbmObs, hdrill]
    split <;> rfl
  induction ps with
  | nil => rfl
  | cons p ps ih =>
    have hback (k : Nat) : (if eccPos .clean < k then .clean else eccBack k .clean) = EccObs.clean := ite_self _
    simpa [readsObs, hfinding, hobs, hback, eccLost] using ih

section
variable {s u : State} {m eng inc n : Nat} {a b : Word} {d1 d2 : Dest} {bs : List Byte}

/-- No requester is locked out of any channel of the site. -/
theorem rangeLocked_of_locks (h : (msite s m).locks = []) (req off n : Nat) : rangeLocked s m req off n = false := by
  rw [rangeLocked, h]; rfl

/-- A piece on this panel that may be read and written is copied. -/
theorem engPiece_copies (hlocks : (msite s m).locks = [])
    (ha : resolve s (some (ownerOfSite s m)) a = some d1) (hd1 : d1.here s = true)
    (hread : destRead s m (eng + 1) d1 n = some bs)
    (hb : resolve s (some (ownerOfSite s m)) b = some d2) (hd2 : d2.here s = true)
    (hwrite : destWrite s m (eng + 1) d2 bs = some u) :
    engPiece s m eng ⟨.rem a, .rem b, n⟩ inc = .done u := by
  simp [engPiece, engPut, engDestRead, engDestWrite, rangeLocked_of_locks hlocks, ha, hd1, hread, hb, hd2, hwrite]

/-- The last piece of an executing descriptor is copied. -/
theorem runEngine_lastPiece {q : QDesc} {p : Piece} (hq : headDesc s m eng = some q) (htodo : q.todo = [(p, inc)])
    (hecc : q.ecc = .clean) (hpiece : engPiece s m eng p inc = .done u) (hdrill : ∀ x, drillWith u 7 x = false) :
    runEngine s m eng = setHead u m eng { q with todo := [], count := q.count + inc, ecc := .clean } := by
  simp [runEngine, engPump, hq, htodo, hecc, hpiece, readsObs_clean hdrill]

end

/-- The state in which the re-layout engine has started its first descriptor. -/
def relayoutStarted (s : State) (m : Nat) (q : QDesc) : State :=
  setHead { s with fresh := s.fresh + 1 } m 2
    { q with started := true, todo := relayoutWork s m q.desc, ecc := .clean, status := 0, drill := false }

theorem sameAccess_relayoutStarted (s : State) (m : Nat) (q : QDesc) : SameAccess s (relayoutStarted s m q) := by
  have hsite (k : Nat) : (msite (relayoutStarted s m q) k).locks = (msite s k).locks ∧
      (msite (relayoutStarted s m q) k).logs = (msite s k).logs := by
    rw [relayoutStarted, setHead, setEngQueue]
    by_cases hk : k = m
    · subst hk
      rw [msite_modMsite]
      exact ⟨rfl, rfl⟩
    · rw [modMsite, msite_setMsite_other _ _ hk]
      exact ⟨rfl, rfl⟩
  exact ⟨rfl, fun k => (hsite k).1, fun k => (hsite k).2⟩

section
variable {s : State} {m : MemSiteNo} {q : QDesc} (hq : headDesc s m 2 = some q) (hidle : q.started = false)
include hq hidle

theorem exec_descriptorStart_relayout :
    exec (.descriptorStart m .relayout .clean) s = .next (runEngine (relayoutStarted s m q) m 2) := by
  refine congrArg Host.Outcome.next ((if_neg (by decide)).trans ?_)
  simp only [engNo, hq, hidle]
  rfl

/-- A re-layout of one piece on this panel writes the bytes that it reads. -/
theorem relayout_copies {a b : Word} {n inc : Nat} {d1 d2 : Dest} {bs : List Byte} {u : State}
    (hwork : relayoutWork s m q.desc = [(⟨.rem a, .rem b, n⟩, inc)]) (hdrill : ∀ x, drillWith s 7 x = false)
    (hlocks : (msite s m).locks = [])
    (ha : resolve s (some (ownerOfSite s m)) a = some d1) (hd1 : d1.here s = true) (hread : destRead s m 3 d1 n = some bs)
    (hb : resolve s (some (ownerOfSite s m)) b = some d2) (hd2 : d2.here s = true) (hwrite : destWrite s m 3 d2 bs = some u) :
    ∃ t, exec (.descriptorStart m .relayout .clean) s = .next t ∧ t.hbm = u.hbm ∧ t.spm = u.spm ∧ t.sram = s.sram := by
  have hsame := sameAccess_relayoutStarted s m q
  obtain ⟨hsram, hhealth⟩ := destWrite_keeps hwrite
  have hpiece := engPiece_copies (eng := 2) (inc := inc) ((hsame.locks m).trans hlocks) ((hsame.resolve ..).trans ha) hd1
    ((hsame.destRead ..).trans hread) ((hsame.resolve ..).trans hb) hd2 (hsame.destWrite hwrite)
  have hrun := runEngine_lastPiece (headDesc_setHead ..) hwork rfl hpiece fun x => by
    rw [← hdrill x, drillWith, drillWith, openDrill, openDrill, hhealth]
  exact ⟨_, (exec_descriptorStart_relayout hq hidle).trans (congrArg _ hrun), rfl, rfl, hsram⟩

end

/-! ## The statement -/

/-- Settles O44: each clause is what the engine does with the descriptor. -/
theorem engineDescriptors : Obligations.EngineDescriptors := by
  refine ⟨fun m src d s hmay htakes hpresent hver hcommon => ?submit, fun m e s q he hq => ?queued, fun m n s x hx hrise => ?stream⟩
  case submit =>
    have h : Submits s m src d := ⟨hmay, htakes, hpresent, hver, hcommon⟩
    refine ⟨reduceOpen_holds h, reduceClose_holds h, fun hok hroom i hi => ?gather, fun hok hroom => ?relayout⟩
    case gather =>
      refine queued_holds h 1 ?_ (by decide) hok hroom
      obtain ⟨hop, rfl⟩ | ⟨hop, rfl⟩ := hi
      · exact congrArg Host.Outcome.next (if_neg (by omega))
      · exact congrArg Host.Outcome.next (if_pos hop)
    case relayout => exact queued_holds h 2 rfl (by decide) hok hroom
  case queued =>
    refine ⟨fun hidle ecc => ?start, ?copy, ?done⟩
    case start =>
      obtain ⟨t, hexec, q', hq', hstart, hdesc⟩ := descriptorStart_holds he hq hidle ecc
      exact ⟨t, q', hexec, hq', hstart, hdesc⟩
    case copy =>
      rintro a b n inc d1 d2 bs u hidle rfl hwork hdrill hlocks ha hd1 hread hb hd2 hwrite
      exact relayout_copies hq hidle hwork hdrill hlocks ha hd1 hread hb hd2 hwrite
    case done =>
      exact fun hdone htodos n => descriptorEnd_holds he hq hdone (forall_todos htodos) n
  case stream =>
    refine ⟨fun hdone htodos => ?done, fun hdue => ?due, fun hearly => ?early⟩
    case done => exact streamEnds hx (exec_descriptorEnd_stream hx hdone (forall_todos htodos)) hrise
    case due => exact streamEnds hx ((exec_streamTimeout hx).trans (by rw [if_pos hdue])) hrise
    case early => exact (exec_streamTimeout hx).trans (by rw [if_neg (by omega)])

end Sys2Proof.Machine

/-!
The states of a link (R278 to R282, Tables 8.5 to 8.11). A command of a link touches that link, the logs and the topology
record: `OnlyLink` is said once for each operation of Links.lean. The cells that go again after a link has come up move its
numbers and credits but not its standing. The exit map has a bit for each link die.
-/
namespace Sys2Proof.Machine

open Sys2Proof

/-! ## A link after an update -/

@[simp] theorem link_setLink_same (s : State) (l : Nat) (x : Link) : link (setLink s l x) l = x := agetD_aput_same ..

@[simp] theorem link_emit (s : State) (o : Out) (l : Nat) : link (emit s o) l = link s l := rfl

theorem link_of_links {s t : State} (h : t.links = s.links) (l : Nat) : link t l = link s l := by rw [link, h, ← link]

@[simp] theorem links_touchTopo (s : State) : (touchTopo s).links = s.links := by unfold touchTopo; split <;> rfl

@[simp] theorem link_moveLink_same (s : State) (l : Nat) (x : Link) : link (moveLink s l x) l = x :=
  (link_of_links (links_touchTopo _) l).trans (link_setLink_same ..)

@[simp] theorem link_raiseD (s : State) (d : Bool) (code part : Nat) (p : BitVec 128) (l : Nat) :
    link (raiseD s d code part p) l = link s l :=
  link_of_links (onlyEvents_raiseD ..).links l

@[simp] theorem link_release_same (s : State) (l : Nat) (x : Link) :
    link (release s l x) l = { x with state := 1, reason := 0, locked := false, since := s.prc } :=
  link_moveLink_same ..

/-! ## What a command of a link leaves as it was -/

/-- No core, memory, cell of the fabric or other link changes. -/
def OnlyLink (s t : State) (l : Nat) : Prop :=
  t.cores = s.cores ∧ KeepsMem s t ∧ t.fab = s.fab ∧ ∀ k, k ≠ l → link t k = link s k

theorem OnlyLink.refl (s : State) (l : Nat) : OnlyLink s s l := ⟨rfl, ⟨rfl, rfl, rfl⟩, rfl, fun _ _ => rfl⟩

theorem OnlyLink.trans {s t u : State} {l : Nat} (h : OnlyLink s t l) (g : OnlyLink t u l) : OnlyLink s u l := by
  obtain ⟨hcores, ⟨hspm, hhbm, hsram⟩, hfab, hlink⟩ := h
  obtain ⟨gcores, ⟨gspm, ghbm, gsram⟩, gfab, glink⟩ := g
  exact ⟨gcores.trans hcores, ⟨gspm.trans hspm, ghbm.trans hhbm, gsram.trans hsram⟩, gfab.trans hfab,
    fun k hk => (glink k hk).trans (hlink k hk)⟩

theorem OnlyEvents.onlyLink {s t : State} (h : OnlyEvents s t) (l : Nat) : OnlyLink s t l :=
  ⟨h.cores, h.keepsMem, h.fab, fun k _ => link_of_links h.links k⟩

section
variable (s : State) (l : Nat)

theorem onlyLink_setLink (x : Link) : OnlyLink s (setLink s l x) l :=
  ⟨rfl, ⟨rfl, rfl, rfl⟩, rfl, fun _ hk => agetD_aput_other hk ..⟩

theorem onlyLink_touchTopo : OnlyLink s (touchTopo s) l := by
  unfold touchTopo
  split
  · exact .refl s l
  · exact .refl s l

theorem onlyLink_moveLink (x : Link) : OnlyLink s (moveLink s l x) l :=
  (onlyLink_setLink s l x).trans (onlyLink_touchTopo ..)

theorem onlyLink_release (x : Link) : OnlyLink s (release s l x) l := onlyLink_moveLink ..

/-- A link that changes state with an event. -/
theorem onlyLink_raiseD_moveLink (x : Link) (d : Bool) (code part : Nat) (p : BitVec 128) :
    OnlyLink s (raiseD (moveLink s l x) d code part p) l :=
  (onlyLink_moveLink s l x).trans ((onlyEvents_raiseD ..).onlyLink l)

theorem onlyLink_sendCw (ctype seq cvc ccnt : Nat) (cells : List Cell) (need : Nat) :
    OnlyLink s (sendCw s l ctype seq cvc ccnt cells need) l := by
  simp only [sendCw]
  split
  · exact (onlyLink_setLink ..).trans ((onlyEvents_emit ..).onlyLink l)
  · split
    · exact (onlyEvents_emit ..).onlyLink l
    · exact .refl s l

theorem onlyLink_resendCells (fuel : Nat) : OnlyLink s (resendCells fuel s l) l := by
  induction fuel generalizing s with
  | zero => exact .refl s l
  | succ fuel ih =>
    simp only [resendCells]
    split
    case h_1 => exact .refl s l
    case h_2 =>
      split
      case h_1 => exact (onlyLink_setLink ..).trans (ih _)
      case h_2 =>
        split
        · exact .refl s l
        · exact ((onlyLink_setLink ..).trans (onlyLink_sendCw ..)).trans (ih _)

theorem onlyLink_goAgain : OnlyLink s (goAgain s l) l := onlyLink_resendCells ..

end

/-! ## The cells that go again (R271, R280) -/

/-- What a retransmission does not move: the state of a link, the record of its peer and the number that it expects. -/
def Link.standing (x : Link) : Nat × Option CapRec × Nat := (x.state, x.caps, x.rxSeq)

theorem standing_spend (x : Link) (vc : BitVec 2) : (x.spend vc).standing = x.standing := by
  unfold Link.spend
  split
  · rfl
  · split <;> rfl

section
variable (s : State) (l : Nat)

theorem standing_sendCw (ctype seq cvc ccnt : Nat) (cells : List Cell) (need : Nat) :
    (link (sendCw s l ctype seq cvc ccnt cells need) l).standing = (link s l).standing := by
  simp only [sendCw]
  split
  · rw [link_emit, link_setLink_same]; rfl
  · split <;> rfl

theorem standing_resendCells (fuel : Nat) : (link (resendCells fuel s l) l).standing = (link s l).standing := by
  induction fuel generalizing s with
  | zero => rfl
  | succ fuel ih =>
    simp only [resendCells]
    split
    case h_1 => rfl
    case h_2 =>
      split
      case h_1 => rw [ih, link_setLink_same]; rfl
      case h_2 =>
        split
        · rfl
        · rw [ih, standing_sendCw, link_setLink_same]; exact standing_spend ..

theorem standing_goAgain : (link (goAgain s l) l).standing = (link s l).standing := standing_resendCells ..

variable {s l} in
theorem goAgain_of_resend_nil (h : (link s l).resend = []) : goAgain s l = s := by rw [goAgain, h]; rfl

end

/-! ## A link that comes up (R278, R280) -/

/-- The link as it comes up with a peer's record: its counts start, its credits are full, and the codewords kept that carry a
cell wait to go again. -/
def Link.cameUp (x : Link) (r : CapRec) : Link :=
  { x with state := 2, reason := 0, caps := some r, locked := true, lost := false, attempts := 0, drilled := false,
           txSeq := 0, rxSeq := 0, replay := false, retries := 0, buf := [], txRest := 0, rxRest := [],
           resend := (x.buf ++ x.resend).filter fun w => !w.cells.isEmpty, cr0 := 1024, cr1 := 1024, cr2 := 256 }

theorem resend_cameUp {x : Link} (h : ∀ w ∈ x.buf ++ x.resend, w.cells = []) (r : CapRec) : (x.cameUp r).resend = [] :=
  List.filter_eq_nil_iff.2 fun w hw => by simp [h w hw]

section
variable (s : State) (l : Nat) (r : CapRec)

theorem linkUp_eq : ∃ p, linkUp s l r =
    goAgain (raiseD (moveLink s l ((link s l).cameUp r)) (link s l).drilled 0x0503 0xFF p) l :=
  ⟨_, rfl⟩

theorem onlyLink_linkUp : OnlyLink s (linkUp s l r) l := by
  obtain ⟨p, hp⟩ := linkUp_eq s l r
  rw [hp]
  exact (onlyLink_raiseD_moveLink ..).trans (onlyLink_goAgain ..)

theorem standing_linkUp : (link (linkUp s l r) l).standing = (2, some r, 0) := by
  obtain ⟨p, hp⟩ := linkUp_eq s l r
  rw [hp, standing_goAgain, link_raiseD, link_moveLink_same]
  rfl

theorem link_linkUp_of_no_cells (h : ∀ w ∈ (link s l).buf ++ (link s l).resend, w.cells = []) :
    link (linkUp s l r) l = (link s l).cameUp r := by
  obtain ⟨p, hp⟩ := linkUp_eq s l r
  have hlink : ∀ d code part q, link (raiseD (moveLink s l ((link s l).cameUp r)) d code part q) l = (link s l).cameUp r :=
    fun _ _ _ _ => (link_raiseD ..).trans (link_moveLink_same ..)
  rw [hp, goAgain_of_resend_nil (by rw [hlink, resend_cameUp h]), hlink]

end

/-! ## The commands of one link -/

/-- The instruction completes, changes one link alone, and what it leaves is as stated. -/
def ActsOnLink (i : Instr) (s : State) (l : Nat) (p : State → Prop) : Prop :=
  ∃ t, exec i s = .next t ∧ p t ∧ OnlyLink s t l

section
variable {l : LinkNo} {s : State}

/-! ### Training (R278, R279) -/

theorem linkTraining_locks (h : (link s l).state = 1) (rtt : BitVec 12) :
    ActsOnLink (.linkTraining l true true rtt) s l fun t =>
      link t l = { link s l with locked := true, rtt := rtt.toNat } ∧
      t.out = s.out ++ [.capability l (List.replicate 3 (capFragments (ownCaps s l)))] :=
  ⟨_, congrArg Host.Outcome.next (if_neg (fun hne => hne h)),
    ⟨link_setLink_same .., rfl⟩, (onlyLink_setLink ..).trans ((onlyEvents_emit ..).onlyLink l)⟩

theorem exec_capabilityRecord_unheard {cs : List (List (BitVec 20))} (h : heardRecord cs = none) :
    exec (.capabilityRecord l cs) s = .next s := by
  show execCapabilityRecord l cs s = _
  simp only [execCapabilityRecord, h]

section
variable {cs : List (List (BitVec 20))} {r : CapRec} (hheard : heardRecord cs = some r) (hstate : (link s l).state = 1)
  (hlocked : (link s l).locked = true) (hver : r.ver = 1)
include hheard hstate hlocked hver

theorem exec_capabilityRecord_heard : exec (.capabilityRecord l cs) s = .next (checkCaps s l r) := by
  have hcounts : ¬((link s l).state ≠ 1 ∨ (link s l).locked = false ∨ r.ver ≠ 1) := by simp [hstate, hlocked, hver]
  show execCapabilityRecord l cs s = _
  simp only [execCapabilityRecord, hheard, if_neg hcounts]

theorem capabilityRecord_comesUp (hpass : trainFault s l r = none) :
    ActsOnLink (.capabilityRecord l cs) s l fun t => (link t l).state = 2 ∧ (link t l).caps = some r ∧
      (link t l).rxSeq = 0 ∧ ((∀ w ∈ (link s l).buf ++ (link s l).resend, w.cells = []) →
        (link t l).cr0 = 1024 ∧ (link t l).cr1 = 1024 ∧ (link t l).cr2 = 256) := by
  have hexec := exec_capabilityRecord_heard hheard hstate hlocked hver
  simp only [checkCaps, hpass] at hexec
  have hstanding := standing_linkUp s l r
  simp only [Link.standing, Prod.mk.injEq] at hstanding
  obtain ⟨hup, hcaps, hseq⟩ := hstanding
  refine ⟨_, hexec, ⟨hup, hcaps, hseq, fun hcells => ?credits⟩, onlyLink_linkUp ..⟩
  case credits =>
    rw [link_linkUp_of_no_cells s l r hcells]
    exact ⟨rfl, rfl, rfl⟩

theorem capabilityRecord_holdsLink {k : Nat} (hfail : trainFault s l r = some k) :
    ActsOnLink (.capabilityRecord l cs) s l fun t =>
      link t l = { link s l with state := 3, reason := k, caps := some r } := by
  have hexec := exec_capabilityRecord_heard hheard hstate hlocked hver
  simp only [checkCaps, hfail] at hexec
  exact ⟨_, hexec, (link_raiseD ..).trans (link_moveLink_same ..), onlyLink_raiseD_moveLink ..⟩

end

theorem trainingTimeout_due (hstate : (link s l).state = 1) (hlocked : (link s l).locked = false)
    (hdue : (link s l).since + usTicks 500000 ≤ s.prc) (sig : Bool) :
    ActsOnLink (.trainingTimeout l sig) s l fun t =>
      link t l = { link s l with state := 4, reason := if sig then 2 else 1 } :=
  ⟨_, congrArg Host.Outcome.next (if_neg (by simp [hstate, hlocked, hdue])), link_moveLink_same .., onlyLink_moveLink ..⟩

theorem exec_trainingTimeout_early (hearly : s.prc < (link s l).since + usTicks 500000) (sig : Bool) :
    exec (.trainingTimeout l sig) s = .next s :=
  congrArg Host.Outcome.next (if_pos (.inr (.inr hearly)))

/-! ### Loss of lock and the attempts after it (R280) -/

theorem lossOfLock_down (h : (link s l).state = 2) :
    ActsOnLink (.lossOfLock l) s l fun t => (link t l).state = 4 ∧ (link t l).reason = 2 ∧ (link t l).lost = true :=
  ⟨_, congrArg Host.Outcome.next (if_pos h), by simp, onlyLink_moveLink ..⟩

section
variable (hstate : (link s l).state = 4) (hlost : (link s l).lost = true)
include hstate hlost

theorem retrainAttempt_releases (hleft : (link s l).attempts < dget s 0x5800 9)
    (hdue : (link s l).since + usTicks 100000 ≤ s.prc) (peer : Bool) :
    ActsOnLink (.retrainAttempt l peer) s l fun t =>
      (link t l).state = 1 ∧ (link t l).attempts = (link s l).attempts + 1 ∧ (link t l).since = s.prc := by
  have hexec : exec (.retrainAttempt l peer) s =
      .next (release s l { link s l with attempts := (link s l).attempts + 1 }) :=
    congrArg Host.Outcome.next ((if_neg (by simp [hstate, hlost])).trans
      ((if_pos hleft).trans (if_neg (Nat.not_lt.2 hdue))))
  exact ⟨_, hexec, by simp, onlyLink_release ..⟩

theorem retrainAttempt_fences (hused : dget s 0x5800 9 ≤ (link s l).attempts) :
    ActsOnLink (.retrainAttempt l true) s l fun t => (link t l).state = 5 := by
  have hexec : exec (.retrainAttempt l true) s =
      .next (raiseD (moveLink s l { link s l with state := 5, lost := false, drilled := false }) (link s l).drilled
        0x0502 0xFF (pf 0 7 l ||| pf 8 4 (link s l).reason)) :=
    congrArg Host.Outcome.next ((if_neg (by simp [hstate, hlost])).trans
      ((if_neg (Nat.not_lt.2 hused)).trans (if_pos rfl)))
  exact ⟨_, hexec, by simp, onlyLink_raiseD_moveLink ..⟩

end

/-! ### Control (R279, R280, Table 8.11) -/

theorem linkFence_fences (hin : (link s l).state ≠ 0) (hopen : (link s l).state ≠ 5) :
    ActsOnLink (.linkFence l) s l fun t => link t l = { link s l with state := 5, lost := false } :=
  ⟨_, congrArg Host.Outcome.next (if_neg (by simp [ctlAllowed, hin, hopen])), link_moveLink_same ..,
    onlyLink_moveLink ..⟩

theorem linkUnfence_releases (hstate : (link s l).state = 5) (hserves : linkServes s l = true) :
    ActsOnLink (.linkUnfence l) s l fun t => (link t l).state = 1 ∧ (link t l).attempts = 0 :=
  ⟨_, congrArg Host.Outcome.next (if_neg (by simp [ctlAllowed, hstate, hserves])), by simp, onlyLink_release ..⟩

theorem linkRetrain_releases (hstate : (link s l).state = 2 ∨ (link s l).state = 3 ∨ (link s l).state = 4)
    (hserves : linkServes s l = true) :
    ActsOnLink (.linkRetrain l) s l fun t =>
      (link t l).state = 1 ∧ (link t l).attempts = 0 ∧ (link t l).since = s.prc := by
  have hallowed : ctlAllowed s l 3 = true := by simpa [ctlAllowed, hserves, or_assoc] using hstate
  exact ⟨_, congrArg Host.Outcome.next (if_neg (by simp [hallowed])), by simp, onlyLink_release ..⟩

end

/-! ## The exit map (R282) -/

/-- The number whose bits below n are the indices that a test leaves. -/
theorem bit_sum_two_pow (p : Nat → Bool) (n d : Nat) :
    bit ((List.range n).foldl (fun m k => if p k then m else m + 2 ^ k) 0) d = (decide (d < n) && !p d) := by
  induction n generalizing d with
  | zero => simp [bit]
  | succ n ih =>
    rw [List.range_succ, List.foldl_append, List.foldl_cons, List.foldl_nil]
    by_cases hp : p n = true
    · rw [if_pos hp, ih]
      by_cases hd : d = n
      · simp [hd, hp]
      · simp [show d < n + 1 ↔ d < n by omega]
    · rw [if_neg hp, bit_add_two_pow (by simp [ih]), ih]
      by_cases hd : d = n
      · simp [hd, hp]
      · simp [hd, show d < n + 1 ↔ d < n by omega]

theorem bit_exitBits (s : State) {d : Nat} (h : d < 24) : bit (exitBits s) d = !(upLinks s d).isEmpty := by
  rw [exitBits, bit_sum_two_pow (fun k => (upLinks s k).isEmpty)]
  simp [h]

/-- The map in force after the command, whether it was in force before or is published now. -/
theorem exitMapChange_publishes (s : State) : ∃ t, exec .exitMapChange s = .next t ∧ t.cores = s.cores ∧
    t.links.links = s.links.links ∧ t.links.exitMap = exitBits s := by
  by_cases h : exitBits s = s.links.exitMap
  · exact ⟨s, congrArg Host.Outcome.next (if_pos h), rfl, rfl, h.symm⟩
  · exact ⟨_, congrArg Host.Outcome.next (if_neg h), rfl, rfl, rfl⟩

/-! ## The statement -/

/-- Settles O37: each clause is what its command does to the link, and no command of a link touches another one. -/
theorem linkStates : Obligations.LinkStates := by
  refine ⟨fun l s => ⟨fun rtt h => linkTraining_locks h rtt, fun cs h => exec_capabilityRecord_unheard h,
    fun cs r hheard hstate hlocked hver => ?record, fun sig hstate hlocked => ?timeout, lossOfLock_down,
    fun peer hstate hlost => ?attempt, linkFence_fences, linkUnfence_releases, linkRetrain_releases⟩, fun s => ?exitMap⟩
  case record =>
    exact ⟨capabilityRecord_comesUp hheard hstate hlocked hver,
      fun k hfail => capabilityRecord_holdsLink hheard hstate hlocked hver hfail⟩
  case timeout =>
    exact ⟨fun hdue => trainingTimeout_due hstate hlocked hdue sig, fun hearly => exec_trainingTimeout_early hearly sig⟩
  case attempt =>
    refine ⟨fun hleft hdue => retrainAttempt_releases hstate hlost hleft hdue peer, fun hused hpeer => ?_⟩
    subst hpeer
    exact retrainAttempt_fences hstate hlost hused
  case exitMap =>
    obtain ⟨t, hexec, hcores, hlinks, hmap⟩ := exitMapChange_publishes s
    exact ⟨t, hexec, hcores, hlinks, fun d hd => bit_exitBits s hd, hmap⟩

end Sys2Proof.Machine

/-!
What the records of event rings and the completions of commands leave of the host dies (R291 to R331). A record goes out over a
queue pair as one more outbound operation: `Records` says that it changes outbound operations, event rings, logs and ports
alone. A completion settles commands besides: `Settles`. Both leave the state of every queue pair and of every ring. A command
that has been finished is done, whichever aborts are settled after it.
-/
namespace Sys2Proof.Machine

open Sys2Proof

/-! ## The first element that satisfies a test -/

section
variable {α : Type} {p q : α → Bool} {f : α → α} {l : List α}

theorem find?_replaceFirst_same {a : α} (ha : l.find? p = some a) (hnew : p (f a) = true) :
    (replaceFirst p f l).find? p = some (f a) := by
  induction l with
  | nil => cases ha
  | cons x xs ih =>
    by_cases hx : p x = true
    · rw [List.find?_cons_of_pos hx, Option.some_inj] at ha
      subst ha
      simp [replaceFirst, hx, hnew]
    · rw [List.find?_cons_of_neg hx] at ha
      simp [replaceFirst, hx, ih ha]

theorem find?_replaceFirst_other (h : ∀ x, p x = true → q x = false ∧ q (f x) = false) :
    (replaceFirst p f l).find? q = l.find? q := by
  induction l with
  | nil => rfl
  | cons x xs ih =>
    by_cases hx : p x = true
    · simp [replaceFirst, hx, h x hx]
    · simp [replaceFirst, hx, ih, List.find?_cons]

/-- The replaced element is the only one that satisfies a test which no element satisfied before. -/
theorem find?_replaceFirst_new {a : α} (ha : l.find? p = some a) (hno : ∀ x ∈ l, q x = false) (hnew : q (f a) = true) :
    (replaceFirst p f l).find? q = some (f a) := by
  induction l with
  | nil => cases ha
  | cons x xs ih =>
    by_cases hx : p x = true
    · rw [List.find?_cons_of_pos hx, Option.some_inj] at ha
      subst ha
      simp [replaceFirst, hx, hnew]
    · rw [List.find?_cons_of_neg hx] at ha
      simp [replaceFirst, hx, hno x (List.mem_cons_self ..), ih ha fun y hy => hno y (List.mem_cons_of_mem _ hy)]

end

/-! ## Queue pairs -/

section
variable {s : State} {h : Nat} {qpn : BitVec 24} {q : Qp}

theorem host_of_findQp (hq : findQp s h qpn = some q) : q.host = h ∧ q.qpn = qpn := by
  simpa using List.find?_some hq

theorem findQp_of_qps {t : State} (hqps : t.host.qps = s.host.qps) : findQp t h qpn = findQp s h qpn := by
  rw [findQp, hqps, ← findQp]

theorem findQp_modQp (hq : findQp s h qpn = some q) {f : Qp → Qp} (hhost : (f q).host = q.host)
    (hqpn : (f q).qpn = q.qpn) : findQp (modQp s h qpn f) h qpn = some (f q) := by
  refine find?_replaceFirst_same hq ?_
  rw [hhost, hqpn]
  simp [host_of_findQp hq]

theorem findQp_dropQp : findQp (dropQp s h qpn) h qpn = none := by
  simp only [findQp, dropQp, List.find?_eq_none, List.mem_filter]
  rintro q ⟨-, hq⟩ hkey
  simp [hkey] at hq

theorem onlyEvents_modQp (f : Qp → Qp) : OnlyEvents s (modQp s h qpn f) := rfl

theorem onlyEvents_dropQp : OnlyEvents s (dropQp s h qpn) := rfl

theorem markedBy_unmarked : markedBy s h qpn false = s := by
  unfold markedBy
  split
  · contradiction
  · rfl

end

/-- A queue pair without its outbound operations. -/
def Qp.bare (q : Qp) : Qp := { q with outs := [] }

/-! ## Rings -/

section
variable (s : State) (r : Nat)

@[simp] theorem ering_setEring_same (e : ERing) : ering (setEring s r e) r = e := agetD_aput_same ..

theorem ering_setEring_other {r q : Nat} (h : q ≠ r) (e : ERing) : ering (setEring s r e) q = ering s q :=
  agetD_aput_other h ..

@[simp] theorem cring_setCring_same (c : CRing) : cring (setCring s r c) r = c := agetD_aput_same ..

theorem onlyEvents_setCring (c : CRing) : OnlyEvents s (setCring s r c) := rfl

end

/-! ## What a completion leaves -/

/-- The counter of records not kept, which an event may count up (R490). -/
def notKept (index sub : Nat) : Prop := cairnSlot index sub = cairnSlot 0x9000 6

/-- Commands may be settled and records written; of the host dies nothing else changes, and the ports send more. -/
structure Settles (s t : State) : Prop where
  events : OnlyEvents s t
  host : t.host = { s.host with qps := t.host.qps, erings := t.host.erings, cmds := t.host.cmds }
  qps : t.host.qps.map Qp.bare = s.host.qps.map Qp.bare
  states : ∀ r, (ering t r).state = (ering s r).state
  out : s.out <+: t.out
  entries : ∀ index sub, ¬notKept index sub → dget t index sub = dget s index sub

/-- Records are written; no command is settled. -/
structure Records (s t : State) : Prop extends Settles s t where
  cmds : t.host.cmds = s.host.cmds

section
variable {s t u : State}

theorem Settles.refl (s : State) : Settles s s := ⟨rfl, rfl, rfl, fun _ => rfl, List.prefix_refl _, fun _ _ _ => rfl⟩

theorem Settles.trans (h : Settles s t) (g : Settles t u) : Settles s u where
  events := h.events.trans g.events
  host := by rw [g.host, h.host]
  qps := g.qps.trans h.qps
  states r := (g.states r).trans (h.states r)
  out := h.out.trans g.out
  entries i j hij := (g.entries i j hij).trans (h.entries i j hij)

theorem Records.refl (s : State) : Records s s := ⟨.refl s, rfl⟩

theorem Records.trans (h : Records s t) (g : Records t u) : Records s u :=
  ⟨h.toSettles.trans g.toSettles, g.cmds.trans h.cmds⟩

theorem Settles.foldl {α : Type} {f : State → α → State} (hf : ∀ s a, Settles s (f s a)) (l : List α) (s : State) :
    Settles s (l.foldl f s) := by
  induction l generalizing s with
  | nil => exact .refl s
  | cons a l ih => exact (hf s a).trans (ih _)

theorem Records.foldl {α : Type} {f : State → α → State} (hf : ∀ s a, Records s (f s a)) (l : List α) (s : State) :
    Records s (l.foldl f s) := by
  induction l generalizing s with
  | nil => exact .refl s
  | cons a l ih => exact (hf s a).trans (ih _)

section
variable (h : Settles s t)
include h

theorem Settles.keepsMem : KeepsMem s t := h.events.keepsMem

theorem Settles.crings : t.host.crings = s.host.crings := by rw [h.host]

theorem Settles.ins : t.host.ins = s.host.ins := by rw [h.host]

theorem Settles.groups : t.host.groups = s.host.groups := by rw [h.host]

theorem Settles.ports : t.host.ports = s.host.ports := by rw [h.host]

theorem Settles.cring (r : Nat) : Machine.cring t r = Machine.cring s r := by
  rw [Machine.cring, h.crings, ← Machine.cring]

/-- A queue pair keeps all but its outbound operations. -/
theorem Settles.findQp {n : Nat} {qpn : BitVec 24} {q : Qp} (hq : findQp s n qpn = some q) :
    ∃ q', Machine.findQp t n qpn = some q' ∧ q'.bare = q.bare := by
  have hfind (u : State) : (Machine.findQp u n qpn).map Qp.bare =
      (u.host.qps.map Qp.bare).find? fun q => q.host == n && q.qpn == qpn := by
    rw [List.find?_map]; rfl
  have hbare : (Machine.findQp t n qpn).map Qp.bare = some q.bare := by rw [hfind, h.qps, ← hfind, hq]; rfl
  exact Option.map_eq_some_iff.1 hbare

end

end

/-! ### Records -/

section
variable (s : State) (r : Nat) (e : Ev)

theorem records_emit (o : Out) : Records s (emit s o) :=
  ⟨⟨rfl, rfl, rfl, fun _ => rfl, List.prefix_append .., fun _ _ _ => rfl⟩, rfl⟩

theorem records_qpPush (h : Nat) (qpn : BitVec 24) (o : OutOp) : Records s (qpPush s h qpn o) :=
  ⟨⟨rfl, rfl, map_replaceFirst fun _ _ => rfl, fun _ => rfl, List.prefix_refl _, fun _ _ _ => rfl⟩, rfl⟩

variable {s r} in
theorem records_setEring {x : ERing} (h : x.state = (ering s r).state) : Records s (setEring s r x) := by
  refine ⟨⟨rfl, rfl, rfl, fun q => ?states, List.prefix_refl _, fun _ _ _ => rfl⟩, rfl⟩
  case states =>
    by_cases hq : q = r
    · subst hq; rw [ering_setEring_same, h]
    · rw [ering_setEring_other s hq]

theorem records_dbump_notKept : Records s (dbump s 0x9000 6 31 0) := by
  simp only [dbump]
  split
  · exact ⟨⟨rfl, rfl, rfl, fun _ => rfl, List.prefix_refl _, fun _ _ h => dget_dset_other s _ h⟩, rfl⟩
  · exact .refl s

theorem records_mgmt (m : MgmtSt) : Records s { s with mgmt := m } :=
  ⟨⟨rfl, rfl, rfl, fun _ => rfl, List.prefix_refl _, fun _ _ _ => rfl⟩, rfl⟩

theorem records_logEv : Records s (logEv s e) := by
  simp only [logEv]
  split
  · split
    · exact records_mgmt ..
    · exact .trans (records_mgmt ..) (records_dbump_notKept _)
  · exact records_mgmt ..

theorem records_eringSend (i : Word) : Records s (eringSend s r i e) := (records_emit ..).trans (records_qpPush ..)

theorem records_eringWrite : Records s (eringWrite s r e) :=
  (records_eringSend s r e _).trans (records_setEring ((records_eringSend s r e _).states r).symm)

theorem records_eringPut : Records s (eringPut s r e) := by
  simp only [eringPut]
  split
  · exact records_eringWrite ..
  · exact records_setEring rfl

theorem records_eringAsync : Records s (eringAsync s r e) := by
  simp only [eringAsync]
  split
  · exact records_eringPut ..
  · exact records_setEring rfl

theorem records_raiseEv : Records s (raiseEv s e) := by
  refine (records_logEv s e).trans (.foldl (fun t r => ?_) _ _)
  split
  · exact records_eringAsync ..
  · exact .refl t

theorem records_raise (code part : Nat) (p : BitVec 128) : Records s (raise s code part p) := records_raiseEv ..

theorem records_reservedAccess (ep part : Nat) (a : Word) : Records s (reservedAccess s ep part a) := by
  unfold reservedAccess
  split
  · exact records_raise ..
  · exact .refl s

theorem records_eringFlush (n : Nat) : Records s (eringFlush n s r) := by
  induction n generalizing s with
  | zero => exact .refl s
  | succ n ih =>
    simp only [eringFlush]
    split
    · split
      case h_1 =>
        refine .trans (.trans ?_ (records_eringWrite ..)) (ih _)
        exact records_setEring rfl
      case h_2 =>
        split
        case h_1 =>
          refine (records_logEv s _).trans (.trans (records_setEring ?_) (records_eringWrite ..))
          exact ((records_logEv s _).states r).symm
        case h_2 => exact .refl s
    · exact .refl s

end

/-! ### Commands -/

section
variable {s : State} {r i : Nat} {c : Cmd}

theorem ring_of_findCmd (hc : findCmd s r i = some c) : c.ring = r ∧ c.idx = i := by
  simpa using List.find?_some hc

theorem findCmd_of_cmds {t : State} (h : t.host.cmds = s.host.cmds) : findCmd t r i = findCmd s r i := by
  rw [findCmd, h, ← findCmd]

theorem findCmd_modCmd_same (hc : findCmd s r i = some c) {f : Cmd → Cmd} (hring : (f c).ring = c.ring)
    (hidx : (f c).idx = c.idx) : findCmd (modCmd s r i f) r i = some (f c) := by
  refine find?_replaceFirst_same hc ?_
  rw [hring, hidx]
  simp [ring_of_findCmd hc]

theorem findCmd_modCmd_other {q j : Nat} (h : ¬(q = r ∧ j = i)) {f : Cmd → Cmd}
    (hf : ∀ c, (f c).ring = c.ring ∧ (f c).idx = c.idx) : findCmd (modCmd s q j f) r i = findCmd s r i := by
  refine find?_replaceFirst_other fun c hc => ?_
  rw [(hf c).1, (hf c).2]
  simp only [Bool.and_eq_true, beq_iff_eq, Bool.and_eq_false_iff, beq_eq_false_iff_ne] at hc ⊢
  omega

theorem settles_modCmd (f : Cmd → Cmd) : Settles s (modCmd s r i f) :=
  ⟨rfl, rfl, rfl, fun _ => rfl, List.prefix_refl _, fun _ _ _ => rfl⟩

theorem settles_putAborts (xs : List (Nat × Nat)) : Settles s (putAborts s xs) := by
  induction xs generalizing s with
  | nil => exact .refl s
  | cons x xs ih =>
    simp only [putAborts]
    split
    · exact (settles_modCmd ..).trans ((records_eringPut ..).toSettles.trans ih)
    · exact ih

theorem settles_finishCmd (cstat : Nat) : Settles s (finishCmd s r i cstat) := by
  unfold finishCmd
  split
  · exact .refl s
  · split
    · exact .refl s
    · exact (settles_modCmd ..).trans ((records_eringPut ..).toSettles.trans (settles_putAborts _))

theorem settles_copyPart (ok : Bool) : Settles s (copyPart s r i ok) := by
  unfold copyPart
  split
  · split
    · dsimp only
      split
      · exact (settles_modCmd ..).trans (settles_finishCmd _)
      · exact settles_modCmd ..
    · exact .refl s
  · exact .refl s

/-- The command is done. -/
def CmdDone (s : State) (r i : Nat) : Prop := ∃ c, findCmd s r i = some c ∧ c.st = .done

theorem CmdDone.of_cmds {t : State} (h : CmdDone s r i) (hcmds : t.host.cmds = s.host.cmds) : CmdDone t r i := by
  rwa [CmdDone, findCmd_of_cmds hcmds]

/-- A command that is done stays so while another one, or itself, is settled. -/
theorem CmdDone.modCmd (h : CmdDone s r i) (q j : Nat) : CmdDone (modCmd s q j fun c => { c with st := .done }) r i := by
  obtain ⟨c, hc, hdone⟩ := h
  by_cases heq : q = r ∧ j = i
  · obtain ⟨rfl, rfl⟩ := heq
    exact ⟨_, findCmd_modCmd_same hc rfl rfl, rfl⟩
  · refine ⟨c, ?_, hdone⟩
    rw [findCmd_modCmd_other heq, hc]
    exact fun _ => ⟨rfl, rfl⟩

theorem CmdDone.putAborts (h : CmdDone s r i) (xs : List (Nat × Nat)) : CmdDone (putAborts s xs) r i := by
  induction xs generalizing s with
  | nil => exact h
  | cons x xs ih =>
    simp only [Machine.putAborts]
    split
    · exact ih ((h.modCmd ..).of_cmds (records_eringPut ..).cmds)
    · exact ih h

/-- A command that is finished is done (R322). -/
theorem cmdDone_finishCmd (hc : findCmd s r i = some c) (cstat : Nat) : CmdDone (finishCmd s r i cstat) r i := by
  simp only [finishCmd, hc]
  split
  case isTrue hdone => exact ⟨c, hc, hdone⟩
  case isFalse =>
    have hmod : CmdDone (modCmd s r i fun c => { c with st := .done, left := [] }) r i :=
      ⟨_, findCmd_modCmd_same hc rfl rfl, rfl⟩
    exact (hmod.of_cmds (records_eringPut ..).cmds).putAborts _

/-- The last part of a copy or query finishes it (R314, R319). -/
theorem cmdDone_copyPart (hc : findCmd s r i = some c) (hst : c.st = .started) (hlast : c.left.length = 1) (ok : Bool) :
    CmdDone (copyPart s r i ok) r i := by
  obtain ⟨x, hleft⟩ := List.length_eq_one_iff.1 hlast
  simp only [copyPart, hc, hst, hleft, List.drop_one, List.tail_cons, List.isEmpty_nil, if_true]
  exact cmdDone_finishCmd (findCmd_modCmd_same hc rfl rfl) _

end

end Sys2Proof.Machine

/-!
Accesses to panel addresses by a host die (R314, R315, R239, R299). What an access reads and writes does not depend on the state
of the host dies, so that a command which has started, or a queue pair which has gone on, meets the panel as it was. Without a
drill a read of clean lines reports nothing.
-/
namespace Sys2Proof.Machine

open Sys2Proof

/-- The state with other host dies. -/
def State.withHost (s : State) (x : HostSt) : State := { s with host := x }

section
variable (s : State) (x : HostSt)

theorem modQp_eq_withHost (h : Nat) (qpn : BitVec 24) (f : Qp → Qp) : modQp s h qpn f = s.withHost (modQp s h qpn f).host := rfl

theorem resolve_withHost (part : Option Nat) (a : Word) : resolve (s.withHost x) part a = resolve s part a := rfl

theorem destRead_withHost (own req : Nat) (d : Dest) (n : Nat) :
    destRead (s.withHost x) own req d n = destRead s own req d n := rfl

theorem answers_withHost (ep : Nat) :
    (absent (s.withHost x) ep || absorbs (s.withHost x) ep) = (absent s ep || absorbs s ep) := rfl

theorem spmWrite_withHost (c off : Nat) (bs : List Byte) (narrow : Bool) :
    spmWrite (s.withHost x) c off bs narrow = (spmWrite s c off bs narrow).withHost x := by
  simp only [spmWrite]
  split
  · rfl
  · split <;> rfl

variable {s} in
theorem destWrite_withHost {own req : Nat} {d : Dest} {bs : List Byte} {u : State} (hu : destWrite s own req d bs = some u) :
    destWrite (s.withHost x) own req d bs = some (u.withHost x) := by
  have hhbm (m off : Nat) : hbmWrite (s.withHost x) m off bs = (hbmWrite s m off bs).withHost x := rfl
  have hok (m req off n : Nat) : hbmOk (s.withHost x) m req off n = hbmOk s m req off n := rfl
  simp only [destWrite, answers_withHost, hok, hhbm, spmWrite_withHost] at hu ⊢
  split at hu
  · cases hu
  case isFalse hansw =>
    rw [if_neg hansw]
    split at hu
    case h_1 => cases hu
    case h_2 | h_3 =>
      rw [Option.ite_none_right_eq_some] at hu ⊢
      exact ⟨hu.1, by rw [Option.some_inj.1 hu.2]⟩
    case h_4 => cases hu

theorem panelRead_withHost (fuel : Nat) (part : Option Nat) (a : Word) (n : Nat) :
    panelRead fuel (s.withHost x) part a n = panelRead fuel s part a n := by
  induction fuel generalizing a n with
  | zero => rfl
  | succ fuel ih =>
    simp only [panelRead, resolve_withHost, destRead_withHost, ih]
    rfl

theorem readRange_withHost (part : Option Nat) (a : Word) (n : Nat) :
    readRange (s.withHost x) part a n = readRange s part a n := panelRead_withHost ..

variable {s} in
theorem panelWrite_withHost {fuel : Nat} {part : Option Nat} {a : Word} {bs : List Byte}
    (h : (panelWrite fuel s part a bs).2 = true) :
    panelWrite fuel (s.withHost x) part a bs = ((panelWrite fuel s part a bs).1.withHost x, true) := by
  induction fuel generalizing s a bs with
  | zero => rfl
  | succ fuel ih =>
    have hhere (d : Dest) : d.here (s.withHost x) = d.here s := rfl
    simp only [panelWrite, resolve_withHost, hhere] at h ⊢
    by_cases hbs : bs.isEmpty = true
    · simp [hbs]
    rw [if_neg hbs] at h ⊢
    rw [if_neg hbs]
    cases hd : resolve s part a with
    | none => simp [hd] at h
    | some d =>
      simp only [hd] at h ⊢
      by_cases hplace : d.here s = true
      · cases hw : destWrite s 16 0 d (bs.take (min bs.length (sideRoom (.rem a)))) with
        | none => simp [hplace, hw] at h
        | some t =>
          simp only [hplace, hw, destWrite_withHost x hw, Bool.not_true, Bool.false_eq_true, if_false] at h ⊢
          exact ih h
      · simp [hplace] at h

variable {s} in
theorem writeRange_withHost {part : Option Nat} {a : Word} {bs : List Byte} (h : (writeRange s part a bs).2 = true) :
    writeRange (s.withHost x) part a bs = ((writeRange s part a bs).1.withHost x, true) := panelWrite_withHost x h

end

/-! ## Reads of clean lines (R239) -/

section
variable {s : State} (hdrill : ∀ x, drillWith s 7 x = false)
include hdrill

theorem destFinding_clean (d : Dest) (n : Nat) : destFinding s d n .clean = .clean := by
  have hfirst (k : Nat) : eccFirst k .clean = .clean := ite_self _
  simp only [destFinding, siteObs, hdrill, hfirst]
  split <;> rfl

theorem destObs_clean (d : Dest) (n : Nat) : destObs s d n .clean = s := by
  have hfirst (k : Nat) : eccFirst k .clean = .clean := ite_self _
  simp only [destObs, hfirst, hbmObs, hdrill]
  split <;> rfl

theorem panelObs_clean {fuel : Nat} {part : Option Nat} {a : Word} {n : Nat} {bs : List Byte}
    (h : panelRead fuel s part a n = some bs) : panelObs fuel s part a n .clean = (s, false) := by
  induction fuel generalizing a n bs with
  | zero => rfl
  | succ fuel ih =>
    simp only [panelRead] at h
    simp only [panelObs]
    by_cases hn : n = 0
    · rw [if_pos hn]
    rw [if_neg hn] at h ⊢
    cases hd : resolve s part a with
    | none => simp [hd] at h
    | some d =>
      simp only [hd] at h ⊢
      by_cases hplace : d.here s = true
      · cases hr : destRead s 16 0 d (min n (sideRoom (.rem a))) with
        | none => simp [hplace, hr] at h
        | some x =>
          have hansw : (absent s d.ep || absorbs s d.ep) = false := by
            rw [destRead, Option.ite_none_left_eq_some, Bool.not_eq_true] at hr
            exact hr.1
          simp only [hplace, hr, Bool.not_true, Bool.false_eq_true, if_false, Option.map_eq_some_iff] at h
          obtain ⟨y, hy, -⟩ := h
          have hback (k : Nat) : (if eccPos .clean < k then .clean else eccBack k .clean) = EccObs.clean := ite_self _
          simp [hplace, hansw, destFinding_clean hdrill, destObs_clean hdrill, eccLost, hback, ih hy]
      · simp [hplace] at h

theorem readRangeObs_clean {part : Option Nat} {a : Word} {n : Nat} {bs : List Byte} (h : readRange s part a n = some bs) :
    readRangeObs s part a n .clean = (s, some bs) := by
  simp [readRangeObs, panelObs_clean hdrill h, h]

end

end Sys2Proof.Machine

/-!
Connections, acknowledgements and rate of queue pairs (R291, R294 to R297, R314, R328): each command changes its queue pair as the
statement says, and what a queue pair in error does to its rings and commands are records and completions.
-/
namespace Sys2Proof.Machine

open Sys2Proof

/-! ## A queue pair in error (R328) -/

/-- Event rings stopped in state 2. -/
def stopRings (s : State) (rs : List Nat) : State := rs.foldl (fun t r => setEring t r { ering t r with state := 2 }) s

section
variable (s : State) (rs : List Nat)

theorem onlyEvents_stopRings : OnlyEvents s (stopRings s rs) := .foldl _ (fun _ _ => onlyEvents_setEring ..) _ _

theorem qps_stopRings : (stopRings s rs).host.qps = s.host.qps :=
  List.foldlRecOn (motive := fun t : State => t.host.qps = s.host.qps) _ _ rfl fun _ ht _ _ => ht

variable {s rs} in
theorem state_stopRings {r : Nat} (hr : r ∈ rs) : (ering (stopRings s rs) r).state = 2 := by
  have hkeep (t : State) (qs : List Nat) (ht : (ering t r).state = 2) : (ering (stopRings t qs) r).state = 2 := by
    refine List.foldlRecOn (motive := fun u => (ering u r).state = 2) _ _ ht fun u hu q _ => ?_
    by_cases hq : r = q
    · rw [hq, ering_setEring_same]
    · rw [ering_setEring_other u hq, hu]
  induction rs generalizing s with
  | nil => cases hr
  | cons q qs ih =>
    by_cases hq : r = q
    · subst hq
      exact hkeep _ qs (by rw [ering_setEring_same])
    · exact ih ((List.mem_cons.1 hr).resolve_left hq)

end

section
variable {s : State} {h : Nat} {qpn : BitVec 24} {q : Qp}

theorem records_recordKept (o : OutOp) : Records s (recordKept s o) := by
  unfold recordKept
  split
  · exact records_setEring rfl
  · exact .refl s

theorem settles_outLost (o : OutOp) : Settles s (outLost s o) := by
  unfold outLost
  split
  · exact .refl s
  · exact settles_copyPart _
  · exact settles_copyPart _

/-- The state once the queue pair is in error and its running rings have stopped. -/
def qpStopped (s : State) (h : Nat) (qpn : BitVec 24) : State :=
  stopRings (modQp s h qpn fun q => { q with st := .error, outs := [], retries := 0 }) (ringsOfQp s h qpn)

/-- What follows keeps records that were not acknowledged, raises the event and fails commands. -/
theorem settles_qpToError (hq : findQp s h qpn = some q) (hst : q.st ≠ .error) (syndrome : Nat) :
    Settles (qpStopped s h qpn) (qpToError s h qpn syndrome) := by
  simp only [qpToError, hq, if_neg hst]
  refine .trans (.trans (Records.foldl (fun _ => records_recordKept) q.outs _).toSettles ?_)
    (Settles.foldl (fun _ => settles_outLost) q.outs _)
  split
  · exact .refl _
  · exact (records_raise ..).toSettles

theorem onlyEvents_qpStopped : OnlyEvents s (qpStopped s h qpn) :=
  .trans (onlyEvents_modQp _) (onlyEvents_stopRings ..)

theorem onlyEvents_qpToError (syndrome : Nat) : OnlyEvents s (qpToError s h qpn syndrome) := by
  cases hq : findQp s h qpn with
  | none => simp only [qpToError, hq]; exact .refl s
  | some q =>
    by_cases hst : q.st = .error
    · simp only [qpToError, hq, if_pos hst]; exact .refl s
    · exact onlyEvents_qpStopped.trans (settles_qpToError hq hst syndrome).events

section
variable (hq : findQp s h qpn = some q) (hst : q.st ≠ .error) (syndrome : Nat)
include hq hst

theorem findQp_qpToError : ∃ q', findQp (qpToError s h qpn syndrome) h qpn = some q' ∧ q'.st = .error := by
  have hstopped : findQp (qpStopped s h qpn) h qpn = some { q with st := .error, outs := [], retries := 0 } :=
    (findQp_of_qps (qps_stopRings ..)).trans (findQp_modQp hq rfl rfl)
  obtain ⟨q', hq', hbare⟩ := (settles_qpToError hq hst syndrome).findQp hstopped
  exact ⟨q', hq', congrArg Qp.st hbare⟩

theorem rings_qpToError : ∀ r ∈ ringsOfQp s h qpn, (ering (qpToError s h qpn syndrome) r).state = 2 :=
  fun r hr => ((settles_qpToError hq hst syndrome).states r).trans (state_stopRings hr)

end

end

/-! ## Commands of one queue pair -/

/-- The instruction completes and leaves a queue pair of the given contents, or none; cores and memories stay. -/
def GivesQp (i : Instr) (s : State) (h : Nat) (qpn : BitVec 24) (q : Option Qp) : Prop :=
  ∃ t, exec i s = .next t ∧ findQp t h qpn = q ∧ t.cores = s.cores ∧ KeepsMem s t

theorem OnlyEvents.givesQp {i : Instr} {s t : State} {h : Nat} {qpn : BitVec 24} {q : Option Qp} (ht : OnlyEvents s t)
    (hi : exec i s = .next t) (hq : findQp t h qpn = q) : GivesQp i s h qpn q :=
  ⟨t, hi, hq, ht.cores, ht.keepsMem⟩

section
variable {s : State} {h : HostNo} {qpn : BitVec 24} {q : Qp} (hq : findQp s h qpn = some q)
include hq

/-! ### Connection set-up (R294, R295) -/

theorem cmRtu_gives (hst : q.st = .opening) : GivesQp (.cmRtu h qpn) s h qpn (some { q with st := .ready }) := by
  refine (onlyEvents_modQp _).givesQp rfl ?_
  rw [findQp_modQp hq (by split <;> rfl) (by split <;> rfl), if_pos hst]

theorem cmRej_gives (hst : q.st = .opening) : GivesQp (.cmRej h qpn) s h qpn none := by
  have hexec : exec (.cmRej h qpn) s = .next (dropQp s h qpn) := by
    show execCmRej h qpn s = _
    simp only [execCmRej, hq, if_pos hst]
  exact onlyEvents_dropQp.givesQp hexec findQp_dropQp

theorem cmDreq_gives : GivesQp (.cmDreq h qpn) s h qpn none := by
  have hexec : exec (.cmDreq h qpn) s = .next (emit (dropQp (qpToError s h qpn 0) h qpn) (.cm h qpn cmDrepKind [])) := by
    show execCmDreq h qpn s = _
    simp only [execCmDreq, hq]
  exact (((onlyEvents_qpToError 0).trans onlyEvents_dropQp).trans (onlyEvents_emit ..)).givesQp hexec
    (findQp_dropQp (s := qpToError s h qpn 0))

theorem cmDrep_gives (hst : q.st = .error) : GivesQp (.cmDrep h qpn) s h qpn none := by
  have hexec : exec (.cmDrep h qpn) s = .next (dropQp s h qpn) := by
    show execCmDrep h qpn s = _
    simp only [execCmDrep, hq, if_pos hst]
  exact onlyEvents_dropQp.givesQp hexec findQp_dropQp

/-! ### Send rate (R297) -/

theorem cnpReceived_gives :
    GivesQp (.cnpReceived h qpn) s h qpn (some { q with rate := q.rate / 2, lastCnp := s.prc }) :=
  (onlyEvents_modQp _).givesQp rfl (findQp_modQp hq rfl rfl)

theorem rateIncrease_gives (hlow : q.rate < fullRate) (hdue : q.lastCnp + usTicks 55 ≤ s.prc) :
    GivesQp (.rateIncrease h qpn) s h qpn
      (some { q with rate := min fullRate (q.rate + fullRate / 20), lastCnp := s.prc }) := by
  refine (onlyEvents_modQp _).givesQp rfl ?_
  rw [findQp_modQp hq (by split <;> rfl) (by split <;> rfl), if_pos ⟨hlow, hdue⟩]

/-! ### The oldest outbound operation (R296, R314) -/

section
variable {o : OutOp} {os : List OutOp} (hos : q.outs = o :: os)
include hos

theorem findQp_popOut : findQp (popOut s h qpn) h qpn = some { q with outs := os, retries := 0 } := by
  rw [popOut, findQp_modQp hq rfl rfl, hos]
  rfl

theorem rdmaAck_event {r : Nat} {i : Word} {e : Ev} (ho : o.for_ = .event r i e) :
    GivesQp (.rdmaAck h qpn) s h qpn (some { q with outs := os, retries := 0 }) := by
  have hexec : exec (.rdmaAck h qpn) s = .next (popOut s h qpn) := by
    show execRdmaAck h qpn s = _
    simp only [execRdmaAck, hq, hos, ho]
  exact (onlyEvents_modQp _).givesQp hexec (findQp_popOut hq hos)

theorem rdmaAck_command {r i : Nat} {c : Cmd} (ho : o.for_ = .cmdWrite r i) (hc : findCmd s r i = some c)
    (hst : c.st = .started) (hlast : c.left.length = 1) : ∃ t, exec (.rdmaAck h qpn) s = .next t ∧ CmdDone t r i := by
  refine ⟨copyPart (popOut s h qpn) r i true, ?_, cmdDone_copyPart (s := popOut s h qpn) hc hst hlast true⟩
  show execRdmaAck h qpn s = _
  simp only [execRdmaAck, hq, hos, ho]

theorem rdmaReadResponse_writes {r i : Nat} {c : Cmd} {dst : Word} {data : List Byte} (ho : o.for_ = .cmdRead r i dst)
    (hlen : data.length = readLen o.pkt) (hc : findCmd s r i = some c) (hlive : c.aborted = false)
    (hw : (writeRange s (some (dget s (0x6880 + r) 1)) dst data).2 = true) :
    ∃ t, exec (.rdmaReadResponse ⟨h, false⟩ qpn data) s = .next t ∧
      t.spm = (writeRange s (some (dget s (0x6880 + r) 1)) dst data).1.spm ∧
      t.hbm = (writeRange s (some (dget s (0x6880 + r) 1)) dst data).1.hbm := by
  have hpop : findCmd (popOut s h qpn) r i = some c := hc
  have hpart : dget (popOut s h qpn) (0x6880 + r) 1 = dget s (0x6880 + r) 1 := rfl
  have hwrite := writeRange_withHost (popOut s h qpn).host hw
  rw [popOut, ← modQp_eq_withHost, ← popOut] at hwrite
  refine ⟨copyPart ((writeRange s (some (dget s (0x6880 + r) 1)) dst data).1.withHost (popOut s h qpn).host) r i true, ?_, ?_⟩
  case refine_1 =>
    show execRdmaReadResponse ⟨h, false⟩ qpn data s = _
    simp [execRdmaReadResponse, markedBy_unmarked, hq, hos, ho, hlen, hpop, hlive, hpart, hwrite]
  case refine_2 =>
    obtain ⟨hspm, hhbm, -⟩ := (settles_copyPart (s := (writeRange s _ dst data).1.withHost _) (r := r) (i := i) true).keepsMem
    exact ⟨hspm, hhbm⟩

section
variable (hdue : o.since + ackTicks q ≤ s.prc)
include hdue

theorem ackTimeout_resends (hleft : q.retries < q.retryMax) : ∃ t, exec (.ackTimeout h qpn) s = .next t ∧
    t.out = s.out ++ [o.pkt] ∧
    findQp t h qpn = some { q with retries := q.retries + 1, outs := { o with since := s.prc } :: os } := by
  refine ⟨emit (modQp s h qpn fun q => { q with retries := q.retries + 1, outs := { o with since := s.prc } :: os }) o.pkt,
    ?_, rfl, findQp_modQp hq rfl rfl⟩
  show execAckTimeout h qpn s = _
  simp only [execAckTimeout, hq, hos, if_neg (Nat.not_lt.2 hdue), if_pos hleft]

theorem ackTimeout_fails (hused : q.retryMax ≤ q.retries) (hst : q.st ≠ .error) :
    ∃ t q', exec (.ackTimeout h qpn) s = .next t ∧ findQp t h qpn = some q' ∧ q'.st = .error := by
  obtain ⟨q', hq', herr⟩ := findQp_qpToError hq hst 0
  refine ⟨_, q', ?_, hq', herr⟩
  show execAckTimeout h qpn s = _
  simp only [execAckTimeout, hq, hos, if_neg (Nat.not_lt.2 hdue), if_neg (Nat.not_lt.2 hused)]

end

theorem exec_ackTimeout_early (hearly : s.prc < o.since + ackTicks q) : exec (.ackTimeout h qpn) s = .next s := by
  show execAckTimeout h qpn s = _
  simp only [execAckTimeout, hq, hos, if_pos hearly]

end

end

/-! ## Connection requests (R294) -/

section
variable {port : PortNo} {ver part : Byte} {ip : Ip} {s : State} (hup : dget s (0x6810 + port) 2 ≠ 0)
include hup

theorem cmReq_opens (hpass : rejReason s (port.val / 2) ver.toNat part.toNat ip = none) :
    ∃ t q, exec (.cmReq port ver part ip) s = .next t ∧ t.host.qps = s.host.qps ++ [q] ∧ q.st = .opening ∧
      q.host = port.val / 2 ∧ q.part = part.toNat ∧ q.rate = fullRate ∧
      t.out = s.out ++ [.cm (port.val / 2) q.qpn 2 [16, 16]] := by
  have hexec : exec (.cmReq port ver part ip) s = execCmReq port ver part ip s := rfl
  simp only [execCmReq, if_neg hup, hpass] at hexec
  exact ⟨_, _, hexec, rfl, rfl, rfl, rfl, rfl, rfl⟩

theorem cmReq_rejects {k : Nat} (hfail : rejReason s (port.val / 2) ver.toNat part.toNat ip = some k) :
    exec (.cmReq port ver part ip) s = .next { s with out := s.out ++ [.cm (port.val / 2) 0 4 [BitVec.ofNat 8 k]] } := by
  show execCmReq port ver part ip s = _
  simp only [execCmReq, if_neg hup, hfail]
  rfl

end

/-! ## Ports (R291) -/

section
variable (s : State) (port : PortNo)

theorem onlyEvents_host (x : HostSt) : OnlyEvents s { s with host := x } := rfl

theorem onlyEvents_setPort (up : Bool) : OnlyEvents s (setPort s port up) := by
  unfold setPort
  split
  · exact .refl s
  · exact (onlyEvents_dset ..).trans (onlyEvents_raise ..)

/-- A port's entries other than its state stay while it goes up or down. -/
theorem dget_setPort (up : Bool) {sub : Nat} (hsub : sub < 256) :
    dget (setPort s port up) (0x6810 + port) sub = if sub = 2 then boolBit up else dget s (0x6810 + port) sub := by
  have hkept : ¬notKept (0x6810 + port) sub := by simp only [notKept, cairnSlot]; omega
  unfold setPort
  split
  case isTrue hsame =>
    split
    case isTrue h2 => rw [h2, hsame]
    case isFalse => rfl
  case isFalse =>
    rw [(records_raise ..).entries _ _ hkept]
    split
    case isTrue h2 => rw [h2, dget_dset_same]
    case isFalse h2 => exact dget_dset_other s _ (by simp only [cairnSlot]; omega)

theorem portState_holds (up : Bool) : ∃ t, exec (.portState port up) s = .next t ∧
    dget t (0x6810 + port) 2 = (if up then 1 else 0) ∧ OnlyEvents s t :=
  ⟨_, rfl, dget_setPort _ port up (by decide), (onlyEvents_host s _).trans (onlyEvents_setPort _ port up)⟩

theorem portCfg_setPort (up : Bool) : portCfg (setPort s port up) port = portCfg s port := by
  simp [portCfg, dget_setPort]

theorem portRestart_holds : ∃ t, exec (.portRestart port) s = .next t ∧ dget t (0x6810 + port) 2 = 0 ∧ OnlyEvents s t ∧
    aget port t.host.ports = some (portCfg s port) := by
  refine ⟨_, rfl, dget_setPort s port false (by decide), (onlyEvents_setPort s port false).trans (onlyEvents_host _ _), ?_⟩
  rw [← portCfg_setPort s port false]
  exact aget_aput_same ..

end

/-! ## The statement -/

/-- Settles O40: each clause is what its command does to the queue pair or the port. -/
theorem queuePairs : Obligations.QueuePairs := by
  refine ⟨fun port ver part ip s hup => ⟨cmReq_opens hup, fun k => cmReq_rejects hup⟩, fun h qpn s q hq => ?pair,
    fun port s => ⟨portState_holds s port, portRestart_holds s port⟩⟩
  refine ⟨fun hst => ⟨cmRtu_gives hq hst, cmRej_gives hq hst⟩, cmDreq_gives hq, cmDrep_gives hq, cnpReceived_gives hq,
    rateIncrease_gives hq, fun o os hos => ?oldest, fun b hst => ?error⟩
  case oldest =>
    refine ⟨fun r i e => rdmaAck_event hq hos, fun r i c ho hc hst hlast => ?ack,
      fun r i c dst data => rdmaReadResponse_writes hq hos,
      ackTimeout_resends hq hos, ackTimeout_fails hq hos, exec_ackTimeout_early hq hos⟩
    obtain ⟨t, hexec, c', hc', hdone⟩ := rdmaAck_command hq hos ho hc hst hlast
    exact ⟨t, c', hexec, hc', hdone⟩
  case error =>
    obtain ⟨q', hq', herr⟩ := findQp_qpToError hq hst b.toNat
    exact ⟨_, q', rfl, hq', herr, rings_qpToError hq hst b.toNat⟩

end Sys2Proof.Machine

/-!
Command rings and event rings as the host sees them (R305, R307, R308, R310, R325, R328): what a tail write and a consumer write
do to a ring, and its enabling by base-camp firmware. Where no command ring waits in state 3, an event ring that goes on wakes
none.
-/
namespace Sys2Proof.Machine

open Sys2Proof

/-! ## Tail writes (R307, R310) -/

section
variable {s : State} {r : Nat} {rec_ : List Byte}

/-- A record that passes its checks, and is no abort and no query, waits in its ring. -/
theorem acceptRec_queues (hcheck : checkRec s r rec_ = 0) (habort : cmdOp rec_ ≠ 8) (hquery : cmdOp rec_ ≠ 9) :
    acceptRec s r rec_ = addCmd s r rec_ := by
  simp [acceptRec, hcheck, habort, hquery]

theorem placesNeeded_queued (hcheck : checkRec s r rec_ = 0) (habort : cmdOp rec_ ≠ 8) (hquery : cmdOp rec_ ≠ 9) :
    placesNeeded s r rec_ = 0 := by
  simp [placesNeeded, hcheck, habort, hquery]

theorem acceptRing_stopped (h : (cring s r).state ≠ 1) (fuel : Nat) : acceptRing fuel s r = s := by
  cases fuel with
  | zero => rfl
  | succ fuel => simp [acceptRing, h]

theorem addrState_setCring (q : Nat) (c : CRing) (p : Nat) :
    addrState (setCring s q c) p rec_ = setCring (addrState s p rec_) q c := by
  have hst : partSt (setCring s q c) p = partSt s p := rfl
  unfold addrState
  rw [hst]
  by_cases h : partSt s p = 1 ∧ cmdOp rec_ ≠ 9
  · rw [if_pos h, if_pos h]
    rfl
  · rw [if_neg h, if_neg h]

theorem addrsOk_setCring (q : Nat) (c : CRing) (p : Nat) : addrsOk (setCring s q c) p rec_ = addrsOk s p rec_ := rfl

/-- The checks of a record read no control block of a command ring. -/
theorem checkRec_setCring (q : Nat) (c : CRing) : checkRec (setCring s q c) r rec_ = checkRec s r rec_ := by
  have hpart : ringPart (setCring s q c) r = ringPart s r := rfl
  have hfields (h p : Nat) : fieldsOk (setCring s q c) h p rec_ = fieldsOk s h p rec_ := rfl
  have hranks (p : Nat) (rs : List Nat) : ranksHere (setCring s q c) p rs = ranksHere s p rs := rfl
  have hgated (i : Nat) : coreGated (setCring s q c) i = coreGated s i := rfl
  have hmodes (p : Nat) : modesOk (setCring s q c) p rec_ = modesOk s p rec_ := rfl
  simp only [checkRec, hpart, hfields, addrState_setCring, addrsOk_setCring, hranks, hgated, hmodes]

/-- One new record of a ring that runs is queued, and head moves past it. -/
theorem acceptRing_one (hrun : (cring s r).state = 1) (hnew : (cring s r).head ≠ (cring s r).tail)
    (haccepts : ringAccepts s r = true) (habort : cmdOp (ringRec s r (cring s r).head.toNat) ≠ 8)
    (hquery : cmdOp (ringRec s r (cring s r).head.toNat) ≠ 9)
    (hcheck : checkRec s r (ringRec s r (cring s r).head.toNat) = 0) :
    acceptRing 1 s r = addCmd (setCring s r { cring s r with head := (cring s r).head + 1 }) r
      (ringRec s r (cring s r).head.toNat) := by
  have hgoes : ¬((cring s r).state ≠ 1 ∨ (cring s r).head = (cring s r).tail ∨ ringAccepts s r = false) := by
    simp [hrun, hnew, haccepts]
  have hroom : ¬freePlaces s (complRing s r) < placesNeeded s r (ringRec s r (cring s r).head.toNat) := by
    rw [placesNeeded_queued hcheck habort hquery]
    exact Nat.not_lt_zero _
  calc acceptRing 1 s r
      = acceptRing 0 (acceptRec (setCring s r { cring s r with head := (cring s r).head + 1 }) r
          (ringRec s r (cring s r).head.toNat)) r := (if_neg hgoes).trans (if_neg hroom)
    _ = _ := acceptRec_queues ((checkRec_setCring ..).trans hcheck) habort hquery

variable (s r) in
theorem tailWrite_ahead {tail : Word} (h : ringSize s r < (tail - (cring s r).head).toNat) :
    ∃ p, tailWrite s r tail = raise (setCring s r { cring s r with state := if (cring s r).state = 0 then 0 else 2 }) 0x0010
      (ringPart s r) p :=
  ⟨_, if_pos h⟩

theorem tailWrite_within {tail : Word} (h : (tail - (cring s r).head).toNat ≤ ringSize s r) :
    tailWrite s r tail =
      acceptRing (tail - (cring s r).head).toNat (setCring s r { cring s r with tail := tail }) r := by
  have hdue : ringDue (setCring s r { cring s r with tail := tail }) r = (tail - (cring s r).head).toNat := by
    rw [ringDue, cring_setCring_same]
  rw [← hdue]
  exact if_neg (Nat.not_lt.2 h)

/-- The one new record of a ring that runs is queued, and head reaches tail. -/
theorem tailWrite_accepts {tail : Word} (hrun : (cring s r).state = 1) (hone : (tail - (cring s r).head).toNat = 1)
    (haccepts : ringAccepts s r = true) (habort : cmdOp (ringRec s r (cring s r).head.toNat) ≠ 8)
    (hquery : cmdOp (ringRec s r (cring s r).head.toNat) ≠ 9)
    (hcheck : checkRec s r (ringRec s r (cring s r).head.toNat) = 0) :
    tailWrite s r tail = addCmd (setCring (setCring s r { cring s r with tail := tail }) r
      { cring s r with tail := tail, head := tail }) r (ringRec s r (cring s r).head.toNat) := by
  have hhead : (cring s r).head + 1 = tail := by bv_omega
  have hnew : (cring s r).head ≠ tail := by bv_omega
  have hring := cring_setCring_same s r { cring s r with tail := tail }
  have h := acceptRing_one (s := setCring s r { cring s r with tail := tail }) (r := r)
  rw [hring] at h
  rw [tailWrite_within (by rw [hone]; exact Nat.one_le_two_pow), hone]
  exact (h hrun hnew haccepts habort hquery ((checkRec_setCring ..).trans hcheck)).trans (by rw [hhead]; rfl)

end

/-! ## Event rings (R325, R328) -/

section
variable {s : State} {r : Nat}

theorem ering_eringWrite (e : Ev) : ering (eringWrite s r e) r = { ering s r with prod := (ering s r).prod + 1 } :=
  ering_setEring_same ..

theorem lost_eringFlush (n : Nat) : (ering (eringFlush n s r) r).lost = (ering s r).lost := by
  induction n generalizing s with
  | zero => rfl
  | succ n ih =>
    simp only [eringFlush]
    split
    · split
      case h_1 => rw [ih, ering_eringWrite, ering_setEring_same]
      case h_2 =>
        split
        case h_1 => rw [ering_eringWrite, ering_setEring_same]
        case h_2 => rfl
    · rfl

/-- Nothing waits for space. -/
theorem eringFlush_empty (hovq : (ering s r).ovq = []) (hlost : (ering s r).firstLost = none) (n : Nat) :
    eringFlush n s r = s := by
  cases n with
  | zero => rfl
  | succ n => simp [eringFlush, hovq, hlost]

variable (s r) in
theorem records_eringAgain : Records s (eringAgain s r) :=
  .trans (records_setEring (x := { ering s r with again := [] }) rfl) (.foldl (fun _ _ => records_eringSend ..) _ _)

variable (s r) in
theorem lost_eringAgain : (ering (eringAgain s r) r).lost = (ering s r).lost := by
  refine List.foldlRecOn (motive := fun t : State => (ering t r).lost = (ering s r).lost) _ _ ?_ fun _ ht _ _ => ht
  rw [ering_setEring_same]

theorem wakeRings_none (h : ∀ q, (cring s q).state ≠ 3) (e : Nat) : wakeRings s e = s :=
  List.foldlRecOn (motive := fun t => t = s) _ _ rfl fun t ht q _ => by simp [ht, h q]

theorem eringGo_none (h : ∀ q, (cring s q).state ≠ 3) (e : Nat) :
    eringGo s e = eringFlush ((ering s e).ovq.length + 1) s e :=
  wakeRings_none (fun q => by rw [(records_eringFlush ..).cring]; exact h q) e

/-- The one record that waits is written once the host has made space. -/
theorem consWrite_writes (h : ∀ q, (cring s q).state ≠ 3) {v : Word} {x : Ev} (hrun : (ering s r).state = 1)
    (hovq : (ering s r).ovq = [x]) (hlost : (ering s r).firstLost = none)
    (hspace : ((ering s r).prod - v).toNat < eringSize s r) :
    consWrite s r v = eringWrite (setEring (setEring s r { ering s r with cons := v }) r
      { ering s r with cons := v, ovq := [] }) r x := by
  have hsize : eringSize (setEring s r { ering s r with cons := v }) r = eringSize s r := rfl
  have hopen : eringOpen (setEring s r { ering s r with cons := v }) r = true := by
    rw [eringOpen, eringUsed, hsize, ering_setEring_same, decide_eq_true hspace, hrun]
    rfl
  rw [consWrite, eringGo_none (s := setEring ..) h, ering_setEring_same, hovq, List.length_singleton, eringFlush, if_pos hopen]
  simp only [ering_setEring_same, hovq]
  refine eringFlush_empty ?_ ?_ 1
  · rw [ering_eringWrite, ering_setEring_same]
  · rw [ering_eringWrite, ering_setEring_same]
    exact hlost

/-- The state in which an event ring has been enabled, before anything that waits is written. -/
def eringStarted (s : State) (r : Nat) : State :=
  setEring (dset s (0x6900 + r) 9 1) r { ering s r with state := 1, lost := 0 }

theorem onlyEvents_eringStarted : OnlyEvents s (eringStarted s r) := rfl

theorem eringEnable_on (h : ∀ q, (cring s q).state ≠ 3) :
    (ering (eringEnable s r true) r).state = 1 ∧ (ering (eringEnable s r true) r).lost = 0 ∧
      OnlyEvents s (eringEnable s r true) := by
  have hagain := records_eringAgain (eringStarted s r) r
  have hwaits (q : Nat) : (cring (eringAgain (eringStarted s r) r) q).state ≠ 3 := by
    rw [hagain.cring]
    exact h q
  have hgo : eringEnable s r true = eringGo (eringAgain (eringStarted s r) r) r := rfl
  rw [hgo, eringGo_none hwaits]
  refine ⟨?state, ?lost, (onlyEvents_eringStarted.trans hagain.events).trans (onlyEvents_eringFlush ..)⟩
  case state => rw [(records_eringFlush ..).states, hagain.states, eringStarted, ering_setEring_same]
  case lost => rw [lost_eringFlush, lost_eringAgain, eringStarted, ering_setEring_same]

end

/-! ## Enabling by base-camp firmware (R305, R328) -/

theorem cairnRow_commandRingEnable (r : RingNo) :
    cairnRow (0x6880 + r.val) 5 = some ⟨0x6880, 128, 5, 5, .bool, .rw, 0, .between 0 1⟩ := by
  revert r; decide

theorem cairnRow_eventRingEnable (r : RingNo) :
    cairnRow (0x6900 + r.val) 9 = some ⟨0x6900, 128, 9, 9, .bool, .rw, 0, .between 0 1⟩ := by
  revert r; decide

section
variable {s : State} (hup : firmwareUp s = true) (hfree : s.mgmt.bus.taken = false) (r : RingNo) (on_ : Bool)
include hup hfree

theorem exec_commandRingEnable :
    exec (.commandRingEnable .firmware r on_) s = .next (writeCring s r 5 (boolBit on_)).1 := by
  have hwrite (v : Nat) : writeVal s .firmware (0x6880 + r.val) 5 v = writeCring s r 5 v := by
    have hr := r.isLt
    simp (disch := omega) only [writeVal, if_neg, if_pos, Nat.add_sub_cancel_left]
  have hexec : exec (.commandRingEnable .firmware r on_) s =
      .next (wordWrite s .firmware (0x6880 + r.val) 5 (if on_ then 1 else 0)) :=
    congrArg Host.Outcome.next ((if_pos hup).trans (by simp [busWrite, busHeld, hfree]))
  rw [hexec, wordWrite_firmware (cairnRow_commandRingEnable r) rfl (by decide), hwrite]
  cases on_ <;> rfl

theorem exec_eventRingEnable :
    exec (.eventRingEnable .firmware r on_) s = .next (writeEring s r 9 (boolBit on_)).1 := by
  have hwrite (v : Nat) : writeVal s .firmware (0x6900 + r.val) 9 v = writeEring s r 9 v := by
    have hr := r.isLt
    simp (disch := omega) only [writeVal, if_neg, if_pos, Nat.add_sub_cancel_left]
  have hexec : exec (.eventRingEnable .firmware r on_) s =
      .next (wordWrite s .firmware (0x6900 + r.val) 9 (if on_ then 1 else 0)) :=
    congrArg Host.Outcome.next ((if_pos hup).trans (by simp [busWrite, busHeld, hfree]))
  rw [hexec, wordWrite_firmware (cairnRow_eventRingEnable r) rfl (by decide), hwrite]
  cases on_ <;> rfl

theorem commandRing_enables (hoff : dget s (0x6880 + r) 5 ≠ 1) (hvalid : ringCfgValid s r = true) :
    ∃ t, exec (.commandRingEnable .firmware r true) s = .next t ∧ cring t r = ⟨0, 0, 0, 1⟩ ∧ OnlyEvents s t := by
  have hwrite : (writeCring s r 5 1).1 = cringEnable s r true := by simp [writeCring, hoff, hvalid]
  exact ⟨_, (exec_commandRingEnable hup hfree r true).trans (congrArg _ hwrite), cring_setCring_same .., rfl⟩

theorem commandRing_disables : ∃ t, exec (.commandRingEnable .firmware r false) s = .next t ∧ (cring t r).state = 0 ∧
    OnlyEvents s t :=
  ⟨_, exec_commandRingEnable hup hfree r false, congrArg CRing.state (cring_setCring_same (dset s (0x6880 + r) 5 0) ..), rfl⟩

theorem eventRing_enables (hcrings : ∀ q, (cring s q).state ≠ 3) (hoff : dget s (0x6900 + r) 9 ≠ 1)
    (hvalid : eringCfgValid s r = true) : ∃ t, exec (.eventRingEnable .firmware r true) s = .next t ∧
      (ering t r).state = 1 ∧ (ering t r).lost = 0 ∧ OnlyEvents s t := by
  have hwrite : (writeEring s r 9 1).1 = eringEnable s r true := by simp [writeEring, hoff, hvalid]
  exact ⟨_, (exec_eventRingEnable hup hfree r true).trans (congrArg _ hwrite), eringEnable_on hcrings⟩

theorem eventRing_disables : ∃ t, exec (.eventRingEnable .firmware r false) s = .next t ∧ (ering t r).state = 0 ∧
    OnlyEvents s t :=
  ⟨_, exec_eventRingEnable hup hfree r false, congrArg ERing.state (ering_setEring_same (dset s (0x6900 + r) 9 0) ..), rfl⟩

end

/-! ## The statement -/

/-- Settles O41: each clause is what its write or its enable does to the ring. -/
theorem hostRings : Obligations.HostRings := by
  refine fun r s hcrings => ⟨fun tail => ⟨?accepts, ?ahead, ?stored⟩, fun v => ⟨?consumes, ?writes⟩, fun hup hfree =>
    ⟨commandRing_enables hup hfree r, commandRing_disables hup hfree r, eventRing_enables hup hfree r hcrings,
      eventRing_disables hup hfree r⟩⟩
  case accepts =>
    intro hrun hone haccepts habort hquery hcheck
    refine ⟨_, congrArg Host.Outcome.next (tailWrite_accepts hrun hone haccepts habort hquery hcheck), ?_, rfl, rfl, rfl, rfl,
      rfl⟩
    exact cring_setCring_same (setCring s r _) ..
  case ahead =>
    intro hahead
    obtain ⟨p, hp⟩ := tailWrite_ahead s r hahead
    have hrecords := records_raise (setCring s r { cring s r with state := if (cring s r).state = 0 then 0 else 2 }) 0x0010
      (ringPart s r) p
    refine ⟨_, congrArg Host.Outcome.next hp, ?_, hrecords.cmds, (onlyEvents_setCring ..).trans hrecords.events⟩
    rw [hrecords.cring, cring_setCring_same]
  case stored =>
    intro hstate hwithin
    refine congrArg Host.Outcome.next ((tailWrite_within hwithin).trans (acceptRing_stopped ?_ _))
    rw [cring_setCring_same]
    show (cring s r).state ≠ 1
    omega
  case consumes =>
    intro hovq hlost
    refine congrArg Host.Outcome.next ((eringGo_none (s := setEring ..) hcrings r).trans (eringFlush_empty ?_ ?_ _))
    · rw [ering_setEring_same, hovq]
    · rw [ering_setEring_same, hlost]
  case writes =>
    intro x hrun hovq hlost hspace
    refine ⟨_, congrArg Host.Outcome.next (consWrite_writes hcrings hrun hovq hlost hspace), ?_,
      ((onlyEvents_setEring ..).trans (onlyEvents_setEring ..)).trans (onlyEvents_eringWrite ..), List.length_append⟩
    rw [ering_eringWrite, ering_setEring_same]

end Sys2Proof.Machine

/-!
What the commands of a ring do when they start (R313 to R320). Starting marks the command and nothing else, so that a command
which may start meets the panel, the engines and the power manager as they were. A fence that has started is the one which its
ring finds, since a ring with a started fence starts nothing.
-/
namespace Sys2Proof.Machine

open Sys2Proof

/-! ## Starting (R320, R321) -/

/-- A command is the next of its ring, and its completion has a place. -/
structure MayStart (s : State) (r : Nat) (c : Cmd) : Prop where
  next : nextStart s r = some c
  found : findCmd s r c.idx = some c
  place : freePlaces s (complRing s r) ≠ 0

/-- The state in which a command has started. -/
def startedCmd (s : State) (r i : Nat) : State := modCmd s r i fun c => { c with st := .started }

section
variable {s : State} {r : Nat} {c : Cmd}

/-- A ring without a started fence starts a queued command. -/
theorem nextStart_some (h : nextStart s r = some c) : fenceHolds s r = false ∧ c.st = .queued := by
  unfold nextStart at h
  split at h
  case isTrue => cases h
  case isFalse hfence =>
    refine ⟨Bool.eq_false_iff.2 hfence, ?_⟩
    split at h
    case h_1 d hd =>
      rw [Option.ite_none_left_eq_some] at h
      obtain rfl := Option.some_inj.1 h.2
      have hkey := List.find?_some hd
      simp only [Bool.and_eq_true, beq_iff_eq] at hkey
      exact hkey.2
    case h_2 => cases h

variable (h : MayStart s r c)
include h

theorem MayStart.starts {op : Nat} {ready : Cmd → Bool} {go : State → Cmd → State} (hop : cmdOp c.rec_ = op)
    (hready : ready c = true) : startNext s r op ready go = go (startedCmd s r c.idx) c := by
  simp [startNext, h.next, hop, hready, h.place, startedCmd]

theorem MayStart.started : findCmd (startedCmd s r c.idx) r c.idx = some { c with st := .started } :=
  findCmd_modCmd_same h.found rfl rfl

/-- A command that has started is done once it is finished, whatever else its start did. -/
theorem MayStart.finishes {t : State} (hcmds : t.host.cmds = (startedCmd s r c.idx).host.cmds) :
    CmdDone (finishCmd t r c.idx 0) r c.idx :=
  cmdDone_finishCmd ((findCmd_of_cmds hcmds).trans h.started) 0

end

/-! ## Launches (R313) -/

section
variable {s : State} {r : RingNo} {c : Cmd}

/-- Waking changes the state of the power manager alone. -/
theorem wakeRegion_pwr (s : State) (n : Nat) : wakeRegion s n = { s with pwr := (wakeRegion s n).pwr } := by
  unfold wakeRegion
  split <;> rfl

theorem wakeRegions_pwr (s : State) (cs : List (Nat × Nat)) :
    ∃ p, cs.foldl (fun t x => wakeRegion t (x.2 / 16)) s = { s with pwr := p } := by
  refine List.foldlRecOn (motive := fun t => ∃ p, t = { s with pwr := p }) _ _ ⟨s.pwr, rfl⟩ ?_
  rintro _ ⟨p, rfl⟩ x -
  exact ⟨_, wakeRegion_pwr ..⟩

theorem launchCheck_waits {i : Nat} (hc : findCmd s r i = some c) (hleft : c.left ≠ []) : launchCheck s r i = s := by
  simp [launchCheck, hc, hleft]

/-- What a launch records of its cores. -/
def launchOf (s : State) (r : RingNo) (c : Cmd) : Cmd :=
  let cs := launchCores s c
  { c with st := .started, left := cs.map Prod.snd, cores := cs.map Prod.snd,
           groups := [groupOf s r 1 cs, groupOf s r 2 cs, groupOf s r 3 cs] }

/-- The state in which a launch has sent its task starts. -/
def launchSent (s : State) (r : RingNo) (c : Cmd) : State :=
  let d := launchOf s r c
  let t := modCmd (startedCmd s r c.idx) r c.idx fun e => { e with left := d.left, cores := d.cores, groups := d.groups }
  { t with host := { t.host with
    belay := t.host.belay ++ (launchCores s c).map fun x => (x.2, .start (startMsg r c.idx c.rec_ x.1)) } }

theorem MayStart.launch (h : MayStart s r c) (hop : cmdOp c.rec_ = 1) (hready : launchReady s c = true)
    (hcores : launchCores s c ≠ []) : ∃ t d, exec (.launch r) s = .next t ∧ findCmd t r c.idx = some d ∧ d.st = .started ∧
      d.left = (launchCores s c).map Prod.snd ∧ t.cores = s.cores ∧ KeepsMem s t ∧ t.host.belay = s.host.belay ++
        (launchCores s c).map fun x => (x.2, .start (startMsg r c.idx c.rec_ x.1)) := by
  have hgo : startNext s r 1 (launchReady s) (startLaunch r) =
      launchCheck ((launchCores s c).foldl (fun t x => wakeRegion t (x.2 / 16)) (launchSent s r c)) r c.idx :=
    h.starts hop hready
  obtain ⟨p, hp⟩ := wakeRegions_pwr (launchSent s r c) (launchCores s c)
  have hfound : findCmd { launchSent s r c with pwr := p } r c.idx = some (launchOf s r c) :=
    findCmd_modCmd_same h.started rfl rfl
  rw [hp, launchCheck_waits hfound (mt List.map_eq_nil_iff.1 hcores)] at hgo
  exact ⟨_, _, congrArg Host.Outcome.next hgo, hfound, rfl, rfl, rfl, ⟨rfl, rfl, rfl⟩, rfl⟩

end

/-! ## Copies (R314) -/

section
variable {s : State} {r : RingNo} {c : Cmd}

theorem MayStart.copy (h : MayStart s r c) (hdrill : ∀ x, drillWith s 7 x = false) {bs : List Byte} (hop : cmdOp c.rec_ = 2)
    (hsrc : copySrcHost c.rec_ = false) (hdst : copyDstHost c.rec_ = false)
    (hread : readRange s (some (ringPart s r)) (copySrc c.rec_) (copyLen c.rec_) = some bs)
    (hwrite : (writeRange s (some (ringPart s r)) (copyDst c.rec_) bs).2 = true) :
    ∃ t, exec (.copy ⟨r, .clean⟩) s = .next t ∧ t.spm = (writeRange s (some (ringPart s r)) (copyDst c.rec_) bs).1.spm ∧
      t.hbm = (writeRange s (some (ringPart s r)) (copyDst c.rec_) bs).1.hbm ∧ CmdDone t r c.idx := by
  have hpart : ringPart (startedCmd s r c.idx) r = ringPart s r := rfl
  have hobs := readRangeObs_clean (s := startedCmd s r c.idx) hdrill ((readRange_withHost ..).trans hread)
  have hput : writeRange (startedCmd s r c.idx) (some (ringPart s r)) (copyDst c.rec_) bs =
    (State.withHost _ (startedCmd s r c.idx).host, true) := writeRange_withHost _ hwrite
  have hgo := h.starts (ready := fun _ => true) (go := startCopy r .clean) hop rfl
  simp only [startCopy, hsrc, hdst, hpart, hobs, hput, Bool.false_eq_true, if_false, if_true] at hgo
  exact ⟨_, congrArg Host.Outcome.next hgo, (settles_finishCmd 0).events.spm, (settles_finishCmd 0).events.hbm, h.finishes rfl⟩

end

/-! ## Collectives and reshards (R315) -/

section
variable {s : State} {r i : Nat} {c : Cmd}

/-- A command with one entry to submit hands it to its engine, which takes it. -/
theorem hostSubmit_one (hc : findCmd s r i = some c) (htodo : c.todo = [0]) (hdrill : ∀ x, drillWith s 7 x = false)
    {b : List Byte} (hread : readRange s (some (ringPart s r)) (listEntry c.rec_ 0) 128 = some b) {m : Nat}
    (hm : (b.getD 64 0).toNat % 16 = m) (howner : ownerOfSite s m = ringPart s r) (habs : absorbsSite s m = false)
    (hpresent : absent s (epMem m) = false) (hroom : ¬(cmdEngine c = 2 ∧ 16 ≤ (msite s m).relq.length)) {t : State}
    (htakes : submitTo (modCmd s r i fun c => { c with todo := [] }) m (cmdEngine c) (epHost (r / 64))
      (hostDesc b (r / 64) 0) (some (r, i, 0)) = (t, true)) : hostSubmit 1 s r i = t := by
  have hobs : readRangeObs s (some (dget s (0x6880 + r) 1)) (listEntry c.rec_ 0) 128 .clean = (s, some b) :=
    readRangeObs_clean hdrill hread
  have howner' : ownerOfSite s m = dget s (0x6880 + r) 1 := howner
  simp only [hostSubmit, hc, htodo, hobs, hm, howner', habs, hpresent, hroom, htakes, ne_eq, not_true, Bool.false_eq_true,
    or_self, if_false, if_true]

variable {m src : Nat} {d : List Byte} {o : Option (Nat × Nat × Nat)}

/-- An open descriptor of a free stream opens it, for whoever owns it. -/
theorem submitReduce_opens (hversion : dfield d 3 0 = 1) (hcommon : commonOk d = true) (hop : dfield d 7 4 = 1)
    (hopen : redOpenOk d = true) (hfree : stream s m (redStream d) = none) :
    ∃ x, submitReduce s m src d o = (setStream s m (redStream d) x, true) ∧ x.desc = d ∧ x.written = 0 ∧ x.owner = o := by
  have haccepted : ¬(dfield d 3 0 ≠ 1 ∨ commonOk d = false) := by simp [hversion, hcommon]
  simp only [submitReduce, if_neg haccepted, hop, hopen, hfree]
  exact ⟨_, rfl, rfl, rfl, rfl⟩

/-- A re-layout descriptor waits behind the others, for whoever owns it. -/
theorem submitQueue_relayout (hversion : dfield d 3 0 = 1) (hcommon : commonOk d = true) (hok : relayoutOk d = true)
    (hroom : (msite s m).relq.length < 16) :
    ∃ x, submitQueue s m 2 src d o = (setEngQueue s m 2 ((msite s m).relq ++ [x]), true) ∧ x.desc = d ∧ x.owner = o := by
  have haccepted : ¬(dfield d 3 0 ≠ 1 ∨ commonOk d = false ∨ relayoutOk d = false ∨ 16 ≤ (msite s m).relq.length) := by
    simp [hversion, hcommon, hok, hroom]
  exact ⟨_, if_neg haccepted, rfl, rfl⟩

end

/-- The one entry of a ring's list command goes to a memory site, which takes descriptors of the ring's partition. -/
structure OneEntry (s : State) (r : RingNo) (c : Cmd) (b : List Byte) (m : Nat) : Prop where
  count : recField c.rec_ 139 128 = 1
  read : readRange s (some (ringPart s r)) (listEntry c.rec_ 0) 128 = some b
  site : (b.getD 64 0).toNat % 16 = m
  owner : ownerOfSite s m = ringPart s r
  takes : absorbsSite s m = false
  present : absent s (epMem m) = false
  version : dfield (hostDesc b (r.val / 64) 0) 3 0 = 1
  common : commonOk (hostDesc b (r.val / 64) 0) = true

section
variable {s : State} {r : RingNo} {c : Cmd} {b : List Byte} {m : Nat}

/-- The state in which a list command of one entry submits it. -/
def submitting (s : State) (r : RingNo) (c : Cmd) : State :=
  let t := modCmd (startedCmd s r c.idx) r c.idx fun e => { e with left := [0], todo := [0] }
  modCmd t r c.idx fun e => { e with todo := [] }

/-- A list command of one entry ends its start with the entry submitted. -/
theorem MayStart.submits (h : MayStart s r c) (he : OneEntry s r c b m) (hdrill : ∀ x, drillWith s 7 x = false)
    (hroom : ¬(cmdEngine c = 2 ∧ 16 ≤ (msite s m).relq.length)) {t : State}
    (htakes : submitTo (submitting s r c) m (cmdEngine c) (epHost (r.val / 64)) (hostDesc b (r.val / 64) 0)
      (some (r.val, c.idx, 0)) = (t, true)) : startList r (startedCmd s r c.idx) c = t := by
  have hfound := findCmd_modCmd_same h.started (f := fun e => { e with left := [0], todo := [0] }) rfl rfl
  have hread := (readRange_withHost s (modCmd (startedCmd s r c.idx) r c.idx fun e => { e with left := [0], todo := [0] }).host
    ..).trans he.read
  rw [startList, he.count]
  exact hostSubmit_one hfound rfl hdrill hread he.site he.owner he.takes he.present hroom htakes

theorem MayStart.collective (h : MayStart s r c) (he : OneEntry s r c b m) (hdrill : ∀ x, drillWith s 7 x = false)
    (hop : cmdOp c.rec_ = 3) (hrow : dfield (hostDesc b (r.val / 64) 0) 7 4 = 1)
    (hopen : redOpenOk (hostDesc b (r.val / 64) 0) = true)
    (hfree : stream s m (redStream (hostDesc b (r.val / 64) 0)) = none) :
    ∃ t x, exec (.collective r) s = .next t ∧ KeepsMem s t ∧ stream t m (redStream (hostDesc b (r.val / 64) 0)) = some x ∧
      x.desc = hostDesc b (r.val / 64) 0 ∧ x.written = 0 ∧ x.owner = some (r.val, c.idx, 0) := by
  have heng : cmdEngine c = 0 := if_pos hop
  obtain ⟨x, hsub, hx⟩ := submitReduce_opens (s := submitting s r c) (src := epHost (r.val / 64)) (o := some (r.val, c.idx, 0))
    he.version he.common hrow hopen hfree
  have hgo := h.submits he hdrill (by omega) (by rw [heng]; exact (if_pos rfl).trans hsub)
  have hexec : exec (.collective r) s = .next (setStream (submitting s r c) m (redStream (hostDesc b (r.val / 64) 0)) x) :=
    congrArg Host.Outcome.next ((h.starts hop rfl).trans hgo)
  refine ⟨_, x, hexec, keepsMem_of_mems (by simp [submitting, startedCmd]), ?_, hx⟩
  rw [stream, setStream, msite_modMsite, aget_aput_same]

theorem MayStart.reshard (h : MayStart s r c) (he : OneEntry s r c b m) (hdrill : ∀ x, drillWith s 7 x = false)
    (hop : cmdOp c.rec_ = 4) (hok : relayoutOk (hostDesc b (r.val / 64) 0) = true) (hroom : (msite s m).relq.length < 16) :
    ∃ t x, exec (.reshard r) s = .next t ∧ KeepsMem s t ∧ (msite t m).relq = (msite s m).relq ++ [x] ∧
      x.desc = hostDesc b (r.val / 64) 0 ∧ x.owner = some (r.val, c.idx, 0) := by
  have heng : cmdEngine c = 2 := if_neg (by omega)
  obtain ⟨x, hsub, hx⟩ := submitQueue_relayout (s := submitting s r c) (src := epHost (r.val / 64))
    (o := some (r.val, c.idx, 0)) he.version he.common hok hroom
  have hgo := h.submits he hdrill (by omega) (by rw [heng]; exact (if_neg (by decide)).trans hsub)
  have hexec : exec (.reshard r) s = .next (setEngQueue (submitting s r c) m 2 ((msite s m).relq ++ [x])) :=
    congrArg Host.Outcome.next ((h.starts hop rfl).trans hgo)
  refine ⟨_, x, hexec, keepsMem_of_mems (by simp [submitting, startedCmd]), ?_, hx⟩
  rw [setEngQueue, msite_modMsite]
  rfl

end

/-! ## Barriers, fences and pitches (R316 to R318) -/

section
variable {s : State} {r : RingNo} {c : Cmd}

theorem MayStart.barrier (h : MayStart s r c) (hop : cmdOp c.rec_ = 5) : ∃ t, exec (.barrier r) s = .next t ∧
    CmdDone t r c.idx ∧ t.cores = s.cores ∧ aget (4 * r.val + recField c.rec_ 65 64) t.host.groups =
      some (recField c.rec_ 120 96, recField c.rec_ 152 128, recField c.rec_ 175 160) := by
  have hgo := h.starts (go := startBarrier r) (ready := fun _ => true) hop rfl
  rw [startBarrier] at hgo
  refine ⟨_, congrArg Host.Outcome.next hgo, h.finishes rfl,
    (settles_finishCmd 0).events.cores, ?_⟩
  rw [(settles_finishCmd 0).groups, aget_aput_same]

/-- A fence that has started still waits for the commands that it waited for. -/
theorem MayStart.fenceDone_started (h : MayStart s r c) :
    fenceDone (startedCmd s r c.idx) { c with st := .started } = fenceDone s c := by
  have hcovers (q i : Nat) : covers (startedCmd s r c.idx) { c with st := .started } q i = covers s c q i := rfl
  have hwrites : writeWaits (startedCmd s r c.idx) { c with st := .started } = writeWaits s c := rfl
  have hself : covers s c c.ring c.idx = false := by simp [covers]
  have hopen : (startedCmd s r c.idx).host.cmds.map (fun d => committed d || !covers s c d.ring d.idx) =
      s.host.cmds.map fun d => committed d || !covers s c d.ring d.idx := by
    refine map_replaceFirst fun d hd => ?_
    obtain rfl : d = c := Option.some_inj.1 (hd.symm.trans h.found)
    simp [hself]
  have hall (l : List Cmd) (p : Cmd → Bool) : l.all p = (l.map p).all id := by simp [List.all_map]
  simp only [fenceDone, hcovers, hwrites]
  rw [hall, hopen, ← hall]

/-- The fence that has started is the one which its ring finds. -/
theorem MayStart.started_fence (h : MayStart s r c) (hop : cmdOp c.rec_ = 6) :
    (startedCmd s r c.idx).host.cmds.find? (fun d => d.ring == r.val && d.st == .started && cmdOp d.rec_ == 6) =
      some { c with st := .started } := by
  refine find?_replaceFirst_new h.found ?_ ?_
  · simpa [fenceHolds] using (nextStart_some h.next).1
  · simp [(ring_of_findCmd h.found).1, hop]

theorem MayStart.fence (h : MayStart s r c) (hop : cmdOp c.rec_ = 6) : exec (.fence r) s = .next
    (if fenceDone s c then finishCmd (startedCmd s r c.idx) r c.idx 0 else startedCmd s r c.idx) := by
  have hgo : startNext s r 6 (fun _ => true) (fun t _ => t) = startedCmd s r c.idx := h.starts hop rfl
  rw [← h.fenceDone_started]
  refine congrArg Host.Outcome.next ?_
  rw [hgo, settleFence, h.started_fence hop]

theorem MayStart.pitch (h : MayStart s r c) (hop : cmdOp c.rec_ = 7) (hquench : s.pwr.quench = none) :
    ∃ t e, exec (.pitch r) s = .next t ∧ CmdDone t r c.idx ∧ t.pwr.hints = s.pwr.hints ++ [e] ∧
      e.start = s.prc + usTicks (recField c.rec_ 159 144) ∧ e.regions = pitchRegions s r c.rec_ ∧ e.active = false := by
  have hcalm : (startedCmd s r c.idx).pwr.quench.isSome = false := by simp [startedCmd, modCmd, hquench]
  have hgo := h.starts (go := startPitch r) (ready := fun _ => true) hop rfl
  simp only [startPitch, hcalm, Bool.false_eq_true, if_false] at hgo
  refine ⟨_, _, congrArg Host.Outcome.next hgo, h.finishes rfl,
    congrArg PwrSt.hints (settles_finishCmd 0).events.pwr, rfl, rfl, rfl⟩

end

/-! ## The statement -/

/-- Settles O42: each clause is what one kind of command does once it has started. -/
theorem hostCommands : Obligations.HostCommands := by
  intro r s c hnext hfound _ hplace hdrill
  have h : MayStart s r c := ⟨hnext, hfound, hplace⟩
  refine ⟨h.launch, fun bs => h.copy hdrill, ?lists, h.barrier, fun hop => ⟨?done, ?holds⟩, h.pitch⟩
  case lists =>
    intro b hop hcount hread m d howner htakes hpresent hversion hcommon
    have he : OneEntry s r c b m := ⟨hcount, hread, rfl, howner, htakes, hpresent, hversion, hcommon⟩
    exact ⟨h.collective he hdrill, h.reshard he hdrill⟩
  case done =>
    intro hdone
    exact ⟨_, (h.fence hop).trans (congrArg _ (if_pos hdone)), h.finishes rfl, (settles_finishCmd 0).keepsMem⟩
  case holds =>
    intro hwait
    refine ⟨_, (h.fence hop).trans (congrArg _ (if_neg (Bool.eq_false_iff.1 hwait))), h.started, ?_⟩
    rw [fenceHolds, ← List.isSome_find?, h.started_fence hop]
    rfl

end Sys2Proof.Machine

/-!
Inbound RDMA operations on a queue pair with nothing waiting (R293, R297 to R302). The operation that arrives is the only one of
its queue pair, so that it begins at once; one that is answered when it begins leaves no trace among the operations but its
number, and one that has opened a message waits for its acknowledgement.
-/
namespace Sys2Proof.Machine

open Sys2Proof

/-! ## A list with one more element -/

section
variable {α : Type} {p : α → Bool} {l : List α} {x : α}

theorem find?_append_new (hno : ∀ y ∈ l, p y = false) (hx : p x = true) : (l ++ [x]).find? p = some x := by
  have hnone : l.find? p = none := List.find?_eq_none.2 fun y hy => by simp [hno y hy]
  simp [hnone, hx]

theorem replaceFirst_append_new (hno : ∀ y ∈ l, p y = false) (hx : p x = true) (f : α → α) :
    replaceFirst p f (l ++ [x]) = l ++ [f x] := by
  induction l with
  | nil => simp [replaceFirst, hx]
  | cons y ys ih =>
    have hys : ∀ z ∈ ys, p z = false := fun z hz => hno z (List.mem_cons_of_mem _ hz)
    simp [replaceFirst, hno y (List.mem_cons_self ..), ih hys]

end

/-! ## The operation that arrives (R299, R300) -/

/-- An operation as it arrives on a queue pair. -/
def arriving (s : State) (h : Nat) (qpn : BitVec 24) (i : Inbound) : InOp := ⟨s.host.nextOp, h, qpn, i, false, [], 0, [], none⟩

/-- The state in which an operation waits behind the others. -/
def queuedIn (s : State) (x : InOp) : State :=
  { s with host := { s.host with ins := s.host.ins ++ [x], nextOp := s.host.nextOp + 1 } }

/-- The state in which an operation has had its number, and has gone. -/
def numbered (s : State) : State := { s with host := { s.host with nextOp := s.host.nextOp + 1 } }

/-- The state with another fabric. -/
def State.withFab (s : State) (f : Fab) : State := { s with fab := f }

/-- A queue pair works, and no operation of it waits. -/
structure QpIdle (s : State) (h : Nat) (qpn : BitVec 24) (q : Qp) : Prop where
  found : findQp s h qpn = some q
  ready : q.st = .ready
  idle : ∀ y ∈ s.host.ins, ¬(y.host = h ∧ y.qpn = qpn) ∧ y.op < s.host.nextOp

section
variable {s : State} {h : Nat} {qpn : BitVec 24} {q : Qp} {x : InOp}

theorem runIn_none (hnone : (s.host.ins.find? fun x => x.host == h && x.qpn == qpn) = none) (k : Nat) : runIn k s h qpn = s := by
  cases k with
  | zero => rfl
  | succ k => simp [runIn, hnone]

/-- An operation with nothing to send and an open message waits. -/
theorem runIn_waits (hfirst : (s.host.ins.find? fun x => x.host == h && x.qpn == qpn) = some x)
    (hfound : findIn s x.op = some x) (hq : findQp s h qpn = some q) (hready : q.st = .ready) (hstarted : x.started = true)
    (htodo : x.todo = []) (hleft : x.left ≠ 0) (k : Nat) : runIn k s h qpn = s := by
  cases k with
  | zero => rfl
  | succ k => simp [runIn, hfirst, hq, hready, hstarted, htodo, hleft, sendIn, hfound]

variable (hi : QpIdle s h qpn q)
include hi

theorem QpIdle.others : ∀ y ∈ s.host.ins, (y.host == h && y.qpn == qpn) = false := by
  intro y hy
  simpa using (hi.idle y hy).1

theorem QpIdle.older : ∀ y ∈ s.host.ins, (y.op == s.host.nextOp) = false := fun y hy =>
  beq_false_of_ne (Nat.ne_of_lt (hi.idle y hy).2)

theorem QpIdle.first_none : (s.host.ins.find? fun x => x.host == h && x.qpn == qpn) = none :=
  List.find?_eq_none.2 fun y hy => by simp [hi.others y hy]

theorem QpIdle.first_queuedIn (hhost : x.host = h) (hqpn : x.qpn = qpn) :
    ((queuedIn s x).host.ins.find? fun x => x.host == h && x.qpn == qpn) = some x :=
  find?_append_new hi.others (by simp [hhost, hqpn])

variable (hop : x.op = s.host.nextOp)
include hop

theorem QpIdle.findIn_queuedIn : findIn (queuedIn s x) s.host.nextOp = some x :=
  find?_append_new hi.older (by simp [hop])

theorem QpIdle.findIn_withFab (f : Fab) : findIn ((queuedIn s x).withFab f) s.host.nextOp = some x := hi.findIn_queuedIn hop

theorem QpIdle.modIn_queuedIn (f : InOp → InOp) : modIn (queuedIn s x) s.host.nextOp f = queuedIn s (f x) := by
  rw [modIn, queuedIn, replaceFirst_append_new hi.older (by simp [hop])]
  rfl

/-- Of the operations, only the new one goes. -/
theorem QpIdle.ins_dropIn {t : State} (hins : t.host.ins = s.host.ins ++ [x]) :
    (dropIn t s.host.nextOp).host.ins = s.host.ins := by
  have hkeep : s.host.ins.filter (fun y => y.op != s.host.nextOp) = s.host.ins :=
    List.filter_eq_self.2 fun y hy => by simp [bne, hi.older y hy]
  simp [dropIn, hins, hkeep, hop]

theorem QpIdle.dropIn_queuedIn : dropIn (queuedIn s x) s.host.nextOp = numbered s := by
  calc dropIn (queuedIn s x) s.host.nextOp
      = { numbered s with host := { (numbered s).host with ins := (dropIn (queuedIn s x) s.host.nextOp).host.ins } } := rfl
    _ = numbered s := by rw [hi.ins_dropIn hop (t := queuedIn s x) rfl]; rfl

end

/-! ### How an operation begins (R298, R299) -/

section
variable {s : State} {q : Qp} {x : InOp} (hlen : rdmaLenOk x.req.len = true)
include hlen

theorem beginIn_rings (hwin : windowOf s q.part x.req.rkey = some 0) :
    beginIn s q x = answerIn s q x (inRings s x.host x.qpn q.part x.req) := by
  simp [beginIn, hlen, hwin]

theorem beginIn_refused (hwin : windowOf s q.part x.req.rkey = none) : beginIn s q x = windowFail (dropIn s x.op) q x := by
  simp [beginIn, hlen, hwin]

theorem beginIn_fabric {w : Nat} (hwin : windowOf s q.part x.req.rkey = some w) (hring : w ≠ 0) (hcairn : w ≠ 4)
    (hplain : x.req.isAtomic = false) (hawake : inBivouac s = false)
    (hok : fabricOk s q.part w x.req.addr x.req.len = true) : beginIn s q x = sendIn ((opPieces x.req).length + 1)
      (modIn s x.op fun y => { y with started := true, todo := opPieces x.req }) x.op := by
  simp [beginIn, hlen, hwin, hring, hcairn, hplain, hawake, hok]

end

/-! ### On an idle queue pair -/

section
variable {s : State} {h : Nat} {qpn : BitVec 24} {q : Qp} (hi : QpIdle s h qpn q) {i : Inbound}
include hi

theorem QpIdle.arrive_begins : arrive s h qpn i false =
    runIn (2 * s.host.ins.length + 3) (beginIn (queuedIn s (arriving s h qpn i)) q (arriving s h qpn i)) h qpn := by
  have hfirst := hi.first_queuedIn (x := arriving s h qpn i) rfl rfl
  have hq : findQp (queuedIn s (arriving s h qpn i)) h qpn = some q := hi.found
  have hpump : arrive s h qpn i false = pumpQp (queuedIn s (arriving s h qpn i)) h qpn := by
    simp only [arrive, hi.found, hi.ready, markedBy_unmarked]
    rfl
  have hfuel : 2 * (queuedIn s (arriving s h qpn i)).host.ins.length + 2 = 2 * s.host.ins.length + 3 + 1 := by
    simp only [queuedIn, List.length_append, List.length_singleton]
    omega
  rw [hpump, pumpQp, hfuel, runIn]
  simp only [hfirst, hq, hi.ready]
  rfl

/-- An operation that is answered when it begins. -/
theorem QpIdle.arrive_ends {t : State} (hbegin : beginIn (queuedIn s (arriving s h qpn i)) q (arriving s h qpn i) = t)
    (hins : t.host.ins = s.host.ins) : arrive s h qpn i false = t := by
  rw [hi.arrive_begins, hbegin, runIn_none]
  rw [hins]
  exact hi.first_none

/-! ## Answers at the host die (R298, R299, R302) -/

variable (hlen : rdmaLenOk i.len = true)
include hlen

theorem QpIdle.arrive_answered (hwin : windowOf s q.part i.rkey = some 0) {t : State} {o : Out}
    (hrings : inRings (queuedIn s (arriving s h qpn i)) h qpn q.part i = some (t, o))
    (hins : t.host.ins = s.host.ins ++ [arriving s h qpn i]) :
    arrive s h qpn i false = emit (dropIn t s.host.nextOp) o := by
  have hbegin := beginIn_rings (s := queuedIn s (arriving s h qpn i)) (x := arriving s h qpn i) hlen hwin
  exact hi.arrive_ends (hbegin.trans (congrArg (answerIn _ _ _) hrings)) (hi.ins_dropIn (x := arriving s h qpn i) rfl hins)

/-- A key that names no window gets the NAK of its failure, after its events. -/
theorem QpIdle.arrive_refused (hwin : windowOf s q.part i.rkey = none) :
    ∃ t, Records (numbered s) t ∧ arrive s h qpn i false = emit t (.nak h qpn 2) := by
  have hrecords := (records_reservedAccess (numbered s) (epHost h) q.part i.addr).trans (records_raise _ 0x0012 q.part
    (pf 0 2 q.port ||| pf 4 4 (i.rkey.toNat % 16) ||| pf 8 24 qpn.toNat ||| pf 64 64 i.addr.toNat))
  have hbegin := beginIn_refused (s := queuedIn s (arriving s h qpn i)) (x := arriving s h qpn i) hlen hwin
  have hdrop : dropIn (queuedIn s (arriving s h qpn i)) (arriving s h qpn i).op = numbered s :=
    hi.dropIn_queuedIn (x := arriving s h qpn i) rfl
  rw [hdrop] at hbegin
  exact ⟨_, hrecords, hi.arrive_ends hbegin hrecords.ins⟩

end

/-! ## Window 0 (R301, R302) -/

section
variable {s : State} {h d off p : Nat} {qpn : BitVec 24} {key : BitVec 32} {va : Word} (hoff : sramOff va = some (d, off))
include hoff

theorem inRings_slots {bs : List Byte} (htarget : ringTarget s d p off bs.length = some .slots) :
    inRings s h qpn p (.write key va bs) = some (sramWrite s d off bs, .ack h qpn) := by
  simp [inRings, Inbound.addr, hoff, htarget, ringWrite]

theorem inRings_read {n : Nat} {bs : List Byte} (hread : ringRead s d p off n = some bs) :
    inRings s h qpn p (.read key va n) = some (s, .readResponse h qpn bs) := by
  simp [inRings, Inbound.addr, hoff, hread]

theorem inRings_atomic {i : Inbound} (hat : i.isAtomic = true) (haddr : i.addr = va) (hword : off % 8 = 0) {r : Nat}
    (htarget : ringTarget s d p off 8 = some (.resv r)) : inRings s h qpn p i =
      some (setCring s r { cring s r with resv := atomicNew (cring s r).resv i }, .atomicResponse h qpn (cring s r).resv) := by
  subst haddr
  cases i with
  | write | read => cases hat
  | add | swap => simp [inRings, hoff, hword, htarget]

end

section
variable {s : State} {h d off : Nat} {qpn : BitVec 24} {q : Qp} {key : BitVec 32} {va : Word} (hi : QpIdle s h qpn q)
  (hwin : windowOf s q.part key = some 0) (hoff : sramOff va = some (d, off))
include hi hwin hoff

theorem QpIdle.write_slots {bs : List Byte} (hlen : rdmaLenOk bs.length = true)
    (htarget : ringTarget s d q.part off bs.length = some .slots) : ∃ t, arrive s h qpn (.write key va bs) false = t ∧
      t.sram = memWrite s.sram (sramKey d off) bs ∧ t.spm = s.spm ∧ t.hbm = s.hbm ∧ t.cores = s.cores ∧
      t.out = s.out ++ [.ack h qpn] :=
  ⟨_, hi.arrive_answered (i := .write key va bs) hlen hwin (inRings_slots (s := queuedIn s _) hoff htarget) rfl,
    rfl, rfl, rfl, rfl, rfl⟩

theorem QpIdle.read_lines {n : Nat} {bs : List Byte} (hlen : rdmaLenOk n = true)
    (hread : ringRead s d q.part off n = some bs) : ∃ t, arrive s h qpn (.read key va n) false = t ∧ KeepsMem s t ∧
      t.out = s.out ++ [.readResponse h qpn bs] :=
  ⟨_, hi.arrive_answered (i := .read key va n) hlen hwin (inRings_read (s := queuedIn s _) hoff hread) rfl,
    ⟨rfl, rfl, rfl⟩, rfl⟩

theorem QpIdle.atomic_resv {i : Inbound} (hat : i.isAtomic = true) (haddr : i.addr = va) (hkey : i.rkey = key)
    (hword : off % 8 = 0) {r : Nat} (htarget : ringTarget s d q.part off 8 = some (.resv r)) :
    ∃ t, arrive s h qpn i false = t ∧ KeepsMem s t ∧ (cring t r).resv = atomicNew (cring s r).resv i ∧
      (cring t r).tail = (cring s r).tail ∧ t.out = s.out ++ [.atomicResponse h qpn (cring s r).resv] := by
  have hword8 : rdmaLenOk 8 = true := by decide
  have hlen : rdmaLenOk i.len = true := by
    cases i with
    | write | read => cases hat
    | add | swap => exact hword8
  subst hkey
  have hring (u : State) (c : CRing) (n : Nat) (o : Out) : cring (emit (dropIn (setCring u r c) n) o) r = c :=
    cring_setCring_same u r c
  refine ⟨_, hi.arrive_answered hlen hwin (inRings_atomic (s := queuedIn s _) hoff hat haddr hword htarget) rfl,
    ⟨rfl, rfl, rfl⟩, ?_, ?_, rfl⟩
  · rw [hring]; rfl
  · rw [hring]; rfl

end

/-! ## A write through a fabric window (R299, R300) -/

theorem granulesOf_head {fuel a pos n : Nat} {g : Nat × Nat} {gs : List (Nat × Nat)}
    (h : granulesOf (fuel + 1) a pos n = g :: gs) : g.1 = pos := by
  simp only [granulesOf] at h
  split at h
  · cases h
  · rw [← (List.cons.inj h).1]

/-- The one piece of a write holds its first bytes, at its address. -/
theorem opPieces_one {key : BitVec 32} {va : Word} {bs : List Byte} {p : Piece} (h : opPieces (.write key va bs) = [p]) :
    ∃ ds n, p = ⟨.data ds, .rem va, n⟩ := by
  obtain ⟨g, hg, rfl⟩ := List.map_eq_singleton_iff.1 h
  have hpos : g.1 = 0 := granulesOf_head hg
  exact ⟨(bs.drop g.1).take g.2, g.2, by simp [hpos, Inbound.addr]⟩

theorem onlyFab_of_sendTo {s t : State} {ep : Nat} {part : Option Nat} {p : Purpose} {a : Word} {f : Dest → Option Req}
    (h : sendTo s ep part p a f = .sent t) : t = { s with fab := t.fab } := by
  unfold sendTo at h
  split at h
  · cases h
  · split at h
    · exact onlyFab_of_sendReq h
    · cases h

section
variable {s t : State} {n : Nat} {x : InOp}

theorem sendIn_done (hx : findIn s n = some x) (htodo : x.todo = []) (k : Nat) : sendIn k s n = s := by
  cases k with
  | zero => rfl
  | succ k => simp [sendIn, hx, htodo]

theorem sendIn_sends (hx : findIn s n = some x) {p : Piece} {ps : List Piece} (htodo : x.todo = p :: ps)
    (hsend : sendTo s (epHost x.host) ((findQp s x.host x.qpn).map fun q => q.part) (pieceGoal n p).2 (pieceGoal n p).1
      (fun d => pieceReq d p) = .sent t) (k : Nat) :
    sendIn (k + 1) s n = sendIn k (modIn t n fun y => { y with todo := ps, left := y.left + 1 }) n := by
  simp only [sendIn, hx, htodo, hsend]

end

/-- A write in the middle: pieces to send, and open messages. -/
def writing (s : State) (h : Nat) (qpn : BitVec 24) (i : Inbound) (ps : List Piece) (n : Nat) : InOp :=
  { arriving s h qpn i with started := true, todo := ps, left := n }

section
variable {s : State} {h : Nat} {qpn : BitVec 24} {q : Qp} {key : BitVec 32} {va : Word} {bs : List Byte} {p : Piece}
  (hi : QpIdle s h qpn q) (hpieces : opPieces (.write key va bs) = [p]) {u : State}
  (hsend : sendTo (queuedIn s (writing s h qpn (.write key va bs) [p] 0)) (epHost h) (some q.part)
    (.hostWrite s.host.nextOp) va (fun d => pieceReq d p) = .sent u)
include hi hpieces hsend

/-- The one piece of a write goes out, and its message stays open. -/
theorem QpIdle.sendIn_one : sendIn 2 (queuedIn s (writing s h qpn (.write key va bs) [p] 0)) s.host.nextOp =
    (queuedIn s (writing s h qpn (.write key va bs) [] 1)).withFab u.fab := by
  have hgoal : pieceGoal s.host.nextOp p = (va, .hostWrite s.host.nextOp) := by
    obtain ⟨ds, n, rfl⟩ := opPieces_one hpieces
    rfl
  have hpart : ((findQp (queuedIn s (writing s h qpn (.write key va bs) [p] 0)) h qpn).map fun q => q.part) = some q.part :=
    congrArg (Option.map _) hi.found
  have hmod : modIn u s.host.nextOp (fun y => { y with todo := [], left := y.left + 1 }) =
      (queuedIn s (writing s h qpn (.write key va bs) [] 1)).withFab u.fab := by
    have hown := hi.modIn_queuedIn (x := writing s h qpn (.write key va bs) [p] 0) rfl
      (fun y => { y with todo := [], left := y.left + 1 })
    calc modIn u s.host.nextOp _
        = modIn ((queuedIn s (writing s h qpn (.write key va bs) [p] 0)).withFab u.fab) s.host.nextOp _ :=
          congrArg (modIn · s.host.nextOp _) (onlyFab_of_sendTo hsend)
      _ = (modIn (queuedIn s (writing s h qpn (.write key va bs) [p] 0)) s.host.nextOp _).withFab u.fab := rfl
      _ = _ := by rw [hown]; rfl
  rw [sendIn_sends (hi.findIn_queuedIn (x := writing s h qpn (.write key va bs) [p] 0) rfl) rfl ?sends, hmod]
  case sends =>
    rw [hgoal]
    exact (congrArg (sendTo _ (epHost h) · _ _ _) hpart).trans hsend
  exact sendIn_done (hi.findIn_withFab (x := writing s h qpn (.write key va bs) [] 1) rfl _) rfl 1

theorem QpIdle.write_fabric {w : Nat} (hwin : windowOf s q.part key = some w) (hring : w ≠ 0) (hcairn : w ≠ 4)
    (hawake : inBivouac s = false) (hok : fabricOk s q.part w va bs.length = true) (hlen : rdmaLenOk bs.length = true) :
    arrive s h qpn (.write key va bs) false = (queuedIn s (writing s h qpn (.write key va bs) [] 1)).withFab u.fab := by
  have hmod := hi.modIn_queuedIn (x := arriving s h qpn (.write key va bs)) rfl
    (fun y => { y with started := true, todo := [p] })
  have hbegin := beginIn_fabric (s := queuedIn s (arriving s h qpn (.write key va bs)))
    (x := arriving s h qpn (.write key va bs)) hlen hwin hring hcairn rfl hawake hok
  have hpieces' : opPieces (arriving s h qpn (.write key va bs)).req = [p] := hpieces
  replace hbegin : beginIn (queuedIn s (arriving s h qpn (.write key va bs))) q (arriving s h qpn (.write key va bs)) =
      sendIn 2 (queuedIn s (writing s h qpn (.write key va bs) [p] 0)) s.host.nextOp := by
    rw [hbegin, hpieces']
    exact congrArg (sendIn 2 · _) hmod
  rw [hi.arrive_begins, hbegin, hi.sendIn_one hpieces hsend]
  have hfound := hi.findIn_withFab (x := writing s h qpn (.write key va bs) [] 1) rfl u.fab
  exact runIn_waits (s := State.withFab _ u.fab) (x := writing s h qpn _ [] 1) (hi.first_queuedIn rfl rfl) hfound hi.found
    hi.ready rfl rfl Nat.one_ne_zero _

end

/-! ## Marked packets (R297) -/

section
variable {s : State} {h : Nat} {qpn : BitVec 24} {q : Qp} (hq : findQp s h qpn = some q)
include hq

/-- A marked packet makes a CNP go back, when the last one is an interval ago. -/
theorem markedBy_marked : markedBy s h qpn true =
    if q.cnpSent.all fun t0 => decide (t0 + usTicks (dget s 0x6800 7) ≤ s.prc) then
      emit (modQp s h qpn fun q => { q with cnpSent := some s.prc }) (.cnp h qpn)
    else s := by
  simp only [markedBy, hq]
  cases q.cnpSent <;> rfl

theorem findQp_markedBy : ∃ q', findQp (markedBy s h qpn true) h qpn = some q' ∧ q'.st = q.st := by
  rw [markedBy_marked hq]
  split
  · exact ⟨_, findQp_modQp hq rfl rfl, rfl⟩
  · exact ⟨q, hq, rfl⟩

/-- An operation of a marked packet arrives as one of a packet without a mark, after the CNP. -/
theorem arrive_marked (hready : q.st = .ready) (i : Inbound) :
    arrive s h qpn i true = arrive (markedBy s h qpn true) h qpn i false := by
  obtain ⟨q', hq', hst⟩ := findQp_markedBy hq
  simp only [arrive, hq, hq', hst, hready, markedBy_unmarked, if_true]

theorem out_markedBy : (markedBy s h qpn true).out = s.out ++
    if q.cnpSent.all fun t0 => decide (t0 + usTicks (dget s 0x6800 7) ≤ s.prc) then [.cnp h qpn] else [] := by
  rw [markedBy_marked hq]
  split
  · rfl
  · rw [List.append_nil]

end

theorem exec_invalidOpcode {s : State} {h : HostNo} {qpn : BitVec 24} {q : Qp} (hq : findQp s h qpn = some q)
    (hready : q.st = .ready) : exec (.invalidOpcode h qpn) s = .next { s with out := s.out ++ [.nak h qpn 1] } := by
  refine congrArg Host.Outcome.next ?_
  simp only [hq, hready]
  rfl

/-! ## The statement -/

theorem rdmaLenOk_of_bounds {n : Nat} (hmin : 1 ≤ n) (hmax : n ≤ 2 ^ 31) : rdmaLenOk n = true := by
  rw [rdmaLenOk, decide_eq_true hmin, decide_eq_true (show n ≤ rdmaMax from hmax)]
  rfl

/-- Settles O39: the operation that arrives begins at once, and is answered or opens its message; a mark acts before it. -/
theorem inboundRdma : Obligations.InboundRdma := by
  refine ⟨?operations, fun port s => ⟨_, rfl, rfl, fun p => ?discards⟩⟩
  case discards =>
    refine (agetD_aput ..).trans ?_
    split
    case isTrue hp => rw [hp]
    case isFalse => rfl
  intro h qpn key va s q hq hready hidle
  have hi : QpIdle s h qpn q := ⟨hq, hready, hidle⟩
  refine ⟨fun d off hwin hoff => ⟨?slots, ?reads, ?atomics⟩, ?fabric, ?refused, ?marked, out_markedBy hq,
    exec_invalidOpcode hq hready⟩
  case slots =>
    intro bs imm hmin hmax htarget i hmem
    have hexec : exec i s = .next (arrive s h qpn (.write key va bs) false) := by
      simp only [List.mem_cons, List.not_mem_nil, or_false] at hmem
      obtain rfl | rfl := hmem <;> rfl
    obtain ⟨t, rfl, ht⟩ := hi.write_slots hwin hoff (rdmaLenOk_of_bounds hmin hmax) htarget
    exact ⟨_, hexec, ht⟩
  case reads =>
    intro n bs hmin hmax hread
    obtain ⟨t, rfl, ht⟩ := hi.read_lines hwin hoff (rdmaLenOk_of_bounds hmin hmax) hread
    exact ⟨_, rfl, ht⟩
  case atomics =>
    intro r hword htarget old
    refine ⟨fun v => ?_, fun cmp new => ?_⟩
    · obtain ⟨t, rfl, ht⟩ := hi.atomic_resv (i := .add key va v) hwin hoff rfl rfl rfl hword htarget
      exact ⟨_, rfl, ht⟩
    · obtain ⟨t, rfl, ht⟩ := hi.atomic_resv (i := .swap key va cmp new) hwin hoff rfl rfl rfl hword htarget
      exact ⟨_, rfl, ht⟩
  case fabric =>
    intro w bs p u hwin hring hcairn hawake hok hmin hmax hpieces hsend
    have ht := hi.write_fabric hpieces hsend hwin hring hcairn hawake hok (rdmaLenOk_of_bounds hmin hmax)
    exact ⟨_, congrArg Host.Outcome.next ht, ⟨rfl, rfl, rfl⟩, rfl, rfl⟩
  case refused =>
    intro hwin bs n v hbmin hbmax hnmin hnmax i hmem
    obtain ⟨j, hkey, hlen, hexec⟩ : ∃ j : Inbound, j.rkey = key ∧ rdmaLenOk j.len = true ∧
        exec i s = .next (arrive s h qpn j false) := by
      simp only [List.mem_cons, List.not_mem_nil, or_false] at hmem
      obtain rfl | rfl | rfl := hmem
      · exact ⟨.write key va bs, rfl, rdmaLenOk_of_bounds hbmin hbmax, rfl⟩
      · exact ⟨.read key va n.toNat, rfl, rdmaLenOk_of_bounds hnmin hnmax, rfl⟩
      · exact ⟨.add key va v, rfl, rdmaLenOk_of_bounds (n := 8) (by decide) (by decide), rfl⟩
    obtain ⟨t, hrecords, hnak⟩ := hi.arrive_refused hlen (hkey ▸ hwin)
    obtain ⟨os, hos⟩ := hrecords.out
    refine ⟨_, os, hexec.trans (congrArg _ hnak), hrecords.keepsMem, hrecords.events.cores, ?_⟩
    exact congrArg (· ++ _) hos.symm
  case marked =>
    intro bs imm n v w f hmem
    have hmark := arrive_marked hq hready
    simp only [List.mem_cons, List.not_mem_nil, or_false] at hmem
    obtain rfl | rfl | rfl | rfl | rfl := hmem <;> exact congrArg Host.Outcome.next (hmark _)

end Sys2Proof.Machine

/-!
The reference clock, the comparison of panel reference counters and changes of step (R336 to R353, R357, R386): what one
check, comparison or phase of a change answers. A change orders rails and raises events; of the rest of the panel such orders
and events leave everything as it was, so each phase is told by what it makes of the clocks.
-/
namespace Sys2Proof.Machine

open Sys2Proof

/-! ## One tick (R338 to R340) -/

theorem step_of_pending_nil {s : State} (h : s.pending = []) : step s = .next (tick s) := by
  unfold step
  rw [h]

theorem prcWord_tick (s : State) : prcWord (tick s) = BitVec.ofNat 64 ((prcWord s).toNat + 1) := by
  rw [prcWord, prcWord, tick, BitVec.ofNat_add, BitVec.ofNat_add, BitVec.ofNat_toNat, BitVec.setWidth_eq]

/-- Settles O2: the step is a tick. -/
theorem emptyQueueTicks : Obligations.EmptyQueueTicks :=
  fun s h => ⟨tick s, step_of_pending_nil h, rfl, prcWord_tick s⟩

/-! ## The reference (R336, R337) -/

section
variable (s : State) (present : Bool) (ppm : Int)

/-- The check finds a reference that can be locked to. -/
def refGood : Bool := present && decide (-200 ≤ ppm) && decide (ppm ≤ 200)

/-- PRC since which a reference that is bad now has been bad. -/
def refBadSince : Nat := s.clk.refBadAt.getD s.prc

/-- The state in which a check has recorded a good reference. -/
def refSeen : State := { s with clk := { s.clk with refBadAt := none, refPpm := ppm, refOk := true } }

/-- The state in which a check has recorded a bad reference. -/
def refMissed : State :=
  { s with clk := { s.clk with
      refBadAt := some (refBadSince s), refPpm := if present then ppm else s.clk.refPpm, refOk := false } }

/-- The state in which a check has found the reference lost: the mesh holds. -/
def refLost : State :=
  dset { s with clk := { s.clk with
      refBadAt := some (refBadSince s), refPpm := if present then ppm else s.clk.refPpm, refOk := false
      refLostAt := some (s.clk.refLostAt.getD s.prc) } } 0x4000 5 1

/-- The state in which lock is regained. -/
def refLocked : State := dset { s with clk := { s.clk with refLostAt := none } } 0x4000 5 0

theorem refGood_eq_false : refGood present ppm = false ↔ present = false ∨ ppm < -200 ∨ 200 < ppm := by
  cases present
  case false => exact iff_of_true rfl (.inl rfl)
  case true =>
    rw [← Bool.not_eq_true]
    simp only [refGood, Bool.true_and, Bool.and_eq_true, decide_eq_true_eq, Bool.true_eq_false, false_or]
    omega

/-- An event that base-camp firmware alone raises. -/
theorem records_raise_if (up : Bool) (code part : Nat) (p : BitVec 128) :
    Records s (if up then raise s code part p else s) := by
  split
  · exact records_raise ..
  · exact .refl s

/-- An event leaves the state of the lock. -/
theorem Records.refState {s t : State} (h : Records s t) : refState t = refState s := 
  h.entries 0x4000 5 (by unfold notKept; decide)

variable {s present ppm}

theorem exec_refCheck_good (hlo : -200 ≤ ppm) (hhi : ppm ≤ 200) :
    exec (.refCheck true ppm) s =
      .next (if refState s = 1 then dset (refSeen s ppm) 0x4000 5 2 else refSeen s ppm) := by
  refine congrArg Host.Outcome.next (if_pos ?_)
  simp [hlo, hhi]

theorem exec_refCheck_waits (hbad : refGood present ppm = false)
    (hwait : refState s = 1 ∨ 2 * (s.prc - refBadSince s) < 3125) :
    exec (.refCheck present ppm) s = .next (refMissed s present ppm) := by
  refine congrArg Host.Outcome.next ((if_neg (Bool.eq_false_iff.1 hbad)).trans (if_neg ?_))
  rintro ⟨hfree, hlong⟩
  exact hwait.elim hfree (Nat.not_lt.2 hlong)

theorem exec_refCheck_loses (hbad : refGood present ppm = false) (hfree : refState s ≠ 1)
    (hlong : 3125 ≤ 2 * (s.prc - refBadSince s)) :
    ∃ t, exec (.refCheck present ppm) s = .next t ∧ Records (refLost s present ppm) t :=
  ⟨_, congrArg Host.Outcome.next ((if_neg (Bool.eq_false_iff.1 hbad)).trans (if_pos ⟨hfree, hlong⟩)), records_raise_if ..⟩

theorem exec_refRestored (h : refState s = 2) : ∃ t, exec .refRestored s = .next t ∧ Records (refLocked s) t :=
  ⟨_, congrArg Host.Outcome.next (if_pos h), records_raise_if ..⟩

theorem refCheck_bad_holds (hbad : present = false ∨ ppm < -200 ∨ 200 < ppm) (hfree : refState s ≠ 1)
    (hlong : 3125 ≤ 2 * (s.prc - refBadSince s)) :
    ∃ t, exec (.refCheck present ppm) s = .next t ∧ refState t = 1 ∧ t.clk.refOk = false ∧ t.cores = s.cores ∧
      KeepsMem s t ∧ t.prc = s.prc := by
  obtain ⟨t, hexec, hrec⟩ := exec_refCheck_loses ((refGood_eq_false ..).2 hbad) hfree hlong
  exact ⟨t, hexec, hrec.refState.trans (dget_dset_same ..), congrArg ClkSt.refOk hrec.events.clk, hrec.events.cores,
    hrec.keepsMem, hrec.events.prc⟩

theorem refCheck_good_relocks (hlo : -200 ≤ ppm) (hhi : ppm ≤ 200) :
    ∃ t, exec (.refCheck true ppm) s = .next t ∧ t.clk.refOk = true ∧ t.clk.refBadAt = none ∧
      refState t = (if refState s = 1 then 2 else refState s) ∧ t = { s with clk := t.clk, dict := t.dict } := by
  have hexec := exec_refCheck_good (s := s) hlo hhi
  by_cases hheld : refState s = 1
  · rw [if_pos hheld] at hexec ⊢
    exact ⟨_, hexec, rfl, rfl, dget_dset_same .., rfl⟩
  · rw [if_neg hheld] at hexec ⊢
    exact ⟨_, hexec, rfl, rfl, rfl, rfl⟩

theorem refRestored_locks (h : refState s = 2) :
    ∃ t, exec .refRestored s = .next t ∧ refState t = 0 ∧ t.clk.refLostAt = none ∧ t.cores = s.cores ∧ KeepsMem s t := by
  obtain ⟨t, hexec, hrec⟩ := exec_refRestored h
  exact ⟨t, hexec, hrec.refState.trans (dget_dset_same ..), congrArg ClkSt.refLostAt hrec.events.clk, hrec.events.cores,
    hrec.keepsMem⟩

end

/-! ## The comparison of counters (R342) -/

theorem aget_aput {α : Type} (k j : Nat) (x : α) (l : Assoc α) :
    aget j (aput k x l) = if j = k then some x else aget j l := by
  split
  case isTrue h => rw [h, aget_aput_same]
  case isFalse h => exact aget_aput_other h x l

section
variable (s : State) (d : DieNo) (skew : Int)

/-- The state in which the skew of a die is recorded. -/
def skewFound : State := { s with clk := { s.clk with skew := aput d skew s.clk.skew } }

theorem onlyEvents_recommend (part kind subject code : Nat) : OnlyEvents s (recommend s part kind subject code) :=
  onlyEvents_raise ..

theorem onlyEvents_recommendDie (die : Nat) : OnlyEvents s (recommendDie s die) := by
  unfold recommendDie
  split
  · exact onlyEvents_recommend ..
  · exact .foldl _ (fun _ _ => onlyEvents_recommend ..) _ _

/-- A comparison records the skew, and raises events where it is more than one tick. -/
theorem exec_prcSkewCheck (hup : firmwareUp s = true) :
    ∃ t, exec (.prcSkewCheck d skew) s = .next t ∧ OnlyEvents (skewFound s d skew) t := by
  refine ⟨_, congrArg Host.Outcome.next (if_pos hup), ?_⟩
  dsimp only
  split
  case isTrue => exact .refl _
  case isFalse => exact .trans (onlyEvents_raise ..) (onlyEvents_recommendDie ..)

theorem prcSkewCheck_records (hup : firmwareUp s = true) :
    ∃ t, exec (.prcSkewCheck d skew) s = .next t ∧ t.prc = s.prc ∧ KeepsMem s t ∧ t.cores = s.cores ∧
      ∀ e, aget e t.clk.skew = if e = d.val then some skew else aget e s.clk.skew := by
  obtain ⟨t, hexec, hev⟩ := exec_prcSkewCheck s d skew hup
  refine ⟨t, hexec, hev.prc, hev.keepsMem, hev.cores, fun e => ?_⟩
  rw [hev.clk]
  exact aget_aput ..

end

/-! ## The write of CLK_STATE (R357, R471, log 89) -/

theorem exec_registerWrite_clk {s : State} (hup : firmwareUp s = true) (d : DieNo) (v : Word) :
    exec (.registerWrite (.clk d) v) s =
      .next (if s.mgmt.bus.taken then waitBus s 0 else clkStateWrite s d.val v.toNat) :=
  congrArg Host.Outcome.next (if_pos hup)

/-! ## The statement about the reference -/

/-- Settles O46: each clause is what its check, comparison or write does. -/
theorem referenceAndCounters : Obligations.ReferenceAndCounters := by
  intro s
  refine ⟨fun present ppm hbad => ⟨refCheck_bad_holds hbad, fun hwait => ?waits⟩, fun ppm => refCheck_good_relocks,
    refRestored_locks, fun d skew => ⟨prcSkewCheck_records s d skew, fun hdown => ?unread⟩,
    fun d v hup => ⟨fun hfree => ?writes, fun htaken => ?busy⟩⟩
  case waits => exact ⟨_, exec_refCheck_waits ((refGood_eq_false ..).2 hbad) hwait, rfl, rfl, rfl⟩
  case unread => exact congrArg Host.Outcome.next (if_neg (Bool.eq_false_iff.1 hdown))
  case writes =>
    have hexec := exec_registerWrite_clk hup d v
    rw [hfree] at hexec
    exact ⟨_, hexec, rfl, fun _ => aget_aput ..⟩
  case busy =>
    have hexec := exec_registerWrite_clk hup d v
    rwa [htaken] at hexec

/-! ## What orders to the rails leave (R348, R361, R373) -/

/-- Nothing differs but what events reach and the power controllers. -/
def OnlyOrders (s t : State) : Prop :=
  t = { s with dict := t.dict, host := t.host, mgmt := t.mgmt, out := t.out, pwr := t.pwr }

section
variable {s t u : State}

theorem OnlyOrders.refl (s : State) : OnlyOrders s s := rfl

theorem OnlyOrders.trans (h : OnlyOrders s t) (g : OnlyOrders t u) : OnlyOrders s u := by
  unfold OnlyOrders at *
  rw [g, h]

theorem OnlyOrders.foldl {α : Type} {f : State → α → State} (hf : ∀ s a, OnlyOrders s (f s a)) (l : List α) (s : State) :
    OnlyOrders s (l.foldl f s) := by
  induction l generalizing s with
  | nil => exact .refl s
  | cons a l ih => exact (hf s a).trans (ih _)

theorem OnlyEvents.onlyOrders (h : OnlyEvents s t) : OnlyOrders s t := by
  unfold OnlyEvents at h
  unfold OnlyOrders
  rw [h]

section
variable (h : OnlyOrders s t)
include h

theorem OnlyOrders.clk : t.clk = s.clk := by rw [h]
theorem OnlyOrders.cores : t.cores = s.cores := by rw [h]
theorem OnlyOrders.keepsMem : KeepsMem s t := by rw [h]; exact ⟨rfl, rfl, rfl⟩

end

variable (s)

theorem onlyOrders_orderRail (site k : Nat) : OnlyOrders s (orderRail s site k) := rfl

theorem onlyOrders_orderRails (die : Option Nat) (k : Nat) : OnlyOrders s (orderRails s die k) := by
  unfold orderRails
  split
  · split
    · exact onlyOrders_orderRail ..
    · exact .refl s
  · exact .foldl (fun _ _ => onlyOrders_orderRail ..) _ _

theorem onlyOrders_applyFall (r : Nat) : OnlyOrders s (applyFall s r) :=
  .trans (t := modRegion s r _) rfl (onlyEvents_raise ..).onlyOrders

theorem onlyOrders_applyFalls (r : Nat) : OnlyOrders s (applyFalls s r) := by
  unfold applyFalls
  split
  · exact .foldl (fun _ _ => onlyOrders_applyFall ..) _ _
  · exact .refl s

end

/-! ## A change is armed (R346 to R348, R353, R386) -/

/-- The change of the panel step to k that has the least lead. -/
def panelChange (s : State) (k : Nat) : Change := ⟨none, k, s.prc + dget s 0x4000 4, [], false, false⟩

/-- The state with a change armed. -/
def changeArmed (s : State) (g : Change) : State := { s with clk := { s.clk with change := some g, cancelled := none } }

section
variable {s : State} {k : Nat}

/-- Arming orders the voltage of a rise up first. -/
theorem onlyOrders_armChange (s : State) (k : Nat) :
    OnlyOrders (changeArmed s (panelChange s k)) (armChange s none k) := by
  have hlead : max 0 (s.prc + dget s 0x4000 4) = s.prc + dget s 0x4000 4 := Nat.zero_max _
  simp only [armChange, armAt, hlead]
  split
  · exact onlyOrders_orderRails ..
  · exact .refl _

theorem onlyOrders_armRise (s : State) (k : Nat) : OnlyOrders (changeArmed s (panelChange s k)) (armRise s k) := by
  refine .trans ?_ (onlyOrders_armChange _ k)
  rfl

/-- A change is permitted to every step in reach that is no rise, or that is one by the rules after a quench. -/
theorem panelStepOk_iff : panelStepOk s k = true ↔
    (s.pwr.quench = none ∧ k ≠ s.clk.step ∧ k ≤ s.pwr.limits.step) ∧
      (k ≤ s.clk.step ∨ slowOk s = true ∧ (s.pwr.slowRise = false ∨ k = s.clk.step + 1)) := by
  simp [panelStepOk, and_assoc]

theorem slowOk_of_not_slowRise (h : s.pwr.slowRise = false) : slowOk s = true := by
  simp [slowOk, h]

/-- Of the changes in reach, the slow rise alone restricts any (R386). -/
theorem panelStepOk_iff_of_reach (hcalm : s.pwr.quench = none) (hother : k ≠ s.clk.step) (hlimit : k ≤ s.pwr.limits.step) :
    panelStepOk s k = true ↔
      ¬(s.pwr.slowRise = true ∧ s.clk.step < k) ∨ slowOk s = true ∧ k = s.clk.step + 1 := by
  rw [panelStepOk_iff, and_iff_right ⟨hcalm, hother, hlimit⟩]
  cases hslow : s.pwr.slowRise
  case false => simp [slowOk_of_not_slowRise hslow]
  case true => simp

theorem exec_changeArm_panel (hmay : mayArm s = true) (step : BitVec 4) (hok : panelStepOk s step.toNat = true) :
    ∃ t, exec (.changeArm none step) s = .next t ∧ OnlyOrders (changeArmed s (panelChange s step.toNat)) t := by
  refine ⟨_, congrArg Host.Outcome.next (if_pos ?_), ?_⟩
  · rw [hmay, hok]; rfl
  · split
    · exact onlyOrders_armRise ..
    · exact onlyOrders_armChange ..

theorem exec_changeArm_refused (step : BitVec 4) (hno : panelStepOk s step.toNat = false) :
    exec (.changeArm none step) s = .next s := by
  refine congrArg Host.Outcome.next (if_neg ?_)
  simp [hno]

theorem changeArm_arms (hmay : mayArm s = true) (step : BitVec 4) (hok : panelStepOk s step.toNat = true) :
    ∃ t g, exec (.changeArm none step) s = .next t ∧ t.clk.change = some g ∧ g.step = step.toNat ∧ g.die = none ∧
      g.acks = [] ∧ g.stopped = false ∧ s.prc + dget s 0x4000 4 ≤ g.at_ ∧ t.clk.step = s.clk.step ∧ t.cores = s.cores := by
  obtain ⟨t, hexec, hord⟩ := exec_changeArm_panel hmay step hok
  have hclk := hord.clk
  exact ⟨t, panelChange s step.toNat, hexec, by rw [hclk]; rfl, rfl, rfl, rfl, rfl, Nat.le_refl _,
    by rw [hclk]; rfl, hord.cores⟩

end

/-! ## A change in flight (R348 to R350) -/

section
variable {s : State} {g : Change}

theorem exec_changeAck (hg : s.clk.change = some g) (hrun : g.stopped = false) (d : DieNo) (hd : g.covers d = true) :
    ∃ t, exec (.changeAck d) s = .next t ∧ t = { s with clk := t.clk } ∧ t.clk.change = some (g.ack d) := by
  refine ⟨_, rfl, rfl, ?_⟩
  simp [hg, hd, hrun]

/-- The acknowledgements of a change take each die once. -/
theorem ack_eq (g : Change) (d : Nat) : g.ack d = { g with acks := if g.acks.contains d then g.acks else g.acks ++ [d] } := by
  unfold Change.ack
  split <;> rfl

theorem cancelChange_cancels (s : State) (g : Change) (cause : Nat) :
    OnlyOrders { s with clk := { s.clk with change := none, cancelled := some { g with acks := [] } } }
      (cancelChange s g cause) := by
  have hback : OnlyOrders s (if rises s g then orderRails s g.die (stepBefore s g) else s) := by
    split
    · exact onlyOrders_orderRails ..
    · exact .refl s
  refine .trans ?_ (onlyEvents_raise ..).onlyOrders
  rw [hback.clk]
  unfold OnlyOrders at hback ⊢
  rw [hback]

/-- At C less 5 us a change is cancelled for an acknowledgement that is missing, else for a rise that has not settled. -/
theorem exec_changeDeadline (hg : s.clk.change = some g) (hrun : g.stopped = false) (hdue : g.at_ ≤ s.prc + usTicks 5)
    (settled : Bool) :
    exec (.changeDeadline settled) s = .next
      (if (firstMissing s g).isSome then cancelChange s g 1
        else if rises s g && !settled then cancelChange s g 3 else s) := by
  have hnow : ¬(g.stopped = true ∨ s.prc + usTicks 5 < g.at_) := by
    rw [hrun]
    simpa using hdue
  show execChangeDeadline settled s = _
  simp only [execChangeDeadline, hg, if_neg hnow]

theorem exec_changeStop (hg : s.clk.change = some g) (hrun : g.stopped = false) (hdue : g.at_ ≤ s.prc)
    (hall : firstMissing s g = none) :
    exec .changeStop s = .next { s with clk := { s.clk with change := some { g with stopped := true } } } := by
  show execChangeStop s = _
  simp only [execChangeStop, hg, hrun, hdue, hall, and_self, if_true]

end

/-! ## The resume (R348, R351) -/

/-- The clocks once a change of the panel step is done: the dies that have not re-locked wait from its C. -/
def ClkSt.resumed (k : ClkSt) (g : Change) (unlocked : List Nat) : ClkSt :=
  { k with
    step := g.step, changesAll := k.changesAll + 1, lastResume := some (g.at_ + 320)
    late := k.late ++ unlocked.map fun d => (d, g.at_) }

section
variable {s : State} {g : Change}

theorem onlyOrders_finishChange (s : State) (hall : g.die = none) (unlocked : List Nat) :
    OnlyOrders { s with clk := s.clk.resumed g unlocked } (finishChange s g unlocked) := by
  have hcovers : (unlocked.filter fun d => g.covers d) = unlocked :=
    List.filter_eq_self.2 fun d _ => by simp [Change.covers, hall]
  simp only [finishChange, hall, hcovers]
  exact .trans (onlyEvents_raise ..).onlyOrders
    (.trans (.foldl (fun _ _ => onlyOrders_applyFalls ..) _ _) (onlyOrders_orderRails ..))

theorem exec_changeResume (hg : s.clk.change = some g) (hstop : g.stopped = true) (hdue : g.at_ + 320 ≤ s.prc)
    (u : List DieNo) :
    exec (.changeResume u) s =
      .next (finishChange { s with clk := { s.clk with change := none } } g (u.map Fin.val)) := by
  show execChangeResume u s = _
  simp only [execChangeResume, hg, if_pos (And.intro hstop hdue)]

theorem changeResume_resumes (hg : s.clk.change = some g) (hstop : g.stopped = true) (hall : g.die = none)
    (hdue : g.at_ + 320 ≤ s.prc) (u : List DieNo) :
    ∃ t, exec (.changeResume u) s = .next t ∧ t.clk.change = none ∧ t.clk.step = g.step ∧
      t.clk.lastResume = some (g.at_ + 320) ∧ t.clk.late = s.clk.late ++ u.map (fun d => (d.val, g.at_)) ∧
      t.clk.changesAll = s.clk.changesAll + 1 ∧ KeepsMem s t := by
  have hord := onlyOrders_finishChange { s with clk := { s.clk with change := none } } hall (u.map Fin.val)
  refine ⟨_, exec_changeResume hg hstop hdue u, ?_⟩
  rw [hord.clk]
  refine ⟨rfl, rfl, rfl, ?_, rfl, hord.keepsMem⟩
  exact congrArg (s.clk.late ++ ·) List.map_map

end

/-! ## A die that has not re-locked (R351) -/

/-- The clocks once a die has fallen back: it is pinned, it waits no longer, and its failure is counted. -/
def ClkSt.fallenBack (k : ClkSt) (d : Nat) : ClkSt :=
  { k with
    late := k.late.filter fun x => x.1 != d
    pinned := d :: k.pinned.filter fun x => x != d
    lockPin := d :: k.lockPin.filter fun x => x != d
    lockFail := aput d (min 0xFFFF (agetD d 0 k.lockFail + 1)) k.lockFail }

section
variable {s : State} {d : DieNo} {c : Nat}

theorem exec_relockFallback (hlate : s.clk.late.find? (fun x => x.1 == d.val) = some (d.val, c)) (hdue : c + 640 ≤ s.prc) :
    ∃ t, exec (.relockFallback d) s = .next t ∧ OnlyEvents { s with clk := s.clk.fallenBack d } t := by
  refine ⟨_, ?_, onlyEvents_raise _ 0x0603 0xFF (pf 0 9 d ||| pf 64 64 c)⟩
  show execRelockFallback d s = _
  simp only [execRelockFallback, hlate, if_neg (Nat.not_lt.2 hdue)]
  rfl

theorem relockFallback_pins (hlate : s.clk.late.find? (fun x => x.1 == d.val) = some (d.val, c))
    (hdue : c + 640 ≤ s.prc) :
    ∃ t, exec (.relockFallback d) s = .next t ∧ dieStep t d = 0 ∧ d.val ∈ t.clk.lockPin ∧
      t.clk.late.find? (fun x => x.1 == d.val) = none ∧ t.clk.step = s.clk.step ∧ KeepsMem s t := by
  obtain ⟨t, hexec, hev⟩ := exec_relockFallback hlate hdue
  refine ⟨t, hexec, ?_⟩
  rw [dieStep, hev.clk]
  exact ⟨by simp [ClkSt.fallenBack], List.mem_cons_self .., by simp [ClkSt.fallenBack], rfl, hev.keepsMem⟩

end

/-! ## A cancel (R350) -/

theorem exec_changeCancel {s : State} {g : Change} (hg : s.clk.cancelled = some g) (d : DieNo) (hd : g.covers d = true) :
    ∃ t, exec (.changeCancel d) s = .next t ∧ t = { s with clk := t.clk } ∧
      t.clk.cancelled = if (firstMissing s (g.ack d)).isSome then some (g.ack d) else none := by
  refine ⟨_, rfl, rfl, ?_⟩
  simp [hg, hd]

/-! ## The statement about changes of step -/

/-- Settles O47: each clause is what its phase of a change does. -/
theorem stepChanges : Obligations.StepChanges := by
  intro s
  refine ⟨fun step hmay hcalm hother hlimit => ?arm, fun g hg hrun => ⟨fun d hd => ?ack, fun settled hdue => ?deadline,
    exec_changeStop hg hrun⟩, fun g hg hstop hall hdue => changeResume_resumes hg hstop hall hdue,
    fun d c => relockFallback_pins, fun d g hg => exec_changeCancel hg d⟩
  case arm =>
    have hok := panelStepOk_iff_of_reach hcalm hother hlimit
    refine ⟨fun hfree => changeArm_arms hmay step (hok.2 hfree), fun hslow hno => exec_changeArm_refused step ?_⟩
    rw [← Bool.not_eq_true, hok]
    rintro (hfast | ⟨hflow, hone⟩)
    · exact hfast hslow
    · exact hno.elim (fun hlow => by simp [hflow] at hlow) fun hmore => hmore hone
  case ack =>
    rw [← ack_eq]
    exact exec_changeAck hg hrun d hd
  case deadline =>
    have hexec := exec_changeDeadline hg hrun hdue settled
    refine ⟨fun hfault => ?cancels, fun hall hsettled => ?stays⟩
    case cancels =>
      obtain ⟨cause, hcause⟩ : ∃ cause, exec (.changeDeadline settled) s = .next (cancelChange s g cause) := by
        by_cases hmiss : (firstMissing s g).isSome = true
        · exact ⟨1, hexec.trans (by rw [if_pos hmiss])⟩
        · obtain ⟨hrise, hunsettled⟩ := hfault.resolve_left hmiss
          exact ⟨3, hexec.trans (by rw [if_neg hmiss, hrise, hunsettled]; rfl)⟩
      have hord := cancelChange_cancels s g cause
      refine ⟨_, hcause, ?_⟩
      rw [hord.clk]
      exact ⟨rfl, rfl, rfl, hord.keepsMem⟩
    case stays =>
      rw [hexec, hall]
      obtain hfall | hdone := hsettled
      · rw [hfall]; rfl
      · rw [hdone, Bool.not_true, Bool.and_false]; rfl

end Sys2Proof.Machine

/-!
Fields of a number, and what an event leaves: the entries of the dictionary that it does not count in, and of the management
unit all but the logs.
-/
namespace Sys2Proof.Machine

open Sys2Proof

/-! ## Fields of a number (R9) -/

section
variable {n hi lo v : Nat}

theorem bit_eq_testBit (n k : Nat) : bit n k = n.testBit k := by
  rw [Nat.testBit_eq_decide_div_mod_eq]; exact Bool.beq_eq_decide_eq ..

theorem testBit_bits (n hi lo i : Nat) : (bits n hi lo).testBit i = (decide (i < hi + 1 - lo) && n.testBit (i + lo)) := by
  rw [bits, Nat.testBit_mod_two_pow, Nat.testBit_div_two_pow]

/-- A number with a field replaced: what lies below the field, the field, and what lies above. -/
theorem setBits_eq (h : lo ≤ hi + 1) :
    setBits n hi lo v = 2 ^ lo * (2 ^ (hi + 1 - lo) * (n / 2 ^ (hi + 1)) + v % 2 ^ (hi + 1 - lo)) + n % 2 ^ lo := by
  obtain ⟨w, hw⟩ : ∃ w, hi + 1 = lo + w := ⟨hi + 1 - lo, by omega⟩
  have hdiv : n / 2 ^ lo / 2 ^ w = n / 2 ^ (lo + w) := by rw [Nat.div_div_eq_div_mul, Nat.pow_add]
  have hhigh := Nat.div_add_mod (n / 2 ^ lo) (2 ^ w)
  have hsplit := Nat.div_add_mod n (2 ^ lo)
  have hsub : lo + w - lo = w := by omega
  unfold setBits bits
  rw [hw, hsub, ← hdiv]
  generalize 2 ^ lo = p at *
  generalize 2 ^ w = q at *
  generalize hm : n / p = m at *
  have hsum : p * (q * (m / q)) + p * (m % q) = p * m := by rw [← Nat.mul_add, hhigh]
  rw [Nat.mul_add, Nat.mul_comm (m % q) p, Nat.mul_comm (v % q) p]
  omega

theorem testBit_setBits (h : lo ≤ hi + 1) (i : Nat) :
    (setBits n hi lo v).testBit i = if lo ≤ i ∧ i ≤ hi then v.testBit (i - lo) else n.testBit i := by
  have hlow : n % 2 ^ lo < 2 ^ lo := Nat.mod_lt _ (Nat.two_pow_pos lo)
  have hfield : v % 2 ^ (hi + 1 - lo) < 2 ^ (hi + 1 - lo) := Nat.mod_lt _ (Nat.two_pow_pos _)
  rw [setBits_eq h, Nat.testBit_two_pow_mul_add _ hlow, Nat.testBit_two_pow_mul_add _ hfield]
  by_cases hbelow : i < lo
  · rw [if_pos hbelow, if_neg (by omega), Nat.testBit_mod_two_pow, decide_eq_true hbelow, Bool.true_and]
  · rw [if_neg hbelow]
    by_cases hin : i ≤ hi
    · rw [if_pos (by omega), if_pos (by omega), Nat.testBit_mod_two_pow, decide_eq_true (by omega), Bool.true_and]
    · rw [if_neg (by omega), if_neg (by omega), Nat.testBit_div_two_pow]
      congr 1
      omega

/-- A field that lies apart from the replaced one. -/
theorem bits_setBits_other {hi' lo' : Nat} (h : lo ≤ hi + 1) (hapart : hi' < lo ∨ hi < lo') :
    bits (setBits n hi lo v) hi' lo' = bits n hi' lo' := by
  refine Nat.eq_of_testBit_eq fun i => ?_
  rw [testBit_bits, testBit_bits, testBit_setBits h]
  by_cases hi : i < hi' + 1 - lo'
  · rw [if_neg (by omega)]
  · rw [decide_eq_false hi, Bool.false_and, Bool.false_and]

theorem bit_setBits_other {k : Nat} (h : lo ≤ hi + 1) (hapart : k < lo ∨ hi < k) : bit (setBits n hi lo v) k = bit n k := by
  rw [bit_eq_testBit, bit_eq_testBit, testBit_setBits h, if_neg (by omega)]

theorem bit_setBits_single (n k v : Nat) : bit (setBits n k k v) k = bit v 0 := by
  rw [bit_eq_testBit, bit_eq_testBit, testBit_setBits (by omega), if_pos (by omega), Nat.sub_self]

/-- A field of a number with a bit added that lies apart from it. -/
theorem bits_add_two_pow {q : Nat} (h : bit n q = false) (hapart : hi < q ∨ q < lo) :
    bits (n + 2 ^ q) hi lo = bits n hi lo := by
  refine Nat.eq_of_testBit_eq fun i => ?_
  rw [testBit_bits, testBit_bits, ← bit_eq_testBit (n + 2 ^ q), bit_add_two_pow h, bit_eq_testBit]
  by_cases hi : i < hi + 1 - lo
  · have hne : (i + lo == q) = false := beq_false_of_ne (by omega)
    rw [hne, Bool.or_false]
  · rw [decide_eq_false hi, Bool.false_and, Bool.false_and]

/-- Field j of four bits, as the fields of a repair word are read (R25). -/
theorem div_pow_mod_eq_bits (n j : Nat) : n / 16 ^ j % 16 = bits n (4 * j + 3) (4 * j) := by
  rw [bits, show (16 : Nat) = 2 ^ 4 from rfl, ← Nat.pow_mul, show 4 * j + 3 + 1 - 4 * j = 4 by omega]

end

/-! ## Entries of the dictionary -/

/-- Of the dictionary's stored entries none differs outside a set of slots. -/
def DictBut (slots : Nat → Prop) (s t : State) : Prop := ∀ k, ¬slots k → aget k t.dict = aget k s.dict

section
variable {slots : Nat → Prop} {s t u : State}

theorem DictBut.refl (s : State) : DictBut slots s s := fun _ _ => rfl

theorem DictBut.trans (h : DictBut slots s t) (g : DictBut slots t u) : DictBut slots s u :=
  fun k hk => (g k hk).trans (h k hk)

theorem DictBut.foldl {α : Type} {f : State → α → State} (hf : ∀ s a, DictBut slots s (f s a)) (l : List α) (s : State) :
    DictBut slots s (l.foldl f s) := by
  induction l generalizing s with
  | nil => exact .refl s
  | cons a l ih => exact (hf s a).trans (ih _)

theorem DictBut.dget (h : DictBut slots s t) {i j : Nat} (hk : ¬slots (cairnSlot i j)) :
    Machine.dget t i j = Machine.dget s i j := by
  unfold Machine.dget
  rw [h _ hk]

theorem DictBut.of_dict (h : t.dict = s.dict) : DictBut slots s t := fun k _ => by rw [h]

theorem dictBut_dset (s : State) {i j : Nat} (h : slots (cairnSlot i j)) (v : Nat) : DictBut slots s (dset s i j v) :=
  fun _ hk => aget_aput_other (by rintro rfl; exact hk h) ..

theorem dictBut_dbump (s : State) {i j : Nat} (h : slots (cairnSlot i j)) (hi lo : Nat) :
    DictBut slots s (dbump s i j hi lo) := by
  simp only [dbump]
  split
  · exact dictBut_dset s h _
  · exact .refl s

end

/-! ## What an event leaves (R325, R489, R490) -/

/-- The slot of the counter of records not kept. -/
def notKeptSlot (k : Nat) : Prop := k = cairnSlot 0x9000 6

/-- Of the management unit nothing differs but the logs. -/
def OnlyLogs (m m' : MgmtSt) : Prop :=
  m' = { m with log := m'.log, logNext := m'.logNext, kept := m'.kept, keepNext := m'.keepNext, keptBoot := m'.keptBoot }

/-- Events are raised: records go into the logs and rings, the rest of the management unit and of the dictionary stays. -/
structure Raises (s t : State) : Prop extends Records s t where
  mgmt : OnlyLogs s.mgmt t.mgmt
  dict : DictBut notKeptSlot s t

section
variable {s t u : State}

theorem OnlyLogs.trans {m m' m'' : MgmtSt} (h : OnlyLogs m m') (g : OnlyLogs m' m'') : OnlyLogs m m'' := by
  unfold OnlyLogs at *
  rw [g, h]

theorem Raises.refl (s : State) : Raises s s := ⟨.refl s, rfl, .refl s⟩

theorem Raises.trans (h : Raises s t) (g : Raises t u) : Raises s u :=
  ⟨h.toRecords.trans g.toRecords, h.mgmt.trans g.mgmt, h.dict.trans g.dict⟩

theorem Raises.foldl {α : Type} {f : State → α → State} (hf : ∀ s a, Raises s (f s a)) (l : List α) (s : State) :
    Raises s (l.foldl f s) := by
  induction l generalizing s with
  | nil => exact .refl s
  | cons a l ih => exact (hf s a).trans (ih _)

variable (s) in
theorem raises_logEv (e : Ev) : Raises s (logEv s e) := by
  refine ⟨records_logEv s e, ?mgmt, ?dict⟩
  case mgmt =>
    simp only [logEv]
    split
    · split
      · rfl
      · unfold dbump
        dsimp only
        split <;> rfl
    · rfl
  case dict =>
    simp only [logEv]
    split
    · split
      · exact .of_dict rfl
      · exact fun k hk => dictBut_dbump (slots := notKeptSlot) _ rfl _ _ k hk
    · exact .of_dict rfl

variable (s) in
theorem raises_eringAsync (r : Nat) (e : Ev) : Raises s (eringAsync s r e) := by
  have hput : (eringPut s r e).mgmt = s.mgmt ∧ (eringPut s r e).dict = s.dict := by
    unfold eringPut
    split <;> exact ⟨rfl, rfl⟩
  refine ⟨records_eringAsync s r e, ?mgmt, .of_dict ?dict⟩
  case mgmt =>
    unfold eringAsync
    split
    · rw [hput.1]; rfl
    · rfl
  case dict =>
    unfold eringAsync
    split
    · exact hput.2
    · rfl

variable (s) in
theorem raises_raiseEv (e : Ev) : Raises s (raiseEv s e) := by
  refine (raises_logEv s e).trans (.foldl (fun t r => ?_) _ _)
  split
  · exact raises_eringAsync ..
  · exact .refl t

theorem raises_raiseD (s : State) (d : Bool) (code part : Nat) (p : BitVec 128) : Raises s (raiseD s d code part p) :=
  raises_raiseEv ..

theorem raises_raise (s : State) (code part : Nat) (p : BitVec 128) : Raises s (raise s code part p) := raises_raiseEv ..

theorem raises_recommend (s : State) (part kind subject code : Nat) : Raises s (recommend s part kind subject code) :=
  raises_raiseEv ..

/-- A stored entry is read as before, but for the counter of records not kept. -/
theorem Raises.dget (h : Raises s t) {i j : Nat} (hk : cairnSlot i j ≠ cairnSlot 0x9000 6) :
    Machine.dget t i j = Machine.dget s i j := h.dict.dget hk

end

end Sys2Proof.Machine

/-! The step that runs the front of the queue. -/
namespace Sys2Proof.Machine

open Sys2Proof

theorem step_of_pending_cons {s : State} {c : Instr} {cs : List Instr} (h : s.pending = c :: cs) :
    step s = exec c { s with pending := cs } := by
  unfold step
  rw [h]

/-- Settles O1: the step takes the command that waits first. -/
theorem stepRunsFront : Obligations.StepRunsFront := fun _ _ _ => step_of_pending_cons

end Sys2Proof.Machine

/-!
Rails and regions (R362 to R373): what an update of one leaves of the others, what a throttle, a grant and a slice do to them,
and what the power controllers answer.
-/
namespace Sys2Proof.Machine

open Sys2Proof

/-! ## A rail or region after an update -/

section
variable (s : State)

@[simp] theorem rail_setRail_same (k : Nat) (x : Rail) : rail (setRail s k x) k = x := agetD_aput_same ..

@[simp] theorem region_setRegion_same (k : Nat) (x : RegionPwr) : region (setRegion s k x) k = x := agetD_aput_same ..

theorem rail_setRail (k j : Nat) (x : Rail) : rail (setRail s k x) j = if j = k then x else rail s j := agetD_aput ..

theorem region_setRegion (k j : Nat) (x : RegionPwr) : region (setRegion s k x) j = if j = k then x else region s j :=
  agetD_aput ..

@[simp] theorem rail_setRegion (k j : Nat) (x : RegionPwr) : rail (setRegion s k x) j = rail s j := rfl

@[simp] theorem region_setRail (k j : Nat) (x : Rail) : region (setRail s k x) j = region s j := rfl

@[simp] theorem modRail_eq (k : Nat) (f : Rail → Rail) : modRail s k f = setRail s k (f (rail s k)) := rfl

@[simp] theorem modRegion_eq (k : Nat) (f : RegionPwr → RegionPwr) : modRegion s k f = setRegion s k (f (region s k)) := rfl

end

section
variable {s t : State}

theorem rail_of_pwr (h : t.pwr = s.pwr) (k : Nat) : rail t k = rail s k := by rw [rail, h, ← rail]

theorem region_of_pwr (h : t.pwr = s.pwr) (r : Nat) : region t r = region s r := by rw [region, h, ← region]

theorem OnlyEvents.rail (h : OnlyEvents s t) (k : Nat) : Machine.rail t k = Machine.rail s k := rail_of_pwr h.pwr k

theorem OnlyEvents.region (h : OnlyEvents s t) (r : Nat) : Machine.region t r = Machine.region s r := region_of_pwr h.pwr r

/-- An update of a rail that leaves what f reads of it. -/
theorem field_modRail {α : Type} (f : Rail → α) {k : Nat} {g : Rail → Rail} (j : Nat) (h : ∀ x, f (g x) = f x) :
    f (rail (modRail s k g) j) = f (rail s j) := by
  rw [modRail, rail_setRail]
  split
  case isTrue hj => rw [h, hj]
  case isFalse => rfl

theorem field_modRegion {α : Type} (f : RegionPwr → α) {k : Nat} {g : RegionPwr → RegionPwr} (j : Nat)
    (h : ∀ x, f (g x) = f x) : f (region (modRegion s k g) j) = f (region s j) := by
  rw [modRegion, region_setRegion]
  split
  case isTrue hj => rw [h, hj]
  case isFalse => rfl

end

/-! ## Throttles (R367) -/

section
variable (s : State) (d scope : Nat)

/-- The state in which a throttle that was not on has begun. -/
def throttled : State :=
  modRail (setThr s d scope 2) (siteOfDie d) fun r => { r with throttleCnt := min 0xFFFF (r.throttleCnt + 1) }

theorem startThrottle_on (h : (limiter s d scope).thr ≠ 0) : startThrottle s d scope = s := if_pos h

theorem startThrottle_off (h : (limiter s d scope).thr = 0) : OnlyEvents (throttled s d scope) (startThrottle s d scope) := by
  unfold startThrottle
  simp only [h, ne_eq, not_true, if_false]
  split
  · exact onlyEvents_raise ..
  · exact .refl _

theorem limiter_rail : limiter s d 2 =
    ⟨(rail s (siteOfDie d)).win, (rail s (siteOfDie d)).thr, (rail s (siteOfDie d)).thrAt, railLimit s (siteOfDie d)⟩ := rfl

variable {scope} in
theorem limiter_region (h : scope ≠ 2) : limiter s d scope =
    ⟨(region s (2 * d + scope)).win, (region s (2 * d + scope)).thr, (region s (2 * d + scope)).thrAt,
      regionLimit (region s (2 * d + scope))⟩ := if_neg h

theorem setThr_pwr (n : Nat) : setThr s d scope n = { s with pwr := (setThr s d scope n).pwr } := by
  unfold setThr
  split <;> rfl

theorem limiter_setThr (n : Nat) : (limiter (setThr s d scope n) d scope).thr = n := by
  by_cases hscope : scope = 2
  · subst hscope; simp [setThr, limiter_rail]
  · simp [setThr, limiter_region _ _ hscope, hscope]

theorem onlyOrders_startThrottle : OnlyOrders s (startThrottle s d scope) := by
  by_cases h : (limiter s d scope).thr = 0
  · refine .trans ?_ (startThrottle_off s d scope h).onlyOrders
    unfold throttled setThr
    split <;> rfl
  · rw [startThrottle_on s d scope h]; exact .refl s

/-- Of the rails a throttle changes the withheld cycles and the count alone. -/
theorem win_rail_startThrottle (k : Nat) : (rail (startThrottle s d scope) k).win = (rail s k).win := by
  by_cases h : (limiter s d scope).thr = 0
  · have hset : (rail (setThr s d scope 2) k).win = (rail s k).win := by
      unfold setThr
      split
      · refine field_modRail Rail.win k fun _ => ?_
        rfl
      · rfl
    rw [(startThrottle_off s d scope h).rail, ← hset]
    refine field_modRail Rail.win k fun _ => ?_
    rfl
  · rw [startThrottle_on s d scope h]

theorem region_startThrottle_rail (r : Nat) : region (startThrottle s d 2) r = region s r := by
  by_cases h : (limiter s d 2).thr = 0
  · rw [(startThrottle_off s d 2 h).region]; rfl
  · rw [startThrottle_on s d 2 h]

section
variable {scope} (hscope : scope ≠ 2)
include hscope

/-- Of the regions a throttle changes the withheld cycles of its own. -/
theorem field_startThrottle {α : Type} (f : RegionPwr → α) (hf : ∀ x n p, f { x with thr := n, thrAt := p } = f x) (r : Nat) :
    f (region (startThrottle s d scope) r) = f (region s r) := by
  by_cases h : (limiter s d scope).thr = 0
  · rw [(startThrottle_off s d scope h).region, throttled, modRail_eq, region_setRail, setThr, if_neg hscope]
    exact field_modRegion f r fun _ => hf ..
  · rw [startThrottle_on s d scope h]

theorem region_startThrottle_other {r : Nat} (hr : r ≠ 2 * d + scope) : region (startThrottle s d scope) r = region s r := by
  by_cases h : (limiter s d scope).thr = 0
  · rw [(startThrottle_off s d scope h).region, throttled, modRail_eq, region_setRail, setThr, if_neg hscope, modRegion_eq,
      region_setRegion, if_neg hr]
  · rw [startThrottle_on s d scope h]

theorem thr_rail_startThrottle (k : Nat) : (rail (startThrottle s d scope) k).thr = (rail s k).thr := by
  by_cases h : (limiter s d scope).thr = 0
  · have hset : rail (setThr s d scope 2) k = rail s k := by rw [setThr, if_neg hscope]; rfl
    rw [(startThrottle_off s d scope h).rail, ← hset]
    refine field_modRail Rail.thr k fun _ => ?_
    rfl
  · rw [startThrottle_on s d scope h]

theorem thr_region_startThrottle : (region (startThrottle s d scope) (2 * d + scope)).thr ≠ 0 := by
  have hlim : (limiter s d scope).thr = (region s (2 * d + scope)).thr := by rw [limiter_region s d hscope]
  by_cases h : (limiter s d scope).thr = 0
  · rw [(startThrottle_off s d scope h).region, throttled, modRail_eq, region_setRail, setThr, if_neg hscope, modRegion_eq,
      region_setRegion_same]
    exact Nat.succ_ne_zero 1
  · rwa [startThrottle_on s d scope h, ← hlim]

end

theorem thr_startThrottle_rail (h : (rail s (siteOfDie d)).thr = 0) : (rail (startThrottle s d 2) (siteOfDie d)).thr = 2 := by
  have hset : (rail (setThr s d 2 2) (siteOfDie d)).thr = 2 := by simp [setThr]
  rw [(startThrottle_off s d 2 h).rail]
  refine (field_modRail Rail.thr _ fun _ => ?_).trans hset
  rfl

end

/-! ## Grants of headroom (R372) -/

section
variable (s : State) (r : Nat)

/-- A grant changes one request alone. -/
theorem grantHead_cases : grantHead s r = s ∨
    ∃ t b, (region s r).head = .waiting t b ∧
      grantHead s r = modRegion s r fun x => { x with head := .granted none } := by
  unfold grantHead
  split
  case h_1 t b hhead =>
    split
    · exact .inr ⟨t, b, hhead, rfl⟩
    · exact .inl rfl
  case h_2 => exact .inl rfl

theorem onlyOrders_grantHead : OnlyOrders s (grantHead s r) := by
  obtain h | ⟨_, _, -, h⟩ := grantHead_cases s r
  · rw [h]; exact .refl s
  · rw [h]; rfl

theorem rail_grantHead (k : Nat) : rail (grantHead s r) k = rail s k := by
  obtain h | ⟨_, _, -, h⟩ := grantHead_cases s r <;> rw [h]
  rfl

theorem field_grantHead {α : Type} (f : RegionPwr → α) (hf : ∀ x y, f { x with head := y } = f x) (j : Nat) :
    f (region (grantHead s r) j) = f (region s j) := by
  obtain h | ⟨_, _, -, h⟩ := grantHead_cases s r <;> rw [h]
  exact field_modRegion f j fun _ => hf ..

end

/-! ## CURRENT_SAMPLE (R366, R367) -/

section
variable (s : State) (d : CellDie) (a b0 b1 : Nat)

/-- The state in which the windows of the rail and the regions of a die have taken a sample. -/
def sampled : State :=
  setRegion (setRegion (setRail s (siteOfDie d) { rail s (siteOfDie d) with win := sampleIn (rail s (siteOfDie d)).win a })
    (2 * d.val) { region s (2 * d.val) with win := sampleIn (region s (2 * d.val)).win b0 })
    (2 * d.val + 1) { region s (2 * d.val + 1) with win := sampleIn (region s (2 * d.val + 1)).win b1 }

/-- A limit whose mean is exceeded begins to throttle. -/
def limitStep (t : State) (k : Nat) : State := if (limiter t d k).isOver then startThrottle t d k else t

theorem exec_currentSample : exec (.currentSample d a b0 b1) s = .next
    (grantHead (grantHead (limitStep d (limitStep d (limitStep d (sampled s d a b0 b1) 2) 0) 1) (2 * d.val)) (2 * d.val + 1)) := by
  have hregion : region (setRegion (setRail s (siteOfDie d)
      { rail s (siteOfDie d) with win := sampleIn (rail s (siteOfDie d)).win a })
      (2 * d.val) { region s (2 * d.val) with win := sampleIn (region s (2 * d.val)).win b0 }) (2 * d.val + 1)
      = region s (2 * d.val + 1) := by
    rw [region_setRegion, if_neg (by omega), region_setRail]
  rw [sampled, ← hregion]
  rfl

theorem onlyOrders_limitStep (t : State) (k : Nat) : OnlyOrders t (limitStep d t k) := by
  unfold limitStep
  split
  · exact onlyOrders_startThrottle ..
  · exact .refl t

theorem win_rail_limitStep (t : State) (k j : Nat) : (rail (limitStep d t k) j).win = (rail t j).win := by
  unfold limitStep
  split
  · exact win_rail_startThrottle ..
  · rfl

theorem win_region_limitStep (t : State) (k r : Nat) : (region (limitStep d t k) r).win = (region t r).win := by
  unfold limitStep
  split
  · by_cases hk : k = 2
    · rw [hk, region_startThrottle_rail]
    · exact field_startThrottle t d hk RegionPwr.win (fun _ _ _ => rfl) r
  · rfl

theorem thr_limitStep_region (t : State) {k : Nat} (hk : k ≠ 2) (j : Nat) : (rail (limitStep d t k) j).thr = (rail t j).thr := by
  unfold limitStep
  split
  · exact thr_rail_startThrottle t d hk j
  · rfl

theorem thr_limitStep_rail (t : State) (h : (rail t (siteOfDie d)).thr = 0) :
    (rail (limitStep d t 2) (siteOfDie d)).thr =
      if railLimit t (siteOfDie d) < meanOf (rail t (siteOfDie d)).win then 2 else 0 := by
  have hover_iff : (limiter t d 2).isOver = true ↔ railLimit t (siteOfDie d) < meanOf (rail t (siteOfDie d)).win :=
    decide_eq_true_iff
  by_cases hover : railLimit t (siteOfDie d) < meanOf (rail t (siteOfDie d)).win
  · rw [limitStep, if_pos (hover_iff.2 hover), if_pos hover]
    exact thr_startThrottle_rail t d h
  · rw [limitStep, if_neg (mt hover_iff.1 hover), if_neg hover]
    exact h

/-- The limit of a rail does not depend on the samples. -/
theorem railLimit_sampled : railLimit (sampled s d a b0 b1) (siteOfDie d) = railLimit s (siteOfDie d) := by
  have hrail : rail (sampled s d a b0 b1) (siteOfDie d) =
      { rail s (siteOfDie d) with win := sampleIn (rail s (siteOfDie d)).win a } := by simp [sampled]
  unfold railLimit
  rw [hrail]
  rfl

theorem currentSample_holds :
    ∃ t, exec (.currentSample d a b0 b1) s = .next t ∧ t.cores = s.cores ∧ KeepsMem s t ∧
      (rail t (siteOfDie d)).win = sampleIn (rail s (siteOfDie d)).win a ∧
      (region t (2 * d.val)).win = sampleIn (region s (2 * d.val)).win b0 ∧
      (region t (2 * d.val + 1)).win = sampleIn (region s (2 * d.val + 1)).win b1 ∧
      ((rail s (siteOfDie d)).thr = 0 → (rail t (siteOfDie d)).thr =
        if railLimit s (siteOfDie d) < meanOf (sampleIn (rail s (siteOfDie d)).win a) then 2 else 0) := by
  refine ⟨_, exec_currentSample s d a b0 b1, ?_⟩
  have horders : OnlyOrders s (grantHead (grantHead (limitStep d (limitStep d (limitStep d (sampled s d a b0 b1) 2) 0) 1)
      (2 * d.val)) (2 * d.val + 1)) :=
    have hstep := onlyOrders_limitStep d
    .trans (.trans (t := sampled s d a b0 b1) rfl (.trans (hstep ..) (.trans (hstep ..) (hstep ..))))
      (.trans (onlyOrders_grantHead ..) (onlyOrders_grantHead ..))
  have hwin (r : Nat) : (region (grantHead (grantHead (limitStep d (limitStep d (limitStep d (sampled s d a b0 b1) 2) 0) 1)
      (2 * d.val)) (2 * d.val + 1)) r).win = (region (sampled s d a b0 b1) r).win := by
    simp only [field_grantHead _ _ RegionPwr.win fun _ _ => rfl, win_region_limitStep]
  have hrail : rail (sampled s d a b0 b1) (siteOfDie d) =
      { rail s (siteOfDie d) with win := sampleIn (rail s (siteOfDie d)).win a } := by simp [sampled]
  refine ⟨horders.cores, horders.keepsMem, ?_, ?_, ?_, fun hthr => ?_⟩
  · simp only [rail_grantHead, win_rail_limitStep, hrail]
  · rw [hwin, sampled, region_setRegion, if_neg (by omega), region_setRegion_same]
  · rw [hwin, sampled, region_setRegion_same]
  · rw [rail_grantHead, rail_grantHead, thr_limitStep_region _ _ (by decide), thr_limitStep_region _ _ (by decide),
      thr_limitStep_rail _ _ (by rw [hrail]; exact hthr), railLimit_sampled, hrail]

end

/-! ## THROTTLE_STEP (R367) -/

section
variable (s : State) (d : CellDie) (scope : Fin 3)

theorem throttleStep_rises (hon : (limiter s d scope).thr ≠ 0)
    (hover : (limiter s d scope).limit < meanOf (limiter s d scope).win) (hdue : (limiter s d scope).thrAt + usTicks 1 ≤ s.prc) :
    ∃ t, exec (.throttleStep d scope) s = .next t ∧ t = { s with pwr := t.pwr } ∧
      (limiter t d scope).thr = min 7 ((limiter s d scope).thr + 1) := by
  refine ⟨setThr s d scope (min 7 ((limiter s d scope).thr + 1)), congrArg Host.Outcome.next ?_, setThr_pwr .., limiter_setThr ..⟩
  have hisOver : (limiter s d scope).isOver = true := decide_eq_true hover
  simp only [hon, hisOver, Bool.true_or, hdue, if_true, if_false]

theorem throttleStep_falls (hon : (limiter s d scope).thr ≠ 0)
    (hbelow : 100 * meanOf (limiter s d scope).win < 95 * (limiter s d scope).limit)
    (hfree : scope.val = 2 ∨ forced s (2 * d.val + scope.val) = false) (hdue : (limiter s d scope).thrAt + usTicks 5 ≤ s.prc) :
    ∃ t, exec (.throttleStep d scope) s = .next t ∧ t = { s with pwr := t.pwr } ∧
      (limiter t d scope).thr = (limiter s d scope).thr - 1 := by
  refine ⟨setThr s d scope ((limiter s d scope).thr - 1), congrArg Host.Outcome.next ?_, setThr_pwr .., limiter_setThr ..⟩
  have hnotOver : (limiter s d scope).isOver = false := decide_eq_false (by omega)
  have hisBelow : (limiter s d scope).below = true := decide_eq_true hbelow
  have hunforced : (scope.val != 2 && forced s (2 * d.val + scope.val)) = false := by
    obtain hrail | hopen := hfree
    · simp [hrail]
    · simp [hopen]
  simp only [hon, hnotOver, hunforced, hisBelow, hdue, Bool.or_self, Bool.false_eq_true, if_false, decide_true, Bool.and_self,
    if_true]

end

end Sys2Proof.Machine

/-!
Conditions of positions, the repair map and the loss of a core (R25 to R27, R410 to R415): what a change of condition, a fence
and a loss do to the position and the core they name, and what they leave as it was.
-/
namespace Sys2Proof.Machine

open Sys2Proof

/-! ## Tables of the same keys -/

/-- A table whose entries are changed in place. -/
theorem aget_map {α β : Type} {g : Nat × α → Nat × β} (hg : ∀ e, (g e).1 = e.1) (k : Nat) (l : Assoc α) :
    aget k (l.map g) = (aget k l).map fun x => (g (k, x)).2 := by
  induction l with
  | nil => rfl
  | cons e l ih =>
    obtain ⟨i, x⟩ := e
    have hkey : (g (i, x)).1 = i := hg (i, x)
    rw [List.map_cons, ← Prod.mk.eta (p := g (i, x)), aget, aget, hkey]
    split
    case isTrue hik => rw [hik]; rfl
    case isFalse => exact ih

/-! ## What changes of the repair map leave (R27) -/

/-- Nothing differs but what events reach, the topology record, the repair map and the records of positions. -/
def OnlyRepair (s t : State) : Prop :=
  t = { s with
    dict := t.dict, host := t.host, mgmt := t.mgmt, out := t.out, parts := { s.parts with topo := t.parts.topo },
    health := { s.health with repair := t.health.repair, repairGen := t.health.repairGen, recs := t.health.recs,
                              exchange := t.health.exchange } }

section
variable {s t u : State}

theorem OnlyRepair.refl (s : State) : OnlyRepair s s := rfl

theorem OnlyRepair.trans (h : OnlyRepair s t) (g : OnlyRepair t u) : OnlyRepair s u := by
  unfold OnlyRepair at *
  rw [g, h]

theorem OnlyRepair.foldl {α : Type} {f : State → α → State} (hf : ∀ s a, OnlyRepair s (f s a)) (l : List α) (s : State) :
    OnlyRepair s (l.foldl f s) := by
  induction l generalizing s with
  | nil => exact .refl s
  | cons a l ih => exact (hf s a).trans (ih _)

theorem OnlyEvents.onlyRepair (h : OnlyEvents s t) : OnlyRepair s t := by
  unfold OnlyEvents at h
  unfold OnlyRepair
  rw [h]

section
variable (h : OnlyRepair s t)
include h

theorem OnlyRepair.cores : t.cores = s.cores := by rw [h]
theorem OnlyRepair.pwr : t.pwr = s.pwr := by rw [h]
theorem OnlyRepair.prc : t.prc = s.prc := by rw [h]
theorem OnlyRepair.core (c : Nat) : Machine.core t c = Machine.core s c := core_of_cores h.cores c
theorem OnlyRepair.region (r : Nat) : Machine.region t r = Machine.region s r := region_of_pwr h.pwr r
theorem OnlyRepair.lostDies : t.health.lostDies = s.health.lostDies := by rw [h]
theorem OnlyRepair.keepsMem : KeepsMem s t := by rw [h]; exact ⟨rfl, rfl, rfl⟩

end

theorem onlyRepair_touchTopo (s : State) : OnlyRepair s (touchTopo s) := by
  unfold touchTopo
  split <;> rfl

@[simp] theorem health_touchTopo (s : State) : (touchTopo s).health = s.health := by
  unfold touchTopo
  split <;> rfl

end

/-! ## Positions and their records (R25, R410) -/

section
variable {s t : State}

theorem repairWord_of_repair (h : t.health.repair = s.health.repair) (k : Nat) : repairWord t k = repairWord s k := by
  rw [repairWord, h, ← repairWord]

theorem pcidOf_of_repair (h : t.health.repair = s.health.repair) (c : Nat) : pcidOf t c = pcidOf s c := by
  rw [pcidOf, posOfCore, repairWord_of_repair h, ← posOfCore, ← pcidOf]

theorem coreOfPcid_of_repair (h : t.health.repair = s.health.repair) (p : Nat) : coreOfPcid t p = coreOfPcid s p := by
  unfold coreOfPcid
  rw [repairWord_of_repair h]

theorem isHole_of_health (hrepair : t.health.repair = s.health.repair) (hlost : t.health.lostDies = s.health.lostDies)
    (c : Nat) : isHole t c = isHole s c := by
  rw [isHole, posOfCore, repairWord_of_repair hrepair, hlost, ← posOfCore, ← isHole]

theorem healthRec_of_recs (h : t.health.recs = s.health.recs) (p : Nat) : healthRec t p = healthRec s p := by
  rw [healthRec, h, ← healthRec]

theorem condOf_of_recs (h : t.health.recs = s.health.recs) (p : Nat) : condOf t p = condOf s p := by
  rw [condOf, healthRec_of_recs h, ← condOf]

/-- The core that a position serves is served by it (R20). -/
theorem pcidOf_of_coreOfPcid {p c : Nat} (h : coreOfPcid s p = some c) : pcidOf s c = p := by
  unfold coreOfPcid at h
  obtain ⟨k, hfind, rfl⟩ := Option.map_eq_some_iff.1 h
  have hserves := List.find?_some hfind
  have hk : k < 8 := List.mem_range.1 (List.mem_of_find?_eq_some hfind)
  rw [beq_iff_eq] at hserves
  rw [pcidOf, posOfCore, show (p / 16 * 8 + k) / 8 = p / 16 by omega, show (p / 16 * 8 + k) % 8 = k by omega, hserves]
  omega

@[simp] theorem healthRec_setHealthRec_same (s : State) (p v : Nat) : healthRec (setHealthRec s p v) p = v := agetD_aput_same ..

theorem healthRec_setHealthRec_other (s : State) {p q : Nat} (h : q ≠ p) (v : Nat) :
    healthRec (setHealthRec s p v) q = healthRec s q := agetD_aput_other h ..

end

/-! ## A change of condition (R411) -/

section
variable (s : State) (drill : Bool) (p new cause : Nat)

/-- The state in which a position has taken a condition. -/
def condSet : State :=
  if condOf s p = new then s
  else bumpRepairGen (setHealthRec s p (setBits (setBits (healthRec s p) 2 0 new) 7 4 cause))

theorem raises_setCondD : Raises (condSet s p new cause) (setCondD s drill p new cause) := by
  unfold condSet setCondD
  dsimp only
  split
  · exact .refl s
  · exact raises_raiseD ..

theorem raises_setCond : Raises (condSet s p new cause) (setCond s p new cause) := raises_setCondD ..

theorem onlyRepair_condSet : OnlyRepair s (condSet s p new cause) := by
  unfold condSet
  split <;> rfl

theorem onlyRepair_setCondD : OnlyRepair s (setCondD s drill p new cause) :=
  (onlyRepair_condSet ..).trans (raises_setCondD ..).events.onlyRepair

theorem repair_condSet : (condSet s p new cause).health.repair = s.health.repair := by
  unfold condSet
  split <;> rfl

theorem repair_setCondD : (setCondD s drill p new cause).health.repair = s.health.repair := by
  rw [(raises_setCondD ..).events.health, repair_condSet]

/-- Another field of the record keeps its value. -/
theorem bits_healthRec_condSet {hi lo : Nat} (hapart : (2 < lo ∧ hi < 4) ∨ 7 < lo) :
    bits (healthRec (condSet s p new cause) p) hi lo = bits (healthRec s p) hi lo := by
  unfold condSet
  split
  · rfl
  · refine (congrArg (fun v => bits v hi lo) (healthRec_setHealthRec_same ..)).trans ?_
    rw [bits_setBits_other (by omega) (by omega), bits_setBits_other (by omega) (by omega)]

variable {new} in
theorem condOf_condSet (hnew : new < 8) : condOf (condSet s p new cause) p = new := by
  unfold condSet
  split
  case isTrue h => exact h
  case isFalse =>
    refine (congrArg (fun v => bits v 2 0) (healthRec_setHealthRec_same ..)).trans ?_
    rw [bits_setBits_other (by omega) (by omega), bits_setBits]
    exact Nat.mod_eq_of_lt hnew

variable {new} in
theorem condOf_setCondD (hnew : new < 8) : condOf (setCondD s drill p new cause) p = new := by
  rw [condOf_of_recs (congrArg HealthSt.recs (raises_setCondD ..).events.health), condOf_condSet s p cause hnew]

end

/-! ## A fence (R413) -/

section
variable (s : State) (p cause : Nat)

/-- The repair word of a cluster with position i fenced: it serves no more as the spare. -/
def fencedWord (w i : Nat) : Nat :=
  let w' := if bit w (40 + i) then w else w + 2 ^ (40 + i)
  if bits w' 35 32 == i then setBits w' 35 32 15 else w'

theorem fencePcid_eq : fencePcid s p cause =
    setCond (setRepair s (p / 16) (fencedWord (repairWord s (p / 16)) (p % 16))) p 4 cause := rfl

/-- A fence leaves the fields of the logical cores. -/
theorem bits_fencedWord (w i : Nat) {hi lo : Nat} (h : hi < 32) : bits (fencedWord w i) hi lo = bits w hi lo := by
  have hadd : bits (if bit w (40 + i) then w else w + 2 ^ (40 + i)) hi lo = bits w hi lo := by
    split
    case isTrue => rfl
    case isFalse hclear => exact bits_add_two_pow (Bool.eq_false_iff.2 hclear) (.inl (by omega))
  rw [fencedWord, apply_ite fun w => bits w hi lo, bits_setBits_other (by omega) (.inl h), hadd, ite_self]

theorem repair_setRepair (k w : Nat) : (setRepair s k w).health.repair = aput k w s.health.repair :=
  congrArg HealthSt.repair (health_touchTopo _)

theorem repairWord_setRepair (k w j : Nat) : repairWord (setRepair s k w) j = if j = k then w else repairWord s j := by
  rw [repairWord, repair_setRepair, agetD_aput, ← repairWord]

theorem onlyRepair_setRepair (k w : Nat) : OnlyRepair s (setRepair s k w) :=
  .trans (t := bumpRepairGen { s with health := { s.health with repair := aput k w s.health.repair } }) rfl
    (onlyRepair_touchTopo _)

theorem onlyRepair_fencePcid : OnlyRepair s (fencePcid s p cause) :=
  (onlyRepair_setRepair ..).trans (onlyRepair_setCondD ..)

theorem posOfCore_fencePcid (c : Nat) : posOfCore (fencePcid s p cause) c = posOfCore s c := by
  have hfield : c % 8 < 8 := Nat.mod_lt _ (by decide)
  rw [fencePcid_eq, setCond, posOfCore, repairWord_of_repair (repair_setCondD ..), repairWord_setRepair, div_pow_mod_eq_bits,
    posOfCore, div_pow_mod_eq_bits]
  split
  case isTrue hk => rw [hk, bits_fencedWord _ _ (by omega)]
  case isFalse => rfl

theorem condOf_fencePcid : condOf (fencePcid s p cause) p = 4 := condOf_setCondD _ false p cause (by decide)

theorem isHole_fencePcid (c : Nat) : isHole (fencePcid s p cause) c = isHole s c := by
  rw [isHole, posOfCore_fencePcid, (onlyRepair_fencePcid ..).lostDies, ← isHole]

end

/-! ## The loss of a core (R413 to R415) -/

section
variable (s : State) (drill : Bool) (c cause : Nat)

/-- What of the health unit a loss does to a position: its fence, or the drill's note of it. -/
def lossPlaced : State :=
  if cause = 5 ∨ isHole s c then s
  else if drill then { s with health := { s.health with exchange := s.health.exchange ++ [pcidOf s c] } }
  else fencePcid s (pcidOf s c) 5

theorem onlyRepair_lossPlaced : OnlyRepair s (lossPlaced s drill c cause) := by
  unfold lossPlaced
  split
  · exact .refl s
  · split
    · rfl
    · exact onlyRepair_fencePcid ..

theorem isHole_lossPlaced (d : Nat) : isHole (lossPlaced s drill c cause) d = isHole s d := by
  unfold lossPlaced
  split
  · rfl
  · split
    · rfl
    · exact isHole_fencePcid ..

/-- A core that has no architectural state (Table 3.4). -/
def Core.gatedOff : Core := { Core.reset with st := .gated }

/-- A loss as its parts: the event, the partition stop, what becomes of the position, the core without state, and the
launch's account. -/
theorem coreLostD_parts : ∃ u v, OnlyEvents s u ∧ (v = u ∨ ∃ p, v = partitionStopAll u p) ∧
    OnlyEvents (setCore (lossPlaced v drill c cause) c Core.gatedOff) (coreLostD s drill c cause) := by
  unfold coreLostD
  extract_lets k p raised stopped pcid health placed reset gated
  refine ⟨raised, stopped, ?_, ?_, ?_⟩
  · unfold raised
    split
    · exact .refl s
    · exact onlyEvents_raiseCoreD ..
  · unfold stopped
    split
    · exact .inr ⟨p, rfl⟩
    · exact .inl rfl
  · split
    · split
      · exact onlyEvents_reportLost ..
      · exact .refl _
    · exact .refl _

theorem onlyRepair_coreLostD :
    OnlyRepair { s with cores := (coreLostD s drill c cause).cores } (coreLostD s drill c cause) := by
  obtain ⟨u, v, hu, hv, ht⟩ := coreLostD_parts s drill c cause
  have hstopped : OnlyRepair { s with cores := v.cores } v := by
    unfold OnlyEvents at hu
    obtain rfl | ⟨p, rfl⟩ := hv
    · unfold OnlyRepair; rw [hu]
    · unfold OnlyRepair partitionStopAll; rw [hu]
  have hplaced := hstopped.trans (onlyRepair_lossPlaced v drill c cause)
  have hrest := ht.onlyRepair
  unfold OnlyRepair at hplaced hrest ⊢
  rw [hrest, hplaced]
  rfl

theorem core_coreLostD_same : core (coreLostD s drill c cause) c = { Core.reset with st := .gated } := by
  obtain ⟨u, v, -, -, ht⟩ := coreLostD_parts s drill c cause
  rw [ht.core, core_setCore_same]
  rfl

theorem st_stopAtSync_gated {k : Core} (h : k.st = .gated) : (stopAtSync k).st = .gated := by
  unfold stopAtSync
  rw [if_neg (by rw [h]; decide), h]

/-- A core without state stays so when a partition stops. -/
theorem gated_partitionStopAll {p d : Nat} (h : (core s d).st = .gated) : (core (partitionStopAll s p) d).st = .gated := by
  have hkeys : ∀ e : Nat × Core, (if partOfCore s e.1 == p then (e.1, stopAtSync e.2) else e).1 = e.1 := fun e => by
    split <;> rfl
  rw [core, partitionStopAll, agetD, aget_map hkeys]
  rw [core, agetD] at h
  cases haget : aget d s.cores with
  | none => rw [haget] at h; exact h
  | some x =>
    rw [haget] at h
    rw [Option.map_some, Option.getD_some]
    split
    · exact st_stopAtSync_gated h
    · exact h

theorem gated_coreLostD {d : Nat} (h : (core s d).st = .gated) : (core (coreLostD s drill c cause) d).st = .gated := by
  by_cases hd : d = c
  · rw [hd, core_coreLostD_same]
  · obtain ⟨u, v, hu, hv, ht⟩ := coreLostD_parts s drill c cause
    rw [ht.core, core_setCore_other _ _ hd, (onlyRepair_lossPlaced ..).core]
    obtain rfl | ⟨p, rfl⟩ := hv
    · rw [hu.core]; exact h
    · exact gated_partitionStopAll u (by rw [hu.core]; exact h)

theorem isHole_coreLostD (d : Nat) : isHole (coreLostD s drill c cause) d = isHole s d := by
  obtain ⟨u, v, hu, hv, ht⟩ := coreLostD_parts s drill c cause
  have hhealth : v.health = s.health := by
    obtain rfl | ⟨p, rfl⟩ := hv
    · exact hu.health
    · exact hu.health
  rw [isHole_of_health (congrArg HealthSt.repair ht.health) (congrArg HealthSt.lostDies ht.health)]
  exact (isHole_lossPlaced v drill c cause d).trans
    (isHole_of_health (congrArg HealthSt.repair hhealth) (congrArg HealthSt.lostDies hhealth) d)

/-- A serving core that is lost has its position fenced. -/
theorem condOf_coreLostD (hcause : cause ≠ 5) (hserves : isHole s c = false) :
    condOf (coreLostD s false c cause) (pcidOf s c) = 4 := by
  obtain ⟨u, v, hu, hv, ht⟩ := coreLostD_parts s false c cause
  have hhealth : v.health = s.health := by
    obtain rfl | ⟨p, rfl⟩ := hv
    · exact hu.health
    · exact hu.health
  have hhole : isHole v c = false :=
    (isHole_of_health (congrArg HealthSt.repair hhealth) (congrArg HealthSt.lostDies hhealth) c).trans hserves
  have hpcid : pcidOf v c = pcidOf s c := pcidOf_of_repair (congrArg HealthSt.repair hhealth) c
  have hfenced : lossPlaced v false c cause = fencePcid v (pcidOf s c) 5 := by
    rw [lossPlaced, if_neg (by simp [hcause, hhole]), if_neg Bool.false_ne_true, hpcid]
  rw [condOf_of_recs (congrArg HealthSt.recs ht.health), hfenced]
  exact condOf_fencePcid v (pcidOf s c) 5

end

end Sys2Proof.Machine

/-!
Droop, slices, modules and bumps (R364, R365, R369 to R371), and the statement about the power controllers.
-/
namespace Sys2Proof.Machine

open Sys2Proof

/-! ## Droop (R369) -/

section
variable {s : State} {r : RegionNo}

theorem droopDetect_skips (hon : (region s r).pstate = 0) (hrun : (region s r).skipping = false) :
    ∃ t, exec (.droopDetect r) s = .next t ∧ t = { s with pwr := t.pwr } ∧ (region t r).skipping = true ∧
      (region t r).droopCnt = min 0xFFFF ((region s r).droopCnt + 1) :=
  ⟨_, congrArg Host.Outcome.next (if_pos ⟨hon, hrun⟩), rfl, by rw [region_setRegion_same], by rw [region_setRegion_same]⟩

theorem droopRecover_resumes (n : Nat) (hskip : (region s r).skipping = true) :
    ∃ t, exec (.droopRecover r n) s = .next t ∧ t = { s with pwr := t.pwr } ∧ region t r =
      { region s r with skipping := false, skipped := min (2 ^ 26 - 1) ((region s r).skipped + n) } :=
  ⟨_, congrArg Host.Outcome.next (if_pos hskip), rfl, region_setRegion_same ..⟩

end

/-! ## Slices and dark regions (R364, R365) -/

section
variable (s : State) (cause : Nat)

/-- A core that has state is lost. -/
def lossStep (t : State) (c : Nat) : State := if coreGated t c then t else coreLost t c cause

theorem pwr_lossStep (c : Nat) : (lossStep cause s c).pwr = s.pwr := by
  unfold lossStep
  split
  · rfl
  · exact (onlyRepair_coreLostD s false c cause).pwr

theorem isHole_lossStep (c d : Nat) : isHole (lossStep cause s c) d = isHole s d := by
  unfold lossStep
  split
  · rfl
  · exact isHole_coreLostD ..

theorem gated_lossStep {c d : Nat} (h : (core s d).st = .gated) : (core (lossStep cause s c) d).st = .gated := by
  unfold lossStep
  split
  · exact h
  · exact gated_coreLostD s false c cause h

theorem gated_lossStep_same {c : Nat} (hserves : isHole s c = false) : (core (lossStep cause s c) c).st = .gated := by
  unfold lossStep
  split
  case isTrue hgated => rwa [coreGated, hserves, Bool.or_false, beq_iff_eq] at hgated
  case isFalse => exact congrArg Core.st (core_coreLostD_same ..)

variable (l : List Nat)

theorem pwr_lossSteps : (l.foldl (lossStep cause) s).pwr = s.pwr := by
  induction l generalizing s with
  | nil => rfl
  | cons c l ih => exact (ih _).trans (pwr_lossStep s cause c)

theorem gated_lossSteps {d : Nat} (h : (core s d).st = .gated) : (core (l.foldl (lossStep cause) s) d).st = .gated := by
  induction l generalizing s with
  | nil => exact h
  | cons c l ih => exact ih _ (gated_lossStep s cause h)

/-- Every core of a list that is no hole ends without state. -/
theorem gated_of_mem_lossSteps {d : Nat} (hd : d ∈ l) (hserves : isHole s d = false) :
    (core (l.foldl (lossStep cause) s) d).st = .gated := by
  induction l generalizing s with
  | nil => exact absurd hd List.not_mem_nil
  | cons c l ih =>
    obtain rfl | hd := List.mem_cons.1 hd
    · exact gated_lossSteps _ cause l (gated_lossStep_same s cause hserves)
    · exact ih _ hd ((isHole_lossStep s cause c d).trans hserves)

end

section
variable (s : State) (r : Nat)

/-- The state in which a slice is isolated. -/
def sliceIsolated (n : Nat) : State := modRegion s r fun x => { x with failed := n :: x.failed }

theorem onlyEvents_isolate (drill : Bool) (n : Nat) : OnlyEvents (sliceIsolated s r n) (isolate s drill r n) :=
  onlyEvents_raiseD ..

/-- The state in which a region is dark and its cores are lost; their positions are yet to be fenced. -/
def darkened : State :=
  (coresOfRegion r).foldl (lossStep 2)
    (raise (modRegion s r fun x => { x with pstate := 3, wake := false, head := .none }) 0x0703 (partOfRegion s r)
      (pf 0 9 (siteOfRegion r) ||| pf 9 1 (r % 2)))

theorem onlyRepair_darken : OnlyRepair (darkened s r) (darken s r) := by
  refine .foldl (fun t k => .foldl (fun u p => ?_) _ _) _ _
  split
  · exact .refl u
  · exact onlyRepair_fencePcid ..

theorem pstate_darken : (region (darken s r) r).pstate = 3 := by
  rw [(onlyRepair_darken s r).region, darkened, region_of_pwr (pwr_lossSteps ..), (onlyEvents_raise ..).region, modRegion_eq,
    region_setRegion_same]

theorem gated_darken {c : Nat} (hc : c ∈ coresOfRegion r) (hserves : isHole s c = false) :
    (core (darken s r) c).st = .gated := by
  rw [(onlyRepair_darken s r).core, darkened]
  refine gated_of_mem_lossSteps _ 2 _ hc ?_
  refine (isHole_of_health ?_ ?_ c).trans hserves <;> rw [(onlyEvents_raise ..).health] <;> rfl

end

section
variable {s : State} {r : RegionNo} {n : Fin 16} (hnew : n.val ∉ (region s r).failed)
include hnew

theorem exec_ldoSliceFail : exec (.ldoSliceFail r n) s = .next
    (if slicesOf (region (isolate s false r n) r) < 12 ∧ (region (isolate s false r n) r).pstate ≠ 3 then
      darken (isolate s false r n) r
    else isolate s false r n) :=
  congrArg Host.Outcome.next (if_neg (by simpa using hnew))

omit hnew in
theorem region_isolate : region (isolate s false r n) r = { region s r with failed := n.val :: (region s r).failed } := by
  rw [(onlyEvents_isolate ..).region, sliceIsolated, modRegion_eq, region_setRegion_same]

theorem ldoSliceFail_isolates (hspare : (region s r).failed.length < 4) :
    ∃ t, exec (.ldoSliceFail r n) s = .next t ∧ region t r = { region s r with failed := n.val :: (region s r).failed } ∧
      t.cores = s.cores ∧ KeepsMem s t := by
  have hhold : ¬(slicesOf (region (isolate s false r n) r) < 12 ∧ (region (isolate s false r n) r).pstate ≠ 3) := by
    rw [region_isolate, slicesOf, List.length_cons]
    omega
  refine ⟨_, (exec_ldoSliceFail hnew).trans (congrArg _ (if_neg hhold)), region_isolate,
    (onlyEvents_isolate ..).cores, (onlyEvents_isolate ..).keepsMem⟩

theorem ldoSliceFail_darkens (hfew : 4 ≤ (region s r).failed.length) (hlit : (region s r).pstate ≠ 3) :
    ∃ t, exec (.ldoSliceFail r n) s = .next t ∧ (region t r).pstate = 3 ∧ KeepsMem s t ∧
      ∀ c ∈ coresOfRegion r, coreGated s c = false → (core t c).st = .gated := by
  have hdark : slicesOf (region (isolate s false r n) r) < 12 ∧ (region (isolate s false r n) r).pstate ≠ 3 := by
    rw [region_isolate, slicesOf, List.length_cons]
    exact ⟨by omega, hlit⟩
  refine ⟨_, (exec_ldoSliceFail hnew).trans (congrArg _ (if_pos hdark)), pstate_darken .., keepsMem_of_mems (by simp),
    fun c hc hstate => gated_darken _ _ hc ?_⟩
  have hhealth := (onlyEvents_isolate s r false n).health
  rw [isHole_of_health (congrArg HealthSt.repair hhealth) (congrArg HealthSt.lostDies hhealth)]
  exact (Bool.or_eq_false_iff.1 hstate).2

end

/-! ## Modules (R370) and bumps (R371) -/

section
variable {s : State} {site : SiteNo}

/-- The rail of a module as a poll has found it. -/
def Rail.polled (r : Rail) (v : PmbusReading) : Rail :=
  { r with silent := false, phaseMask := v.phaseFail.toNat, modFault := v.statusFault,
           modWarned := if decide (880 < v.temp) then true else r.modWarned && decide (864 < v.temp),
           phasePin := decide (8 - ((List.range 8).filter fun p => bit v.phaseFail.toNat p).length ≤ 5) }

theorem onlyEvents_phaseEvents (s : State) (site old new : Nat) : OnlyEvents s (phaseEvents s site old new) := by
  refine .foldl _ (fun t p => ?_) _ _
  split
  · exact onlyEvents_raise ..
  · exact .refl t

theorem OnlyEvents.ite {p : Prop} [Decidable p] {s t u : State} (ht : OnlyEvents s t) (hu : OnlyEvents s u) :
    OnlyEvents s (if p then t else u) := by
  split
  · exact ht
  · exact hu

theorem exec_pmbusPoll (hup : firmwareUp s = true) (v : PmbusReading) :
    ∃ t, exec (.pmbusPoll site v) s = .next t ∧ OnlyEvents (setRail s site ((rail s site).polled v)) t := by
  refine ⟨_, congrArg Host.Outcome.next (if_pos hup), ?_⟩
  extract_lets r warn r' polled told newFault warned cleared
  have htold : OnlyEvents polled told := onlyEvents_phaseEvents ..
  have hwarned : OnlyEvents polled warned := htold.trans (.ite (onlyEvents_raise ..) (.refl told))
  have hcleared : OnlyEvents polled cleared := hwarned.trans (.ite (onlyEvents_emit ..) (.refl warned))
  exact hcleared.trans (.ite (onlyEvents_raise ..) (.refl cleared))

theorem pmbusPoll_records (v : PmbusReading) (hup : firmwareUp s = true) :
    ∃ t, exec (.pmbusPoll site v) s = .next t ∧ t.cores = s.cores ∧ KeepsMem s t ∧
      (rail t site).phaseMask = v.phaseFail.toNat ∧ (rail t site).silent = false ∧ (rail t site).modFault = v.statusFault ∧
      (rail t site).phasePin = decide ((rail t site).phases ≤ 5) := by
  obtain ⟨t, hexec, hev⟩ := exec_pmbusPoll (site := site) hup v
  refine ⟨t, hexec, hev.cores, hev.keepsMem, ?_⟩
  rw [hev.rail, rail_setRail_same]
  exact ⟨rfl, rfl, rfl, rfl⟩

theorem moduleTimeout_pins (hup : firmwareUp s = true) (hheard : (rail s site).silent = false) :
    ∃ t, exec (.moduleTimeout site) s = .next t ∧ t.cores = s.cores ∧ KeepsMem s t ∧ limitPhases (rail t site) = 5 ∧
      (rail t site).phasePin = true := by
  have hdue : (firmwareUp s && !(rail s site).silent) = true := by rw [hup, hheard]; rfl
  have hev := onlyEvents_raise (modRail s site fun r => { r with silent := true, phasePin := true }) 0x0705 0xFF
    (pf 0 9 site ||| pf 16 4 1)
  refine ⟨_, congrArg Host.Outcome.next (if_pos hdue), hev.cores, hev.keepsMem, ?_⟩
  rw [hev.rail, modRail_eq, rail_setRail_same]
  exact ⟨rfl, rfl⟩

theorem bumpDrop_records (g : Fin 64) (ratio : BitVec 16) (hgroup : isMemSite site = false ∨ g.val < 32)
    (hnew : g.val ∉ (rail s site).bumps) (hratio : 512 < ratio.toNat) :
    ∃ t, exec (.bumpDrop site g ratio) s = .next t ∧ t.cores = s.cores ∧ KeepsMem s t ∧
      (rail t site).bumps = (rail s site).bumps ++ [g.val] := by
  have hdue : ¬((isMemSite site && decide (32 ≤ g.val)) || (rail s site).bumps.contains g.val
      || decide (ratio.toNat ≤ 512)) = true := by
    have hexists : (isMemSite site && decide (32 ≤ g.val)) = false := by
      obtain hcell | hlow := hgroup
      · rw [hcell, Bool.false_and]
      · rw [decide_eq_false (Nat.not_le.2 hlow), Bool.and_false]
    rw [hexists, decide_eq_false (Nat.not_le.2 hratio)]
    simpa using hnew
  have hev := (onlyEvents_raise (setRail s site { rail s site with bumps := (rail s site).bumps ++ [g.val] }) 0x0706 0xFF
    (pf 0 9 site ||| pf 9 7 g ||| pf 16 16 ratio.toNat)).trans (onlyEvents_recommend _ 0xFF 4 0 6)
  refine ⟨_, congrArg Host.Outcome.next (if_neg hdue), hev.cores, hev.keepsMem, ?_⟩
  rw [hev.rail, rail_setRail_same]

end

/-! ## The statement -/

/-- Settles O48: each clause is what its sample, step, detection or poll does. -/
theorem powerControllers : Obligations.PowerControllers :=
  ⟨fun d a b0 b1 s => currentSample_holds s d a b0 b1,
    fun d scope s => ⟨throttleStep_rises s d scope, throttleStep_falls s d scope⟩,
    fun _ _ => ⟨droopDetect_skips, droopRecover_resumes, fun _ hnew =>
      ⟨ldoSliceFail_isolates hnew, ldoSliceFail_darkens hnew⟩⟩,
    fun _ _ => ⟨pmbusPoll_records, moduleTimeout_pins, bumpDrop_records⟩⟩

end Sys2Proof.Machine

/-!
What the states of a region's supply do (R362, R363, R372, R373): headroom, the end of a ramp, retention and tempering.
-/
namespace Sys2Proof.Machine

open Sys2Proof

/-! ## Keys of a table -/

section
variable {α : Type} {l : Assoc α} {k : Nat}

theorem mem_keys_of_aget {x : α} (h : aget k l = some x) : k ∈ l.map Prod.fst := by
  induction l with
  | nil => cases h
  | cons e l ih =>
    rw [aget] at h
    rw [List.map_cons, List.mem_cons]
    split at h
    case isTrue hk => exact .inl hk.symm
    case isFalse => exact .inr (ih h)

theorem nodup_keys_of_keysRise (h : keysRise l = true) : (l.map Prod.fst).Nodup := by
  induction l with
  | nil => exact List.nodup_nil
  | cons e l ih =>
    refine List.nodup_cons.2 ⟨fun hmem => ?_, ih (keysRise_tail h)⟩
    obtain ⟨e', he', hkey⟩ := List.mem_map.1 hmem
    exact absurd (keysRise_head h e' he') (by omega)

theorem agetD_of_aget {x d : α} (h : aget k l = some x) : agetD k d l = x := by rw [agetD, h]; rfl

end

/-! ## Headroom (R372) -/

section
variable {s : State} {r : RegionNo}

section
variable (hwake : (region s r).wake = true) (hsleeps : (region s r).pstate = 1 ∨ (region s r).pstate = 2)
  (hnone : (region s r).head = .none) (hpowered : powered s = true)
include hwake hsleeps hnone hpowered

theorem asks_headroom : ((region s r).wake && ((region s r).pstate == 1 || (region s r).pstate == 2)
    && (region s r).head == .none && powered s) = true := by
  rw [hwake, hnone, hpowered]
  obtain h | h := hsleeps <;> rw [h] <;> rfl

theorem headroomRequest_grants (hquiet : s.pwr.quench = none) (hfits : headFits s r = true) :
    ∃ t, exec (.headroomRequest r) s = .next t ∧ t = { s with pwr := t.pwr } ∧
      region t r = { region s r with head := .granted none } := by
  have hgrant : (s.pwr.quench.isNone && headFits s r) = true := by rw [hquiet, hfits]; rfl
  exact ⟨_, congrArg Host.Outcome.next ((if_pos (asks_headroom hwake hsleeps hnone hpowered)).trans (if_pos hgrant)), rfl,
    region_setRegion_same ..⟩

theorem headroomRequest_waits (hheld : s.pwr.quench ≠ none ∨ headFits s r = false) :
    ∃ t, exec (.headroomRequest r) s = .next t ∧ t = { s with pwr := t.pwr } ∧
      region t r = { region s r with head := .waiting s.prc false } ∧
      (rail t (siteOfRegion r)).deferCnt = min 0xFFFF ((rail s (siteOfRegion r)).deferCnt + 1) := by
  have hdenied : ¬(s.pwr.quench.isNone && headFits s r) = true := by
    obtain h | h := hheld
    · simp [h]
    · simp [h]
  refine ⟨_, congrArg Host.Outcome.next ((if_pos (asks_headroom hwake hsleeps hnone hpowered)).trans (if_neg hdenied)), rfl,
    ?_, ?_⟩
  · rw [modRail_eq, region_setRail, region_setRegion_same]
  · rw [modRail_eq, rail_setRail_same, rail_setRegion]

end

/-- The regions of a die by the scope of their throttle. -/
theorem twin_scope (r : Nat) : 2 * dieOfRegion r + twin r % 2 = twin r := by
  unfold dieOfRegion twin
  omega

theorem headroomDeferTimeout_throttles {t0 : Nat} (hwaits : (region s r).head = .waiting t0 false)
    (hquiet : s.pwr.quench = none) (hdue : t0 + usTicks 200 ≤ s.prc) :
    ∃ t, exec (.headroomDeferTimeout r) s = .next t ∧ t.cores = s.cores ∧ KeepsMem s t ∧ (region t (twin r)).thr ≠ 0 ∧
      ((region t r).head = .waiting t0 true ∨ (region t r).head = .granted none) := by
  let marked := modRegion s r fun x => { x with head := .waiting t0 true }
  let raised := raise marked 0x0707 (partOfRegion marked r) (pf 0 9 (siteOfRegion r) ||| pf 9 1 (r.val % 2))
  let slowed := startThrottle raised (dieOfRegion r) (twin r % 2)
  have hexec : exec (.headroomDeferTimeout r) s = .next (grantHead slowed r) := by
    change Host.Outcome.next _ = _
    rw [hwaits]
    exact congrArg Host.Outcome.next (if_pos (by rw [hquiet, decide_eq_true hdue]; rfl))
  have hscope : twin r % 2 ≠ 2 := by omega
  have horders : OnlyOrders s (grantHead slowed r) :=
    .trans (t := marked) rfl (.trans (onlyEvents_raise ..).onlyOrders
      (.trans (onlyOrders_startThrottle ..) (onlyOrders_grantHead ..)))
  have hhead : (region slowed r).head = .waiting t0 true := by
    have hother : r.val ≠ 2 * dieOfRegion r + twin r % 2 := by rw [twin_scope]; unfold twin; omega
    rw [region_startThrottle_other _ _ hscope hother, (onlyEvents_raise ..).region]
    exact congrArg RegionPwr.head (region_setRegion_same ..)
  refine ⟨_, hexec, horders.cores, horders.keepsMem, ?_, ?_⟩
  · have hthr := thr_region_startThrottle raised (dieOfRegion r) hscope
    rw [twin_scope] at hthr
    rwa [field_grantHead slowed r RegionPwr.thr fun _ _ => rfl]
  · obtain h | ⟨_, _, -, h⟩ := grantHead_cases slowed r
    · exact .inl (by rw [h, hhead])
    · exact .inr (by rw [h, modRegion_eq, region_setRegion_same])

theorem headroomRelease_frees {t0 : Nat} (hgranted : (region s r).head = .granted (some t0)) (hdue : t0 + usTicks 20 ≤ s.prc) :
    ∃ t, exec (.headroomRelease r) s = .next t ∧ t = { s with pwr := t.pwr } ∧ region t r = { region s r with head := .none } := by
  refine ⟨modRegion s r fun x => { x with head := .none }, ?_, rfl, region_setRegion_same ..⟩
  change Host.Outcome.next _ = _
  rw [hgranted]
  exact congrArg Host.Outcome.next (if_pos hdue)

/-! ## The end of a ramp (R363) -/

/-- Falls that are applied change the offset and its account. -/
theorem field_applyFalls {α : Type} (f : RegionPwr → α) (hf : ∀ x o n, f { x with offset := o, falls := n } = f x)
    (s : State) (r j : Nat) : f (region (applyFalls s r) j) = f (region s j) := by
  have hfall : ∀ t, f (region (applyFall t r) j) = f (region t j) := fun t => by
    rw [applyFall, temperEv, (onlyEvents_raise ..).region]
    exact field_modRegion f j fun _ => hf ..
  have hfalls : ∀ (l : List Nat) (t : State), f (region (l.foldl (fun t _ => applyFall t r) t) j) = f (region t j) := by
    intro l
    induction l with
    | nil => exact fun _ => rfl
    | cons _ l ih => exact fun t => (ih _).trans (hfall t)
  unfold applyFalls
  split
  · exact hfalls ..
  · rfl

@[simp] theorem region_refitRail (s : State) (site j : Nat) : region (refitRail s site) j = region s j := rfl

theorem regionOn_ends (hgranted : (region s r).head = .granted none) (hsleeps : (region s r).pstate = 1 ∨ (region s r).pstate = 2) :
    ∃ t, exec (.regionOn r) s = .next t ∧ t.cores = s.cores ∧ KeepsMem s t ∧ (region t r).pstate = 0 ∧
      (region t r).wake = false ∧ (region t r).head = .granted (some s.prc) := by
  let on := modRegion s r fun x => { x with pstate := 0, wake := false, head := .granted (some s.prc) }
  have hexec : exec (.regionOn r) s = .next (refitRail (applyFalls on r) (siteOfRegion r)) := by
    change Host.Outcome.next _ = _
    rw [hgranted]
    exact congrArg Host.Outcome.next (if_pos hsleeps)
  have horders : OnlyOrders s (refitRail (applyFalls on r) (siteOfRegion r)) :=
    .trans (t := on) rfl (.trans (onlyOrders_applyFalls ..) (onlyOrders_orderRail ..))
  have hfield {α : Type} (f : RegionPwr → α) (hf : ∀ x o n, f { x with offset := o, falls := n } = f x) :
      f (region (refitRail (applyFalls on r) (siteOfRegion r)) r) = f (region on r) := by
    rw [region_refitRail, field_applyFalls f hf]
  have hon : region on r = { region s r with pstate := 0, wake := false, head := .granted (some s.prc) } :=
    region_setRegion_same ..
  refine ⟨_, hexec, horders.cores, horders.keepsMem, ?_, ?_, ?_⟩
  · rw [hfield RegionPwr.pstate fun _ _ _ => rfl, hon]
  · rw [hfield RegionPwr.wake fun _ _ _ => rfl, hon]
  · rw [hfield RegionPwr.head fun _ _ _ => rfl, hon]

/-! ## Retention (R362) -/

/-- A core in retention, which keeps all but its gatherers. -/
def Core.retained (k : Core) : Core := { k with gath := [] }

theorem Core.retained_retained (k : Core) : k.retained.retained = k.retained := rfl

/-- A core with state whose region goes into retention loses its gatherers. -/
def dropGath (s : State) (c : Nat) : State := if coreGated s c then s else modCore s c Core.retained

theorem dropGath_cores (s : State) (c : Nat) : dropGath s c = { s with cores := (dropGath s c).cores } := by
  unfold dropGath
  split <;> rfl

theorem core_dropGath (s : State) (c j : Nat) :
    core (dropGath s c) j = if j = c ∧ coreGated s j = false then (core s j).retained else core s j := by
  unfold dropGath
  split
  case isTrue h => rw [if_neg (by rintro ⟨rfl, hopen⟩; rw [h] at hopen; cases hopen)]
  case isFalse h =>
    by_cases hj : j = c
    · rw [hj, if_pos ⟨rfl, Bool.eq_false_iff.2 h⟩, modCore, core_setCore_same]
    · rw [if_neg fun hand => hj hand.1, modCore, core_setCore_other _ _ hj]

theorem coreGated_dropGath (s : State) (c j : Nat) : coreGated (dropGath s c) j = coreGated s j := by
  have hhealth : (dropGath s c).health = s.health := by rw [dropGath_cores]
  have hst : (core (dropGath s c) j).st = (core s j).st := by
    rw [core_dropGath]
    split <;> rfl
  rw [coreGated, hst, isHole_of_health (congrArg HealthSt.repair hhealth) (congrArg HealthSt.lostDies hhealth), ← coreGated]

theorem core_foldl_dropGath (l : List Nat) (s : State) (j : Nat) :
    core (l.foldl dropGath s) j = if j ∈ l ∧ coreGated s j = false then (core s j).retained else core s j := by
  induction l generalizing s with
  | nil => rw [if_neg fun h => List.not_mem_nil h.1]; rfl
  | cons c l ih =>
    rw [List.foldl_cons, ih, coreGated_dropGath, core_dropGath]
    by_cases hj : j = c
    · subst hj
      by_cases hopen : coreGated s j = false <;> by_cases hl : j ∈ l <;> simp [hopen, hl, Core.retained_retained]
    · simp [hj]

theorem foldl_dropGath_cores (l : List Nat) (s : State) :
    l.foldl dropGath s = { s with cores := (l.foldl dropGath s).cores } := by
  induction l generalizing s with
  | nil => rfl
  | cons c l ih => rw [List.foldl_cons, ih, dropGath_cores]

theorem mem_coresOfRegion {c r : Nat} : c ∈ coresOfRegion r ↔ c / 16 = r := by
  unfold coresOfRegion
  rw [List.mem_map]
  constructor
  · rintro ⟨k, hk, rfl⟩
    have hk := List.mem_range.1 hk
    omega
  · rintro rfl
    exact ⟨c % 16, List.mem_range.2 (by omega), by omega⟩

theorem retentionHold_sleeps (hpart : partOfRegion s r < 16) (hon : dget s (0x6100 + partOfRegion s r) 0x10 ≠ 0)
    (hpstate : (region s r).pstate = 0) (hidle : regionIdle s r = true) (hfree : hinted s r = false) :
    ∃ t, exec (.retentionHold r) s = .next t ∧ t = { s with pwr := t.pwr, cores := t.cores } ∧ (region t r).pstate = 1 ∧
      ∀ c, core t c = if c / 16 = r.val ∧ coreGated s c = false then { core s c with gath := [] } else core s c := by
  let asleep := modRegion s r fun x => { x with pstate := 1, wake := false, head := .none }
  have hcores := foldl_dropGath_cores (coresOfRegion r) asleep
  have hcore := core_foldl_dropGath (coresOfRegion r) asleep
  refine ⟨(coresOfRegion r).foldl dropGath asleep,
    congrArg Host.Outcome.next (if_pos ⟨hpart, hon, hpstate, hidle, hfree⟩), ?_⟩
  generalize (coresOfRegion r).foldl dropGath asleep = t at hcores hcore
  refine ⟨?_, ?_, fun c => ?_⟩
  · rw [hcores]; rfl
  · rw [hcores]
    exact congrArg RegionPwr.pstate (region_setRegion_same ..)
  · rw [hcore c]
    exact if_congr (and_congr_left' mem_coresOfRegion) rfl rfl

end

/-! ## Tempering (R373) -/

theorem slackSample_keeps {s : State} {r : RegionNo} (v : Byte) (htempers : tempers s = true) (hpstate : (region s r).pstate = 0)
    (hfree : siteOfRegion r ∉ s.clk.pinned) (hneutral : perturbed s r = 0) (hundrilled : drilledRegion s r = false)
    (hpowered : powered s = true) : ∃ t, exec (.slackSample r v) s = .next t ∧ t = { s with pwr := t.pwr } ∧
      (region t r).slack = some (min v.toNat ((region s r).slack.getD 255)) := by
  have hdue : (tempers s && (region s r).pstate == 0 && !s.clk.pinned.contains (siteOfRegion r) && perturbed s r == 0
      && !drilledRegion s r && powered s) = true := by
    simp [htempers, hpstate, hfree, hneutral, hundrilled, hpowered]
  refine ⟨_, congrArg Host.Outcome.next (if_pos hdue), rfl, ?_⟩
  rw [region_setRegion_same]

namespace RegionPwr

section
variable (x : RegionPwr)

/-- The lowest slack of the period is below 8 percent. -/
def low : Bool :=
  match x.slack with
  | some v => decide (v < 32)
  | none => false

/-- The lowest slack of the period is above 15 percent. -/
def high : Bool :=
  match x.slack with
  | some v => decide (60 < v)
  | none => false

/-- The record at the begin of a period. -/
def cleared : RegionPwr := { x with slack := none, droopMark := false }

/-- The record after the end of a period. -/
def tempered : RegionPwr :=
  if x.low || x.droopMark then
    if x.offset < 20 then { x.cleared with offset := x.offset + 1 } else x.cleared
  else if x.high && decide (-10 < x.offset - x.falls) then { x.cleared with falls := x.falls + 1 }
  else x.cleared

end

end RegionPwr

section
variable (x : RegionPwr)

theorem tempered_clears : x.tempered.slack = none ∧ x.tempered.droopMark = false := by
  unfold RegionPwr.tempered
  split <;> split <;> exact ⟨rfl, rfl⟩

variable {x}

theorem tempered_rises (h : x.droopMark = true ∨ (∃ v, x.slack = some v ∧ v < 32)) (hroom : x.offset < 20) :
    x.tempered.offset = x.offset + 1 := by
  unfold RegionPwr.tempered
  have hrise : (x.low || x.droopMark) = true := by
    obtain hdroop | ⟨v, hslack, hv⟩ := h
    · rw [hdroop, Bool.or_true]
    · rw [RegionPwr.low, hslack, Bool.or_eq_true]; exact .inl (decide_eq_true hv)
  rw [if_pos hrise, if_pos hroom]

theorem tempered_falls {v : Nat} (hdroop : x.droopMark = false) (hslack : x.slack = some v) (hv : 60 < v)
    (hroom : -10 < x.offset - x.falls) : x.tempered.offset = x.offset ∧ x.tempered.falls = x.falls + 1 := by
  unfold RegionPwr.tempered
  have hlow : x.low = false := by rw [RegionPwr.low, hslack]; exact decide_eq_false (by omega)
  have hhigh : x.high = true := by rw [RegionPwr.high, hslack]; exact decide_eq_true hv
  rw [hlow, hdroop, hhigh, decide_eq_true hroom]
  exact ⟨rfl, rfl⟩

end

section
variable (s : State) (r : Nat)

theorem temperRegion_eq : temperRegion s r =
    if (region s r).low || (region s r).droopMark then
      if (region s r).offset < 20 then
        refitRail (temperEv (modRegion (setRegion s r (region s r).cleared) r fun y => { y with offset := y.offset + 1 }) r)
          (siteOfRegion r)
      else setRegion s r (region s r).cleared
    else if (region s r).high && decide (-10 < (region s r).offset - (region s r).falls) then
      modRegion (setRegion s r (region s r).cleared) r fun y => { y with falls := y.falls + 1 }
    else setRegion s r (region s r).cleared := rfl

theorem onlyOrders_temperRegion : OnlyOrders s (temperRegion s r) := by
  have hset : ∀ x, OnlyOrders s (setRegion s r x) := fun _ => rfl
  rw [temperRegion_eq]
  split
  · split
    · exact (hset _).trans (.trans (t := modRegion _ r _) rfl (.trans (onlyEvents_raise ..).onlyOrders (onlyOrders_orderRail ..)))
    · exact hset _
  · split
    · exact (hset _).trans rfl
    · exact hset _

theorem dictBut_temperRegion : DictBut notKeptSlot s (temperRegion s r) := by
  have hset : ∀ x, DictBut notKeptSlot s (setRegion s r x) := fun _ => .refl _
  rw [temperRegion_eq]
  split
  · split
    · exact .trans (t := modRegion (setRegion s r (region s r).cleared) r fun y => { y with offset := y.offset + 1 })
        (.of_dict rfl) (raises_raise ..).dict
    · exact hset _
  · split
    · exact .of_dict rfl
    · exact hset _

theorem region_temperRegion (j : Nat) :
    region (temperRegion s r) j = if j = r then (region s r).tempered else region s j := by
  have hset (x y : RegionPwr) : region (setRegion (setRegion s r x) r y) j = if j = r then y else region s j := by
    rw [region_setRegion, region_setRegion]
    split <;> rfl
  rw [temperRegion_eq, RegionPwr.tempered]
  split
  · split
    · rw [region_refitRail, temperEv, (onlyEvents_raise ..).region, modRegion_eq, hset, region_setRegion_same]; rfl
    · rw [region_setRegion]
  · split
    · rw [modRegion_eq, hset, region_setRegion_same]; rfl
    · rw [region_setRegion]

theorem region_foldl_temperRegion {l : List Nat} (hl : l.Nodup) (j : Nat) :
    region (l.foldl temperRegion s) j = if j ∈ l then (region s j).tempered else region s j := by
  induction l generalizing s with
  | nil => rfl
  | cons r l ih =>
    obtain ⟨hr, hl⟩ := List.nodup_cons.1 hl
    rw [List.foldl_cons, ih _ hl, region_temperRegion]
    by_cases hj : j = r
    · subst hj; simp [hr]
    · simp [hj]

end

theorem temperingPeriodEnd_tempers {s : State} (htempers : tempers s = true) (hdue : s.pwr.temperEnd ≤ s.prc)
    (hready : panelReady s = true) (hrise : keysRise s.pwr.regions = true) :
    ∃ t, exec .temperingPeriodEnd s = .next t ∧ t.cores = s.cores ∧ KeepsMem s t ∧
      t.pwr.temperEnd = s.prc + 3600 * secTicks * dget s 0x2000 8 ∧
      ∀ r x, aget r s.pwr.regions = some x → region t r = x.tempered := by
  have hgo : (tempers s && decide (s.pwr.temperEnd ≤ s.prc) && panelReady s) = true := by
    rw [htempers, hready, decide_eq_true hdue]; rfl
  have horders : OnlyOrders s ((s.pwr.regions.map Prod.fst).foldl temperRegion s) := .foldl onlyOrders_temperRegion _ s
  have hdict : DictBut notKeptSlot s ((s.pwr.regions.map Prod.fst).foldl temperRegion s) := .foldl dictBut_temperRegion _ s
  refine ⟨_, congrArg Host.Outcome.next (if_pos hgo), horders.cores, horders.keepsMem, ?_, fun r x hx => ?_⟩
  · rw [← hdict.dget (i := 0x2000) (j := 8) (by unfold notKeptSlot; decide)]
    refine congrArg (· + _) ?_
    rw [horders]
  · refine (region_foldl_temperRegion s (nodup_keys_of_keysRise hrise) r).trans ?_
    rw [if_pos (mem_keys_of_aget hx), region, agetD_of_aget hx]

/-! ## The statement -/

/-- Settles O49: each clause is what its request, timeout, ramp, hold, sample or period does. -/
theorem regionStates : Obligations.RegionStates := by
  refine ⟨fun r s => ⟨fun hwake hsleeps hnone hpowered => ⟨headroomRequest_grants hwake hsleeps hnone hpowered,
      headroomRequest_waits hwake hsleeps hnone hpowered⟩, fun _ => headroomDeferTimeout_throttles,
      fun _ => headroomRelease_frees, regionOn_ends, retentionHold_sleeps, fun v => slackSample_keeps v⟩,
    fun s htempers hdue hready hrise => ?_⟩
  obtain ⟨t, hexec, hcores, hmem, hend, hregion⟩ := temperingPeriodEnd_tempers htempers hdue hready hrise
  refine ⟨t, hexec, hcores, hmem, hend, fun r x hx => ?_⟩
  rw [hregion r x hx]
  exact ⟨(tempered_clears x).1, (tempered_clears x).2, tempered_rises, fun _ => tempered_falls⟩

end Sys2Proof.Machine

/-!
The fleet action register (R428, R429): the fields of an action word, what an accepted action leaves pending, and the actions
that are done at once.
-/
namespace Sys2Proof.Machine

open Sys2Proof

/-! ## The action word -/

section
variable {a : Nat} (ha : a < 16) {p : Nat}
include ha

theorem action_of_word : (a + 16 * p) % 16 = a := by omega

variable (hp : p < 2 ^ 14)
include hp

theorem word_in_range : (a + 16 * p) % 2 ^ 18 = a + 16 * p := by omega

theorem subject_of_word : bits (a + 16 * p) 17 4 = p := by
  change (a + 16 * p) / 16 % 2 ^ 14 = p
  omega

end

/-! ## The end of an action -/

section
variable (s : State) (w status : Nat)

/-- The state in which no action is pending and the last one has its status. -/
def actionCleared : State := dset { s with health := { s.health with action := none } } 0x7010 2 status

theorem raises_actionDone : Raises (actionCleared s status) (actionDone s w status) := raises_raise ..

theorem health_actionDone : (actionDone s w status).health = { s.health with action := none } :=
  (raises_actionDone s w status).events.health

theorem core_actionDone (c : Nat) : core (actionDone s w status) c = core s c :=
  (raises_actionDone s w status).events.core c

theorem cores_actionDone : (actionDone s w status).cores = s.cores := (raises_actionDone s w status).events.cores

theorem recs_actionDone : (actionDone s w status).health.recs = s.health.recs := by rw [health_actionDone]

theorem healthRec_actionDone (p : Nat) : healthRec (actionDone s w status) p = healthRec s p :=
  healthRec_of_recs (recs_actionDone s w status) p

theorem condOf_actionDone (p : Nat) : condOf (actionDone s w status) p = condOf s p :=
  condOf_of_recs (recs_actionDone s w status) p

theorem status_actionDone : dget (actionDone s w status) 0x7010 2 = status :=
  ((raises_actionDone s w status).dget (by decide)).trans (dget_dset_same ..)

end

/-! ## What the register answers (R428) -/

/-- What taking an action does: a clear, a fence of a router and a cancel are done at once, every other action waits. -/
def actionTaken (s : State) (a p : Nat) : State × Nat :=
  let t := takeAction s (a + 16 * p)
  match a with
  | 1 =>
    let u := setCond t p 0 4
    (actionDone (setHealthRec u p (setBits (healthRec u p) 3 3 0)) (a + 16 * p) 2, 0)
  | 7 => (actionDone (fenceRouter t (p % 256) (p / 256 % 4) 2) (a + 16 * p) 2, 0)
  | 9 => (actionDone t (a + 16 * p) 2, 0)
  | _ => (t, 0)

section
variable {s : State} {a p : Nat} (ha : a < 16) (hp : p < 2 ^ 14)
include ha hp

theorem askAction_busy (hpending : s.health.action ≠ none) (hcancel : a ≠ 9) : askAction s (a + 16 * p) = (s, 4) := by
  simp only [askAction, word_in_range ha hp, action_of_word ha]
  exact if_pos ⟨Option.isSome_iff_ne_none.2 hpending, hcancel⟩

variable (hfree : s.health.action = none ∨ a = 9) (hallowed : actionAllowed s (a + 16 * p) = true)
include hfree hallowed

theorem askAction_allowed : (askAction s (a + 16 * p)).1 = (actionTaken s a p).1 := by
  have hopen : ¬(s.health.action.isSome = true ∧ a ≠ 9) := by
    obtain h | h := hfree
    · rw [h]; exact fun hand => Bool.false_ne_true hand.1
    · exact fun hand => hand.2 h
  simp only [askAction, word_in_range ha hp, subject_of_word ha hp, action_of_word ha]
  rw [if_neg hopen, hallowed, if_neg (by decide)]
  rfl

end

section
variable {s : State} (hfree : s.health.action = none)
include hfree

/-- An action that waits is the pending action with status 1. -/
theorem askAction_pends {a p : Nat} (ha : a ∈ [2, 3, 4, 5, 6, 8]) (hp : p < 2 ^ 14)
    (hallowed : actionAllowed s (a + 16 * p) = true) : ∃ t, (askAction s (a + 16 * p)).1 = t ∧
      t.health.action = some (a + 16 * p) ∧ t = { s with dict := t.dict, health := { s.health with action := t.health.action } } ∧
      dget t 0x7010 1 = a + 16 * p ∧ dget t 0x7010 2 = 1 := by
  have hlt : a < 16 := by
    simp only [List.mem_cons, List.not_mem_nil, or_false] at ha
    omega
  have htaken : (askAction s (a + 16 * p)).1 = takeAction s (a + 16 * p) := by
    rw [askAction_allowed hlt hp (.inl hfree) hallowed]
    simp only [List.mem_cons, List.not_mem_nil, or_false] at ha
    obtain rfl | rfl | rfl | rfl | rfl | rfl := ha <;> rfl
  refine ⟨_, htaken, rfl, rfl, ?_, ?_⟩
  · exact (dget_dset_other (dset s 0x7010 1 (a + 16 * p)) 1 (by decide)).trans (dget_dset_same ..)
  · exact dget_dset_same (dset s 0x7010 1 (a + 16 * p)) 0x7010 2 1

theorem clear_heals {pcid : BitVec 14} (hexists : pcidOk pcid.toNat = true) (hsuspect : condOf s pcid.toNat = 1) :
    ∃ t, exec (.clear pcid) s = .next t ∧ t.cores = s.cores ∧ KeepsMem s t ∧ condOf t pcid.toNat = 0 ∧
      bit (healthRec t pcid.toNat) 3 = false ∧ t.health.action = none ∧ dget t 0x7010 2 = 2 := by
  have hallowed : actionAllowed s (1 + 16 * pcid.toNat) = true := by
    simp only [actionAllowed, subject_of_word (show 1 < 16 by decide) pcid.isLt, action_of_word (show 1 < 16 by decide), hexists,
      hsuspect]
    rfl
  let cleared := setCond (takeAction s (1 + 16 * pcid.toNat)) pcid.toNat 0 4
  have hcond : condOf cleared pcid.toNat = 0 := condOf_setCondD _ _ _ _ (by decide)
  have hrepair : OnlyRepair (takeAction s (1 + 16 * pcid.toNat)) cleared := onlyRepair_setCondD ..
  refine ⟨_, congrArg Host.Outcome.next (askAction_allowed (by decide) pcid.isLt (.inl hfree) hallowed), ?_, ?_, ?_, ?_, ?_,
    status_actionDone ..⟩
  · exact (cores_actionDone ..).trans hrepair.cores
  · exact keepsMem_of_mems (by simp [actionTaken])
  · rw [actionTaken, condOf_actionDone, condOf, healthRec_setHealthRec_same, bits_setBits_other (by decide) (by decide)]
    exact hcond
  · rw [actionTaken, healthRec_actionDone, healthRec_setHealthRec_same, bit_setBits_single]
    rfl
  · exact congrArg HealthSt.action (health_actionDone ..)

theorem fenceRouter_fences {site : SiteNo} {q : Fin 4} (hexists : isMemSite site = false ∨ q = 0)
    (hopen : fenced s site q = false) : ∃ t, exec (.fenceRouter site q) s = .next t ∧ KeepsMem s t ∧
      fenced t site q = true ∧ t.health.action = none ∧ dget t 0x7010 2 = 2 := by
  have hsubject : 7 + 16 * site.val + 4096 * q.val = 7 + 16 * (site.val + 256 * q.val) := by omega
  have hsite : (site.val + 256 * q.val) % 256 = site.val := by omega
  have hrouter : (site.val + 256 * q.val) / 256 % 4 = q.val := by omega
  have hp : site.val + 256 * q.val < 2 ^ 14 := by omega
  have hallowed : actionAllowed s (7 + 16 * (site.val + 256 * q.val)) = true := by
    simp only [actionAllowed, subject_of_word (show 7 < 16 by decide) hp, action_of_word (show 7 < 16 by decide), hsite, hrouter,
      hopen, decide_eq_true site.isLt]
    obtain h | h := hexists
    · rw [h]; rfl
    · rw [h]; exact Bool.and_eq_true_iff.2 ⟨Bool.or_true _, rfl⟩
  have hkeeps := keepsFab_fenceRouter (s := takeAction s (7 + 16 * (site.val + 256 * q.val))) hopen 2
  refine ⟨(actionTaken s 7 (site.val + 256 * q.val)).1, ?_, ?_, ?_, congrArg HealthSt.action (health_actionDone ..),
    status_actionDone ..⟩
  · exact (congrArg (fun w => Host.Outcome.next (askAction s w).1) hsubject).trans
      (congrArg Host.Outcome.next (askAction_allowed (by decide) hp (.inl hfree) hallowed))
  · exact keepsMem_of_mems (by simp [actionTaken])
  · simp only [actionTaken, hsite, hrouter]
    rw [fenced, (raises_actionDone ..).events.fab]
    refine (congrArg (fun f => holed f.holes site q) hkeeps.1).trans ?_
    refine (holed_fabFenced (s := takeAction s (7 + 16 * (site.val + 256 * q.val))) hopen site q).trans ?_
    rw [beq_self_eq_true, beq_self_eq_true]
    exact Bool.or_true _

end

theorem cancel_ends {s : State} (hpending : s.health.action ≠ none) : ∃ t, exec .cancel s = .next t ∧ t.cores = s.cores ∧
    KeepsMem s t ∧ t.health.action = none ∧ dget t 0x7010 2 = 2 := by
  have hallowed : actionAllowed s (9 + 16 * 0) = true := Option.isSome_iff_ne_none.2 hpending
  exact ⟨_, congrArg Host.Outcome.next (askAction_allowed (p := 0) (by decide) (by decide) (.inr rfl) hallowed),
    cores_actionDone .., keepsMem_of_mems (by simp [actionTaken]), congrArg HealthSt.action (health_actionDone ..), status_actionDone ..⟩

/-! ## A pending quarantine (R429) -/

section
variable {s : State} {pcid : BitVec 14} (pass : Bool)

theorem quarantine_proceeds (hpending : s.health.action = some (actionWord 2 pcid)) (hexists : pcidOk pcid.toNat = true)
    (hcond : condOf s pcid.toNat ≤ 1) (hidle : actionIdle s = true) (hready : panelReady s = true) :
    ∃ t, exec (.actionProceed pass) s = .next t ∧ KeepsMem s t ∧ condOf t pcid.toNat = 2 ∧ t.health.action = none ∧
      dget t 0x7010 2 = 2 ∧ ∀ c, coreOfPcid s pcid.toNat = some c → core t c = { Core.reset with st := .gated } := by
  have hsubject : bits (actionWord 2 pcid) 17 4 = pcid.toNat := subject_of_word (by decide) pcid.isLt
  have hcode : actionWord 2 pcid % 16 = 2 := action_of_word (by decide)
  have hallowed : actionAllowed s (actionWord 2 pcid) = true := by
    simp only [actionAllowed, hsubject, hcode, hexists]
    exact decide_eq_true hcond
  have hexec : exec (.actionProceed pass) s = .next (actionDone (doQuarantine s pcid.toNat) (actionWord 2 pcid) 2) := by
    change Host.Outcome.next _ = _
    rw [hpending]
    dsimp only
    rw [hsubject, hcode, if_neg (by simp [hidle, hready]), if_neg (by simp [hallowed]), if_pos rfl]
  have hset : condOf (setCond s pcid.toNat 2 4) pcid.toNat = 2 := condOf_setCondD _ _ _ _ (by decide)
  have hcore : coreOfPcid (setCond s pcid.toNat 2 4) pcid.toNat = coreOfPcid s pcid.toNat :=
    coreOfPcid_of_repair (repair_setCondD ..) _
  refine ⟨_, hexec, keepsMem_of_mems (by simp), ?_, congrArg HealthSt.action (health_actionDone ..), status_actionDone ..,
    fun c hc => ?_⟩
  · rw [condOf_actionDone, doQuarantine]
    dsimp only
    split <;> exact hset
  · rw [core_actionDone, doQuarantine]
    dsimp only
    rw [hcore, hc]
    exact core_setCore_same ..

end

/-! ## The statement -/

/-- Settles O54: what the action register answers, free and busy, and what a pending quarantine does when its cores are idle. -/
theorem fleetActions : Obligations.FleetActions := by
  refine fun s => ⟨fun hfree => ⟨fun _ => clear_heals hfree, ?_, fun m hlost hretired => ?_, fun _ _ => fenceRouter_fences hfree⟩,
    fun hpending => ⟨cancel_ends hpending, ?_⟩, fun _ pass => quarantine_proceeds pass⟩
  case refine_1 =>
    intro x hx pcid hexists hcond hspare
    have hsubject {a : Nat} (ha : a < 16) := subject_of_word ha pcid.isLt
    have hcode {a : Nat} (ha : a < 16) := action_of_word ha (p := pcid.toNat)
    have hpends {i : Instr} {a : Nat} (hexec : exec i s = .next (askAction s (actionWord a pcid)).1)
        (hmem : a ∈ [2, 3, 4, 5, 6, 8]) (hallowed : actionAllowed s (a + 16 * pcid.toNat) = true) :
        ∃ t, exec i s = .next t ∧ t.health.action = some (actionWord a pcid) ∧
          t = { s with dict := t.dict, health := { s.health with action := t.health.action } } ∧
          dget t 0x7010 1 = actionWord a pcid ∧ dget t 0x7010 2 = 1 := by
      obtain ⟨t, hask, hrest⟩ := askAction_pends hfree hmem pcid.isLt hallowed
      exact ⟨t, hexec.trans (congrArg Host.Outcome.next hask), hrest⟩
    simp only [List.mem_cons, List.not_mem_nil, or_false] at hx
    obtain rfl | rfl | rfl | rfl | rfl := hx <;> simp only [List.mem_cons, List.not_mem_nil, or_false] at hcond <;>
      refine hpends rfl (by decide) ?_
    · simp only [actionAllowed, hsubject (show 2 < 16 by decide), hcode (show 2 < 16 by decide), hexists, Bool.true_and,
        decide_eq_true_iff]
      omega
    · simp only [actionAllowed, hsubject (show 3 < 16 by decide), hcode (show 3 < 16 by decide), hexists, hcond]
      rfl
    · simp only [actionAllowed, hsubject (show 4 < 16 by decide), hcode (show 4 < 16 by decide), hexists, Bool.true_and,
        Bool.and_eq_true, Bool.or_eq_true, beq_iff_eq, bne_iff_ne]
      exact ⟨hcond, hspare rfl⟩
    · simp only [actionAllowed, hsubject (show 5 < 16 by decide), hcode (show 5 < 16 by decide), hexists, Bool.true_and,
        bne_iff_ne]
      omega
    · simp only [actionAllowed, hsubject (show 6 < 16 by decide), hcode (show 6 < 16 by decide), hexists, hcond]
      rfl
  case refine_2 =>
    have hallowed : actionAllowed s (8 + 16 * m.val) = true := by
      have hsite : m.val % 16 = m.val := Nat.mod_eq_of_lt m.isLt
      simp only [actionAllowed, subject_of_word (show 8 < 16 by decide) (show m.val < 2 ^ 14 by omega),
        action_of_word (show 8 < 16 by decide), hsite]
      simp [hlost, hretired]
    obtain ⟨t, hask, haction, honly, -, hstatus⟩ := askAction_pends hfree (a := 8) (by decide) (by omega) hallowed
    exact ⟨t, congrArg Host.Outcome.next hask, haction, honly, hstatus⟩
  case refine_3 =>
    intro i hi p
    have hbusy {i : Instr} {a : Nat} (hexec : exec i s = .next (askAction s (actionWord a p)).1) (ha : a < 9) :
        exec i s = .next s :=
      hexec.trans (congrArg (fun a => Host.Outcome.next a.1) (askAction_busy (by omega) p.isLt hpending (by omega)))
    simp only [List.mem_cons, List.not_mem_nil, or_false] at hi
    obtain rfl | rfl | rfl | rfl | rfl | rfl := hi <;> exact hbusy rfl (by decide)

end Sys2Proof.Machine

/-!
Drills and perturbation registers (R431 to R434): how a drill is marked and ended, what its trigger and the end of its window do,
and what a write, the return to neutral and the timeout do to a perturbation register.
-/
namespace Sys2Proof.Machine

open Sys2Proof

/-! ## Memories that stay -/

theorem KeepsMem.refl (s : State) : KeepsMem s s := ⟨rfl, rfl, rfl⟩

theorem KeepsMem.trans {s t u : State} (h : KeepsMem s t) (g : KeepsMem t u) : KeepsMem s u := by
  obtain ⟨hspm, hhbm, hsram⟩ := h
  obtain ⟨gspm, ghbm, gsram⟩ := g
  exact ⟨gspm.trans hspm, ghbm.trans hhbm, gsram.trans hsram⟩

/-! ## The end of a drill (R433) -/

section
variable (s : State) (r : DrillRec)

theorem markDrill_eq : markDrill s r = { s with health := { s.health with drillAt := (markDrill s r).health.drillAt } } := by
  unfold markDrill
  split <;> rfl

end

/-- A slot's drill once its window has closed or was skipped. -/
def DrillSlot.ended (d : DrillSlot) : DrillSlot := { d with st := if d.left = 0 then 3 else 1 }

/-- The window that is open once a slot's drill has ended. -/
def windowAfter (slot : Nat) : Option (Nat × Nat) → Option (Nat × Nat)
  | some (k, t) => if k = slot then none else some (k, t)
  | none => none

section
variable {s : State} {slot : Nat} {d : DrillSlot} (h : aget slot s.health.drills = some d)
include h

theorem endDrill_eq (result cause : Nat) : ∃ u, OnlyEvents u (endDrill s slot result cause) ∧
    u = { s with health := u.health } ∧ u.health.window = windowAfter slot s.health.window ∧
    aget slot u.health.drills = some d.ended := by
  let marked := markDrill s d.rec_
  let u : State := { marked with health := { marked.health with
    drills := aput slot d.ended marked.health.drills, window := windowAfter slot s.health.window } }
  have hend : endDrill s slot result cause =
      raiseD u true 0x090A (drillPart d) (pf 0 3 slot ||| pf 8 4 result ||| pf 12 4 cause) := by
    unfold endDrill
    rw [h]
    rfl
  refine ⟨u, hend ▸ onlyEvents_raiseD .., ?_, rfl, aget_aput_same ..⟩
  have hmarked := markDrill_eq s d.rec_
  unfold u marked
  rw [hmarked]

end

/-! ## An accepted record (R431, R432) -/

theorem armDrill_accepts {s : State} {slot : Fin 8} {r : DrillRec}
    (hfree : ∀ d, aget slot.val s.health.drills = some d → d.st ≠ 1 ∧ d.st ≠ 2) (hmode : inBivouac s = false)
    (hneutral : perturbActive s = false) (hrec : drillRecOk s r = true)
    (hparts : ∀ p ∈ drillParts s r, partOff s p = false ∧ (r.kind = 1 → dget s (0x6100 + p) 5 ≠ 0)) :
    let d : DrillSlot := ⟨r, if bit (dget s 0x8030 2) 5 = true then 3 else 1, r.repeat_.toNat, r.trigger.toNat⟩
    exec (.drillArm slot r) s = .next { s with health := { s.health with drills := aput slot.val d s.health.drills } } := by
  have hidle (d : DrillSlot) (hd : aget slot.val s.health.drills = some d) : (d.st == 1 || d.st == 2) = false := by
    obtain ⟨hunarmed, hclosed⟩ := hfree d hd
    rw [beq_false_of_ne hunarmed, beq_false_of_ne hclosed]
    rfl
  have hoff : (drillParts s r).find? (fun p => partOff s p) = none :=
    List.find?_eq_none.2 fun p hp => Bool.eq_false_iff.1 (hparts p hp).1
  have hassay : (drillParts s r).find? (fun p => r.kind == 1 && dget s (0x6100 + p) 5 == 0) = none := by
    refine List.find?_eq_none.2 fun p hp hand => ?_
    rw [Bool.and_eq_true, beq_iff_eq, beq_iff_eq] at hand
    exact (hparts p hp).2 hand.1 hand.2
  refine congrArg Host.Outcome.next ?_
  simp only [armDrill, hoff, hassay, hmode, hneutral, hrec]
  cases hd : aget slot.val s.health.drills with
  | none => rfl
  | some d => simp only [hidle d hd]; rfl

/-! ## A trigger (R432, R433) -/

section
variable {slot : Fin 8} {d : DrillSlot} {s : State} (harmed : aget slot.val s.health.drills = some d) (hst : d.st = 1)
  (hdue : d.next ≤ s.prc) (hready : panelReady s = true)

/-- A slot's drill once a trigger has been counted. -/
def DrillSlot.counted (d : DrillSlot) : DrillSlot :=
  { d with left := d.left - 1, next := d.next + d.rec_.interval.toNat * secTicks }

include harmed hst hdue hready

theorem drillTrigger_eq : exec (.drillTrigger slot) s = .next
    (if s.mgmt.bus.taken then waitBus s 5
    else
      let s := { s with health := { s.health with drills := aput slot.val d.counted s.health.drills } }
      let s := raiseD s true 0x0909 (drillPart d.counted)
        (pf 0 3 slot.val ||| pf 4 4 d.counted.rec_.kind.toNat ||| pf 16 16 d.counted.rec_.target.toNat)
      if s.pwr.quench.isSome then endDrill s slot 1 2
      else if s.health.window.isSome then endDrill s slot 1 3
      else injectDrill (markDrill s d.counted.rec_) slot d.counted) := by
  have hnow : ¬(d.st ≠ 1 ∨ s.prc < d.next ∨ panelReady s = false) := by
    rw [hst, hready]
    simp only [ne_eq, not_true, Bool.true_eq_false, or_false, false_or]
    omega
  change Host.Outcome.next _ = _
  rw [harmed]
  exact congrArg Host.Outcome.next (if_neg hnow)

/-- What the event of a counted trigger leaves. -/
theorem onlyEvents_counted : ∃ u, OnlyEvents { s with health := { s.health with drills := aput slot.val d.counted s.health.drills } } u ∧
    (s.mgmt.bus.taken = false → exec (.drillTrigger slot) s = .next
      (if s.pwr.quench.isSome then endDrill u slot 1 2
      else if s.health.window.isSome then endDrill u slot 1 3
      else injectDrill (markDrill u d.rec_) slot d.counted)) := by
  have hraise := onlyEvents_raiseD { s with health := { s.health with drills := aput slot.val d.counted s.health.drills } } true
    0x0909 (drillPart d.counted)
    (pf 0 3 slot.val ||| pf 4 4 d.counted.rec_.kind.toNat ||| pf 16 16 d.counted.rec_.target.toNat)
  refine ⟨_, hraise, fun hfree => (drillTrigger_eq harmed hst hdue hready).trans (congrArg Host.Outcome.next ?_)⟩
  rw [hfree, if_neg Bool.false_ne_true]
  dsimp only
  rw [hraise.pwr, hraise.health]
  rfl

theorem drillTrigger_opens (hfree : s.mgmt.bus.taken = false) (hquiet : s.pwr.quench = none) (hclosed : s.health.window = none)
    (hkind : d.rec_.kind.toNat ∈ [1, 2, 4, 7]) : ∃ t, exec (.drillTrigger slot) s = .next t ∧ t.cores = s.cores ∧ KeepsMem s t ∧
      t.health.window = some (slot.val, s.prc) ∧ aget slot.val t.health.drills = some { d.counted with st := 2 } := by
  obtain ⟨u, hu, hexec⟩ := onlyEvents_counted harmed hst hdue hready
  have hmarked := markDrill_eq u d.rec_
  have hopens : injectDrill (markDrill u d.rec_) slot d.counted = openWindow (markDrill u d.rec_) slot d.counted := by
    unfold injectDrill
    rw [show d.counted.rec_.kind.toNat = d.rec_.kind.toNat from rfl]
    simp only [List.mem_cons, List.not_mem_nil, or_false] at hkind
    obtain h | h | h | h := hkind <;> rw [h] <;> rfl
  refine ⟨openWindow (markDrill u d.rec_) slot d.counted, ?_, ?_, ?_, ?_, aget_aput_same ..⟩
  · rw [hexec hfree, hquiet, hclosed, hopens]; rfl
  · rw [hmarked]; exact hu.cores
  · rw [hmarked]; exact hu.keepsMem
  · rw [hmarked]; exact congrArg (fun p => some (slot.val, p)) hu.prc

theorem drillTrigger_skips (hfree : s.mgmt.bus.taken = false) (hheld : s.pwr.quench ≠ none ∨ s.health.window ≠ none)
    (hother : ∀ t0, s.health.window ≠ some (slot.val, t0)) : ∃ t, exec (.drillTrigger slot) s = .next t ∧ t.cores = s.cores ∧
      KeepsMem s t ∧ t.health.window = s.health.window ∧ aget slot.val t.health.drills = some d.counted.ended := by
  obtain ⟨u, hu, hexec⟩ := onlyEvents_counted harmed hst hdue hready
  have hdrill : aget slot.val u.health.drills = some d.counted := by
    rw [hu.health]
    exact aget_aput_same ..
  obtain ⟨cause, hskip⟩ : ∃ cause, exec (.drillTrigger slot) s = .next (endDrill u slot 1 cause) := by
    rw [hexec hfree]
    by_cases hquench : s.pwr.quench.isSome = true
    · exact ⟨2, congrArg Host.Outcome.next (if_pos hquench)⟩
    · have hwindow : s.health.window.isSome = true :=
        Option.isSome_iff_ne_none.2 (hheld.resolve_left (mt Option.isSome_iff_ne_none.2 hquench))
      exact ⟨3, congrArg Host.Outcome.next ((if_neg hquench).trans (if_pos hwindow))⟩
  obtain ⟨v, hv, hhealth, hwindow, hended⟩ := endDrill_eq hdrill 1 cause
  refine ⟨_, hskip, ?_, ?_, ?_, ?_⟩
  · rw [hv.cores, hhealth]; exact hu.cores
  · exact .trans hu.keepsMem (.trans (hhealth ▸ .refl _) hv.keepsMem)
  · rw [hv.health, hwindow, hu.health]
    have hkept : ∀ w : Option (Nat × Nat), (∀ t0, w ≠ some (slot.val, t0)) → windowAfter slot w = w := by
      rintro (_ | ⟨k, t⟩) hw
      · rfl
      · exact if_neg fun hk => hw t (by rw [hk])
    exact hkept _ hother
  · rw [hv.health, hended]

end

/-! ## The end of a window (R433) -/

/-- A slice that a drill isolated works again. -/
theorem restoreSlice_eq (s : State) : ∃ p x, restoreSlice s = { s with pwr := p, health := { s.health with slice := x } } := by
  unfold restoreSlice
  split
  · split
    · exact ⟨_, none, rfl⟩
    · exact ⟨_, _, rfl⟩
  · exact ⟨_, _, rfl⟩

theorem failed_restoreSlice {s : State} {slot n r t0 : Nat} {d : DrillSlot} (hopen : s.health.window = some (slot, t0))
    (hdrill : aget slot s.health.drills = some d) (hslice : s.health.slice = some n) (hregion : drillRegion d.rec_ = some r) :
    n ∉ (region (restoreSlice s) r).failed := by
  have hopened : openDrill s = some (slot, d) := by
    unfold openDrill
    rw [hopen]
    dsimp only
    rw [hdrill]
    rfl
  unfold restoreSlice
  rw [hopened, hslice]
  dsimp only
  rw [hregion]
  dsimp only
  rw [modRegion_eq, region_setRegion_same]
  simp

theorem drillWindowEnd_closes {slot : Fin 8} {d : DrillSlot} {t0 : Nat} {s : State}
    (hopen : s.health.window = some (slot.val, t0)) (hdrill : aget slot.val s.health.drills = some d)
    (hdue : t0 + usTicks (1000 * d.rec_.window.toNat) ≤ s.prc) :
    ∃ t, exec (.drillWindowEnd slot) s = .next t ∧ t.cores = s.cores ∧ KeepsMem s t ∧ t.health.window = none ∧
      aget slot.val t.health.drills = some d.ended ∧
      ∀ r n, d.rec_.kind = 6 → s.health.slice = some n → drillRegion d.rec_ = some r → n ∉ (region t r).failed := by
  let u : State := if d.rec_.kind = 6 then restoreSlice s else s
  have hu : ∃ p x, u = { s with pwr := p, health := { s.health with slice := x } } := by
    unfold u
    split
    · exact restoreSlice_eq s
    · exact ⟨_, _, rfl⟩
  obtain ⟨result, hexec⟩ : ∃ result, exec (.drillWindowEnd slot) s = .next (endDrill u slot result result) := by
    have hnow : ¬(slot.val ≠ slot.val ∨ s.prc < t0 + usTicks (1000 * d.rec_.window.toNat)) := by omega
    refine ⟨if d.rec_.kind = 6 then 0 else 1, ?_⟩
    change Host.Outcome.next _ = _
    rw [hopen, hdrill]
    dsimp only
    rw [if_neg hnow]
    unfold u
    split <;> rfl
  obtain ⟨p, x, hparts⟩ := hu
  have hdrillU : aget slot.val u.health.drills = some d := by rw [hparts]; exact hdrill
  obtain ⟨v, hv, hhealth, hwindow, hended⟩ := endDrill_eq hdrillU result result
  refine ⟨_, hexec, ?_, ?_, ?_, ?_, fun r n hkind hslice hregion => ?_⟩
  · rw [hv.cores, hhealth, hparts]
  · have hmem : KeepsMem s v := by rw [hhealth, hparts]; exact .refl s
    exact hmem.trans hv.keepsMem
  · rw [hv.health, hwindow, hparts]
    exact (congrArg (windowAfter slot) hopen).trans (if_pos rfl)
  · rw [hv.health, hended]
  · have hrestored : u = restoreSlice s := if_pos hkind
    rw [hv.region, region_of_pwr (s := u) (by rw [hhealth]), hrestored]
    exact failed_restoreSlice hopen hdrill hslice hregion

/-! ## Perturbation registers (R434) -/

section
variable {s : State} {die reg : Nat}

/-- A perturbation register lies apart from the counter of records not kept. -/
theorem pertSlot_kept (hreg : reg < 3) :
    cairnSlot (0x7800 + die) (pertSub reg) ≠ cairnSlot 0x9000 6 := by
  unfold cairnSlot pertSub
  omega

theorem onlyOrders_refit_if (s : State) (reg die : Nat) : OnlyOrders s (if reg = 1 then refitRail s die else s) := by
  split
  · exact onlyOrders_orderRail ..
  · exact .refl s

theorem dget_refit_if (s : State) (reg die i j : Nat) : dget (if reg = 1 then refitRail s die else s) i j = dget s i j := by
  split <;> rfl

theorem health_refit_if (s : State) (reg die : Nat) : (if reg = 1 then refitRail s die else s).health = s.health := by
  split <;> rfl

theorem raises_perturbEv (s : State) (drill : Bool) (die reg : Nat) (active : Bool) :
    Raises s (perturbEv s drill die reg active) := raises_raiseD ..

/-- The return to neutral clears the register and changes nothing of the cores or the memories. -/
theorem neutral_clears (s : State) (drill : Bool) (hreg : reg < 3) :
    (neutral s drill die reg).cores = s.cores ∧ KeepsMem s (neutral s drill die reg) ∧
      dget (neutral s drill die reg) (0x7800 + die) (pertSub reg) = 0 := by
  refine ⟨?_, keepsMem_of_mems (by simp), ?_⟩
  · simp only [neutral]
    split
    · rfl
    · rw [(onlyOrders_refit_if ..).cores, (raises_perturbEv ..).events.cores]
      rfl
  · simp only [neutral]
    split
    case isTrue h => exact h
    case isFalse => rw [dget_refit_if, (raises_perturbEv ..).dget (pertSlot_kept hreg), dget_dset_same]

end

theorem pertNo_lt (reg : PertReg) : pertNo reg < 3 := by cases reg <;> decide

section
variable {d : DieNo} {reg : PertReg} {s : State}

theorem perturbTimeout_clears {t0 : Nat} (hset : aget (3 * d.val + pertNo reg) s.health.pertAt = some t0)
    (hdue : t0 + dget s 0x7A00 1 * secTicks ≤ s.prc) : ∃ t, exec (.perturbTimeout d reg) s = .next t ∧ t.cores = s.cores ∧
      KeepsMem s t ∧ dget t (0x7800 + d.val) (pertNo reg + 1) = 0 := by
  refine ⟨neutral s false d (pertNo reg), ?_, neutral_clears s false (pertNo_lt reg)⟩
  change Host.Outcome.next _ = _
  rw [hset]
  exact congrArg Host.Outcome.next (if_pos hdue)

theorem perturbWrite_stores {v : Word} (hexists : hasPert d (pertNo reg) = true) (hmode : inBivouac s = false)
    (hunarmed : drillArmed s = false) (hquiet : s.pwr.quench = none)
    (hok : pertOk s d (pertNo reg) (pertMask (pertNo reg) v.toNat) = true)
    (hmargin : marginBlocked s d (pertNo reg) (pertMask (pertNo reg) v.toNat) = none) :
    ∃ t, exec (.perturbWrite d reg v) s = .next t ∧ t.cores = s.cores ∧ KeepsMem s t ∧
      dget t (0x7800 + d.val) (pertNo reg + 1) = pertMask (pertNo reg) v.toNat ∧
      (pertMask (pertNo reg) v.toNat ≠ 0 → aget (3 * d.val + pertNo reg) t.health.pertAt = some s.prc) := by
  generalize hvalue : pertMask (pertNo reg) v.toNat = m at *
  by_cases hzero : m = 0
  · subst hzero
    obtain ⟨hcores, hmem, hclear⟩ := neutral_clears s false (pertNo_lt reg)
    refine ⟨_, ?_, hcores, hmem, hclear, fun h => absurd rfl h⟩
    refine congrArg Host.Outcome.next ?_
    simp only [perturb, hvalue, hexists, hmode, hunarmed, hquiet, hok, hmargin]
    rfl
  · let set := dset s (0x7800 + d.val) (pertSub (pertNo reg)) m
    let timed : State := { set with health := { set.health with
      pertAt := aput (3 * d.val + pertNo reg) set.prc set.health.pertAt } }
    let told := if dget s (0x7800 + d.val) (pertSub (pertNo reg)) = 0 then perturbEv timed false d (pertNo reg) true else timed
    have hexec : exec (.perturbWrite d reg v) s = .next (if pertNo reg = 1 then refitRail told d else told) := by
      refine congrArg Host.Outcome.next ?_
      simp only [perturb, hvalue, hexists, hmode, hunarmed, hquiet, hok, hmargin, hzero]
      rfl
    have htold : Raises timed told := by
      unfold told
      split
      · exact raises_perturbEv ..
      · exact .refl timed
    refine ⟨_, hexec, ?_, ?_, ?_, fun _ => ?_⟩
    · rw [(onlyOrders_refit_if ..).cores, htold.events.cores]
      rfl
    · exact .trans (t := timed) (.refl s) (htold.events.keepsMem.trans (onlyOrders_refit_if ..).keepsMem)
    · rw [dget_refit_if]
      exact (htold.dget (pertSlot_kept (pertNo_lt reg))).trans (dget_dset_same ..)
    · rw [health_refit_if, htold.events.health]
      exact aget_aput_same ..

end

/-! ## The statement -/

/-- Settles O55: each clause is what its record, trigger, window or register does. -/
theorem drillsAndPerturbations : Obligations.DrillsAndPerturbations :=
  ⟨fun _ _ _ => armDrill_accepts,
    fun _ _ _ harmed hst hdue hready => ⟨fun htaken => by
        rw [drillTrigger_eq harmed hst hdue hready, if_pos htaken],
      drillTrigger_opens harmed hst hdue hready, drillTrigger_skips harmed hst hdue hready⟩,
    fun _ _ _ _ => drillWindowEnd_closes, fun _ _ _ _ => perturbWrite_stores, fun _ _ _ _ => perturbTimeout_clears⟩

end Sys2Proof.Machine

/-!
Licences, staged bundles, the hallmark report and the locks of the service bus (R449 to R475).
-/
namespace Sys2Proof.Machine

open Sys2Proof

/-! ## The end of a session (R467) -/

section
variable {s t : State}

theorem OnlyLogs.licences {m m' : MgmtSt} (h : OnlyLogs m m') : m'.licences = m.licences := by rw [h]
theorem OnlyLogs.stage {m m' : MgmtSt} (h : OnlyLogs m m') : m'.stage = m.stage := by rw [h]
theorem OnlyLogs.slots {m m' : MgmtSt} (h : OnlyLogs m m') : m'.slots = m.slots := by rw [h]
theorem OnlyLogs.active {m m' : MgmtSt} (h : OnlyLogs m m') : m'.active = m.active := by rw [h]
theorem OnlyLogs.report {m m' : MgmtSt} (h : OnlyLogs m m') : m'.report = m.report := by rw [h]
theorem OnlyLogs.sessions {m m' : MgmtSt} (h : OnlyLogs m m') : m'.sessions = m.sessions := by rw [h]
theorem OnlyLogs.shakes {m m' : MgmtSt} (h : OnlyLogs m m') : m'.shakes = m.shakes := by rw [h]

end

section
variable (s : State) (sid : BitVec 16) (cause : Nat)

/-- The staging of a session that ends goes with it. -/
def stagingDropped : State :=
  let mine : Bool := match s.mgmt.stage with
    | some (w, _) => w == .session sid
    | none => false
  if mine then stageIdle s else s

/-- The state in which a session is gone, and with it its staging. -/
def sessionGone : State :=
  let t := stagingDropped s sid
  { t with mgmt := { t.mgmt with sessions := t.mgmt.sessions.filter fun x => x.sid != sid } }

theorem stagingDropped_cases : stagingDropped s sid = stageIdle s ∨ stagingDropped s sid = s := ite_eq_or_eq ..

theorem endSession_none (h : findSession s sid = none) : endSession s sid cause = s := by
  unfold endSession
  rw [h]

theorem raises_endSession {x : Session} (h : findSession s sid = some x) :
    Raises (sessionGone s sid) (endSession s sid cause) := by
  unfold endSession
  rw [h]
  exact raises_raise ..

theorem onlyEvents_sessionGone : OnlyEvents s (sessionGone s sid) := by
  unfold sessionGone
  obtain h | h := stagingDropped_cases s sid <;> rw [h] <;> rfl

theorem sessions_sessionGone : (sessionGone s sid).mgmt.sessions = s.mgmt.sessions.filter fun x => x.sid != sid := by
  unfold sessionGone
  obtain h | h := stagingDropped_cases s sid
  · rw [h]; rfl
  · rw [h]

theorem licences_sessionGone : (sessionGone s sid).mgmt.licences = s.mgmt.licences := by
  unfold sessionGone
  obtain h | h := stagingDropped_cases s sid
  · rw [h]; rfl
  · rw [h]

theorem onlyEvents_endSession : OnlyEvents s (endSession s sid cause) := by
  cases h : findSession s sid with
  | none => rw [endSession_none s sid cause h]; exact .refl s
  | some x => exact (onlyEvents_sessionGone s sid).trans (raises_endSession s sid cause h).events

theorem licences_endSession : (endSession s sid cause).mgmt.licences = s.mgmt.licences := by
  cases h : findSession s sid with
  | none => rw [endSession_none s sid cause h]
  | some x => rw [(raises_endSession s sid cause h).mgmt.licences, licences_sessionGone]

end

/-! ## Licences (R449, R450) -/

section
variable (s : State) (l : List Byte)

theorem onlyEvents_foldl_endSession (cause : Nat) (sids : List (BitVec 16)) (s : State) :
    OnlyEvents s (sids.foldl (fun t sid => endSession t sid cause) s) := by
  induction sids generalizing s with
  | nil => exact .refl s
  | cons sid sids ih => exact (onlyEvents_endSession s sid cause).trans (ih _)

theorem licences_foldl_endSession (cause : Nat) (sids : List (BitVec 16)) (s : State) :
    (sids.foldl (fun t sid => endSession t sid cause) s).mgmt.licences = s.mgmt.licences := by
  induction sids generalizing s with
  | nil => rfl
  | cons sid sids ih => exact (ih _).trans (licences_endSession s sid cause)

theorem changeOwner_keeps (old : Option (List Byte)) :
    OnlyEvents s (changeOwner s old l) ∧ (changeOwner s old l).mgmt.licences = s.mgmt.licences := by
  unfold changeOwner
  split
  · exact ⟨onlyEvents_raise .., (raises_raise ..).mgmt.licences⟩
  · exact ⟨(onlyEvents_foldl_endSession 5 _ s).trans (onlyEvents_raise ..),
      (raises_raise ..).mgmt.licences.trans (licences_foldl_endSession 5 _ s)⟩

variable {s l}

theorem licenceInstall_stores {k : Nat} (hup : firmwareUp s = true) (hlength : l.length = 256) (hfault : licFault s l = none)
    (hslot : licSlot s l = some k) : ∃ t, exec (.licenceInstall l) s = .next t ∧ t.cores = s.cores ∧ KeepsMem s t ∧
      aget k t.mgmt.licences = some l := by
  let stored := bumpGen { s with mgmt := { s.mgmt with
    licences := aput k l (s.mgmt.licences.filter fun e => !sameLic e.2 l) } } 0x1100 0x11
  let told := raise stored 0x0A05 0xFF (pf 0 4 (licKind l) ||| pf 4 4 k ||| pf 16 16 (licSeq l))
  have hexec : exec (.licenceInstall l) s = .next (if licKind l = 3 then changeOwner told (ownerKey48 s) l else told) := by
    refine congrArg Host.Outcome.next ((if_pos hup).trans ?_)
    simp only [installLicence, hlength, hfault, hslot]
    rfl
  have htold : Raises stored told := raises_raise ..
  have hkept : OnlyEvents told (if licKind l = 3 then changeOwner told (ownerKey48 s) l else told) ∧
      (if licKind l = 3 then changeOwner told (ownerKey48 s) l else told).mgmt.licences = told.mgmt.licences := by
    split
    · exact changeOwner_keeps told l _
    · exact ⟨.refl told, rfl⟩
  obtain ⟨hevents, hlicences⟩ := hkept
  have hall : OnlyEvents s (if licKind l = 3 then changeOwner told (ownerKey48 s) l else told) :=
    .trans (t := stored) rfl (htold.events.trans hevents)
  refine ⟨_, hexec, hall.cores, hall.keepsMem, ?_⟩
  rw [hlicences, htold.mgmt.licences]
  exact aget_aput_same ..

theorem licenceInstall_refuses (hup : firmwareUp s = true) (hbad : l.length ≠ 256 ∨ licFault s l ≠ none) :
    ∃ t, exec (.licenceInstall l) s = .next t ∧ OnlyEvents s t ∧ t.mgmt.licences = s.mgmt.licences := by
  refine ⟨(installLicence s l).1, congrArg Host.Outcome.next (if_pos hup), ?_⟩
  unfold installLicence
  split
  · exact ⟨.refl s, rfl⟩
  · split
    case h_1 hlength _ _ _ hfault _ => exact absurd hfault (hbad.resolve_left hlength)
    case h_2 => exact ⟨onlyEvents_raise .., (raises_raise ..).mgmt.licences⟩
    case h_3 => exact ⟨.refl s, rfl⟩

end

/-! ## Staging (R456 to R458) -/

section
variable {s : State} {sid : BitVec 16}

theorem stageWrite_locked (f : State → Who → State × Nat) (hlocked : bit (dget s 0x8030 2) 3 = true) : stageWrite s sid f = s :=
  if_pos (.inr hlocked)

section
variable (hpriv : privileged s sid = true) (f : State → Who → State × Nat) (hopen : bit (dget s 0x8030 2) 3 = false)
include hpriv hopen

theorem stageWrite_open :
    stageWrite s sid f = if s.mgmt.bus.taken then waitBus s 3 else (f s (.session sid)).1 :=
  if_neg (by rw [hpriv, hopen]; decide)

theorem stageWrite_waits (htaken : s.mgmt.bus.taken = true) : stageWrite s sid f = waitBus s 3 :=
  (stageWrite_open hpriv f hopen).trans (if_pos htaken)

theorem stageWrite_runs (hfree : s.mgmt.bus.taken = false) : stageWrite s sid f = (f s (.session sid)).1 :=
  (stageWrite_open hpriv f hopen).trans (if_neg (by rw [hfree]; decide))

end

end

section
variable {s : State} {who : Who}

theorem stageBusy_none (hstate : dget s 0x6000 1 ≠ 3) (hstage : s.mgmt.stage = none) : stageBusy s who = false := by
  unfold stageBusy
  rw [hstage, beq_false_of_ne hstate]
  rfl

theorem stageBusy_own {x : Nat × List Byte} (hstate : dget s 0x6000 1 ≠ 3) (hstage : s.mgmt.stage = some (who, x)) :
    stageBusy s who = false := by
  unfold stageBusy
  rw [hstage, beq_false_of_ne hstate]
  exact bne_self_eq_false who

theorem stageBegin_opens {comp : Nat} (hstate : dget s 0x6000 1 ≠ 3) (hstage : s.mgmt.stage = none) (hlow : 1 ≤ comp)
    (hhigh : comp ≤ 4) : (stageBegin s who comp).1 =
      dset (dset (dset { s with mgmt := { s.mgmt with stage := some (who, comp, []) } } 0x8200 1 comp) 0x8200 4 1) 0x8200 5 0 := by
  unfold stageBegin
  rw [stageBusy_none hstate hstage, if_neg Bool.false_ne_true, if_neg (by omega)]

section
variable {comp : Nat} {bs : List Byte} (hstate : dget s 0x6000 1 ≠ 3) (hstage : s.mgmt.stage = some (who, comp, bs))
include hstate hstage

theorem stageAppend_appends {v : Nat} (hroom : bs.length + 8 ≤ 2 ^ 23) : (stageAppend s who v).1 =
    dset { s with mgmt := { s.mgmt with stage := some (who, comp, bs ++ leBytes 8 v) } } 0x8200 5 (bs.length + 8) := by
  unfold stageAppend
  rw [stageBusy_own hstate hstage, if_neg Bool.false_ne_true, hstage]
  dsimp only
  rw [if_neg (by unfold bundleMax; omega)]

/-- A commit takes the bundle and ends the staging; what it raises besides changes nothing of the slots. -/
theorem raises_stageEnd : Raises
    (let x := putBundle { s with mgmt := { s.mgmt with stage := none } } comp bs
    dset x.1 0x8200 4 (if x.2 = none then 2 else 3)) (stageEnd s who).1 := by
  unfold stageEnd
  rw [stageBusy_own hstate hstage, if_neg Bool.false_ne_true, hstage]
  dsimp only
  cases (putBundle { s with mgmt := { s.mgmt with stage := none } } comp bs).2 with
  | none => exact raises_raise ..
  | some n => exact raises_raise ..

end

/-- A bundle goes into the slot that was inactive. -/
theorem putBundle_puts (s : State) (comp : Nat) (bs : List Byte) :
    OnlyEvents s (putBundle s comp bs).1 ∧ (putBundle s comp bs).1.mgmt.stage = s.mgmt.stage ∧
      aget (2 * (comp - 1) + (1 - activeSlot s (comp - 1))) (putBundle s comp bs).1.mgmt.slots = some (parseBundle bs comp) ∧
      ((putBundle s comp bs).2 = none → activeSlot (putBundle s comp bs).1 (comp - 1) = 1 - activeSlot s (comp - 1)) ∧
      ((putBundle s comp bs).2 ≠ none → (putBundle s comp bs).1.mgmt.active = s.mgmt.active) := by
  unfold putBundle
  dsimp only
  split
  · exact ⟨rfl, rfl, aget_aput_same .., fun _ => agetD_aput_same .., fun h => absurd rfl h⟩
  · exact ⟨rfl, rfl, aget_aput_same .., fun h => (Option.some_ne_none _ h).elim, fun _ => rfl⟩

theorem stageEnd_puts {comp : Nat} {bs : List Byte} (hstate : dget s 0x6000 1 ≠ 3)
    (hstage : s.mgmt.stage = some (who, comp, bs)) :
    let t := (stageEnd s who).1
    t.cores = s.cores ∧ KeepsMem s t ∧ t.mgmt.stage = none ∧
      aget (2 * (comp - 1) + (1 - activeSlot s (comp - 1))) t.mgmt.slots = some (parseBundle bs comp) ∧
      ((putBundle { s with mgmt := { s.mgmt with stage := none } } comp bs).2 = none →
        activeSlot t (comp - 1) = 1 - activeSlot s (comp - 1) ∧ dget t 0x8200 4 = 2) ∧
      ((putBundle { s with mgmt := { s.mgmt with stage := none } } comp bs).2 ≠ none →
        t.mgmt.active = s.mgmt.active ∧ dget t 0x8200 4 = 3) := by
  intro t
  have hraises := raises_stageEnd hstate hstage
  obtain ⟨hevents, hnostage, hslot, hpass, hfail⟩ := putBundle_puts { s with mgmt := { s.mgmt with stage := none } } comp bs
  generalize putBundle { s with mgmt := { s.mgmt with stage := none } } comp bs = x at *
  have hstatus : dget t 0x8200 4 = if x.2 = none then 2 else 3 := (hraises.dget (by decide)).trans (dget_dset_same ..)
  have hall : OnlyEvents s t :=
    .trans (t := { s with mgmt := { s.mgmt with stage := none } }) rfl (hevents.trans (.trans (onlyEvents_dset ..) hraises.events))
  refine ⟨hall.cores, hall.keepsMem, hraises.mgmt.stage.trans hnostage, ?_, fun h => ⟨?_, ?_⟩, fun h => ⟨?_, ?_⟩⟩
  · rw [hraises.mgmt.slots]; exact hslot
  · rw [activeSlot, hraises.mgmt.active]; exact hpass h
  · rw [hstatus, if_pos h]
  · exact hraises.mgmt.active.trans (hfail h)
  · rw [hstatus, if_neg h]

end

/-! ## The hallmark report (R469, R470) -/

theorem hallmarkIssue_issues {s : State} (hup : firmwareUp s = true) : ∃ t, exec .hallmarkIssue s = .next t ∧
    t.cores = s.cores ∧ KeepsMem s t ∧ t.mgmt.report = reportBody s ++ Config.deviceSign (reportBody s) ∧
    dget t 0x8100 7 = 2 := by
  let issued := dset { s with mgmt := { s.mgmt with report := reportBody s ++ Config.deviceSign (reportBody s) } } 0x8100 7 2
  have hraises : Raises issued (issueReport s) := raises_raise ..
  have hall : OnlyEvents s (issueReport s) := .trans (t := issued) rfl hraises.events
  exact ⟨issueReport s, congrArg Host.Outcome.next (if_pos hup), hall.cores, hall.keepsMem, hraises.mgmt.report,
    (hraises.dget (by decide)).trans (dget_dset_same ..)⟩

/-! ## Locks of the service bus (R471) -/

section
variable {s : State} {n : Fin 8}

theorem aget_endArmed {k : Nat} {d : DrillSlot} (hdrill : aget k s.health.drills = some d) (harmed : d.st = 1) :
    aget k (endArmed s).health.drills = some { d with st := 3 } := by
  refine (aget_map (fun e => ?_) k s.health.drills).trans ?_
  · split <;> rfl
  · rw [hdrill, Option.map_some, if_pos harmed]

theorem bit_locked (v n : Nat) : bit (if bit v n then v else v + 2 ^ n) n = true := by
  split
  case isTrue h => exact h
  case isFalse h => rw [bit_add_two_pow (Bool.eq_false_iff.2 h), beq_self_eq_true, Bool.or_true]

theorem serviceBusCutoff_ignores {held : Nat} (h : 5 < n.val ∨ held ≤ dget s 0x8030 1) :
    exec (.serviceBusCutoff ⟨n, held⟩) s = .next s := congrArg Host.Outcome.next (if_pos h)

theorem serviceBusCutoff_locks {held : Nat} (hreq : n.val ≤ 5) (hlong : dget s 0x8030 1 < held) :
    ∃ t, exec (.serviceBusCutoff ⟨n, held⟩) s = .next t ∧ t.cores = s.cores ∧ KeepsMem s t ∧
      bit (dget t 0x8030 2) n.val = true ∧
      (n.val = 5 → ∀ k d, aget k s.health.drills = some d → d.st = 1 → aget k t.health.drills = some { d with st := 3 }) ∧
      (n.val ≠ 5 → t.health = s.health) := by
  let locked := dset s 0x8030 2 (if bit (dget s 0x8030 2) n.val then dget s 0x8030 2 else dget s 0x8030 2 + 2 ^ n.val)
  let counted := dbump locked 0x8030 3 31 0
  let timed : State := if n.val = 0 then { counted with mgmt := { counted.mgmt with bus := { counted.mgmt.bus with fwCut := counted.prc } } }
    else counted
  let ended := if n.val = 5 then endArmed timed else timed
  have hexec : exec (.serviceBusCutoff ⟨n, held⟩) s = .next (raise ended 0x0A0B 0xFF (pf 0 3 n.val)) :=
    congrArg Host.Outcome.next (if_neg (by change ¬(5 < n.val ∨ held ≤ dget s 0x8030 1); omega))
  have htimed : OnlyEvents s timed := by
    have hcounted : OnlyEvents s counted := .trans (t := locked) rfl (onlyEvents_dbump ..)
    unfold timed
    split
    · exact hcounted.trans rfl
    · exact hcounted
  have hlock : bit (dget timed 0x8030 2) n.val = true := by
    have hdict : DictBut (· = cairnSlot 0x8030 3) locked counted :=
      dictBut_dbump (slots := (· = cairnSlot 0x8030 3)) locked rfl 31 0
    have htimedDict : timed.dict = counted.dict := by
      unfold timed
      split <;> rfl
    have hget : dget timed 0x8030 2 = dget locked 0x8030 2 := by
      rw [← hdict.dget (by decide), dget, htimedDict, ← dget]
    rw [hget, dget_dset_same]
    exact bit_locked ..
  have hended : ended = { timed with health := ended.health } := by
    unfold ended
    split <;> rfl
  have hraises : Raises ended (raise ended 0x0A0B 0xFF (pf 0 3 n.val)) := raises_raise ..
  refine ⟨_, hexec, ?_, ?_, ?_, fun h5 k d hdrill harmed => ?_, fun h5 => ?_⟩
  · rw [hraises.events.cores, hended, htimed.cores]
  · have hmem : KeepsMem timed ended := by rw [hended]; exact .refl timed
    exact htimed.keepsMem.trans (hmem.trans hraises.events.keepsMem)
  · rw [hraises.dget (by decide), hended]
    exact hlock
  · rw [hraises.events.health, show ended = endArmed timed from if_pos h5]
    exact aget_endArmed (by rw [htimed.health]; exact hdrill) harmed
  · rw [hraises.events.health, show ended = timed from if_neg h5, htimed.health]

theorem firmwareLockClear_clears (hlocked : bit (dget s 0x8030 2) 0 = true) (hdue : s.mgmt.bus.fwCut + usTicks 10000 ≤ s.prc) :
    exec .firmwareLockClear s = .next (dset s 0x8030 2 (dget s 0x8030 2 - 1)) := by
  have hgo : (bit (dget s 0x8030 2) 0 && decide (s.mgmt.bus.fwCut + usTicks 10000 ≤ s.prc)) = true := by
    rw [hlocked, decide_eq_true hdue]; rfl
  exact congrArg Host.Outcome.next ((if_pos hgo).trans (if_pos hlocked))

theorem busLockClear_clears (hlow : 1 ≤ n.val) (hhigh : n.val ≤ 5) (hlocked : bit (dget s 0x8030 2) n.val = true) :
    exec (.busLockClear n) s = .next (dset s 0x8030 2 (dget s 0x8030 2 - 2 ^ n.val)) :=
  congrArg Host.Outcome.next ((if_neg (by omega)).trans (if_pos hlocked))

end

/-! ## The statement -/

/-- Settles O56: each clause is what its record, staging write, report or lock does. -/
theorem management : Obligations.Management := by
  refine ⟨fun l s hup => ⟨fun k => licenceInstall_stores hup, licenceInstall_refuses hup⟩, fun sid s hpriv comp v i hi => ?_,
    fun sid s hpriv hopen hfree hstate => ⟨fun comp hstage hlow hhigh => ?_, fun comp bs hstage => ⟨fun v hroom => ?_, ?_⟩⟩,
    fun s => hallmarkIssue_issues, fun n held s => ⟨serviceBusCutoff_ignores, serviceBusCutoff_locks,
      firmwareLockClear_clears, busLockClear_clears⟩⟩
  case refine_1 =>
    have hstage {i : Instr} {f : State → Who → State × Nat} (hexec : exec i s = .next (stageWrite s sid f)) :
        (bit (dget s 0x8030 2) 3 = true → exec i s = .next s) ∧
        (bit (dget s 0x8030 2) 3 = false → s.mgmt.bus.taken = true → exec i s = .next (waitBus s 3)) :=
      ⟨fun hlocked => hexec.trans (congrArg Host.Outcome.next (stageWrite_locked f hlocked)),
        fun hopen htaken => hexec.trans (congrArg Host.Outcome.next (stageWrite_waits hpriv f hopen htaken))⟩
    simp only [List.mem_cons, List.not_mem_nil, or_false] at hi
    obtain rfl | rfl | rfl := hi <;> exact hstage rfl
  case refine_2 =>
    have hopens := stageBegin_opens (who := .session sid) hstate hstage hlow hhigh
    refine ⟨_, congrArg Host.Outcome.next ((stageWrite_runs hpriv _ hopen hfree).trans hopens), rfl, ?_, ?_, dget_dset_same ..⟩
    · rw [dget_dset_other _ _ (by decide), dget_dset_other _ _ (by decide), dget_dset_same]
    · rw [dget_dset_other _ _ (by decide), dget_dset_same]
  case refine_3 =>
    exact ⟨_, congrArg Host.Outcome.next ((stageWrite_runs hpriv _ hopen hfree).trans (stageAppend_appends hstate hstage hroom)),
      rfl, dget_dset_same ..⟩
  case refine_4 =>
    exact ⟨_, congrArg Host.Outcome.next (stageWrite_runs hpriv _ hopen hfree), stageEnd_puts hstate hstage⟩

end Sys2Proof.Machine

/-!
Cairn sessions (R460 to R468): what a handshake, a request, a close and the timeouts do to the sessions and the handshakes.
-/
namespace Sys2Proof.Machine

open Sys2Proof

/-! ## Handshakes (R461, R462, R464) -/

section
variable {mac : BitVec 48} {s : State} (hup : firmwareUp s = true) (hopen : isBlocked s mac = false)
include hup hopen

/-- The endpoint takes the frames of the station. -/
theorem takes_frames : ¬(firmwareUp s = false ∨ isBlocked s mac = true) := by
  rw [hup, hopen]
  decide

section
variable {m : HelloMsg} (hstation : ((within s 1 s.mgmt.hellos).filter fun e => e.1 == mac).length < 4)
  (hall : (within s 1 s.mgmt.hellos).length < 16) (hroom : s.mgmt.shakes.length < 8)
include hstation hall hroom

theorem hello_opens (hfault : helloFault s m = none) : ∃ t h bs, exec (.hello mac m) s = .next t ∧
    t = { s with fresh := s.fresh + 1, mgmt := t.mgmt, out := s.out ++ [.frame mac bs] } ∧
    t.mgmt.shakes = s.mgmt.shakes ++ [h] ∧ h.mac = mac ∧ h.level = m.level.toNat ∧ h.start = s.prc ∧
    t.mgmt.sessions = s.mgmt.sessions := by
  have hfaultCounted : helloFault { s with mgmt := { s.mgmt with hellos := within s 1 s.mgmt.hellos ++ [(mac, s.prc)] } } m = none :=
    hfault
  have hrate : ¬(4 ≤ ((within s 1 s.mgmt.hellos).filter fun e => e.1 == mac).length ∨ 16 ≤ (within s 1 s.mgmt.hellos).length) := by
    omega
  have hexec : exec (.hello mac m) s = execHello mac m s := rfl
  simp only [hexec, execHello, if_neg (takes_frames hup hopen), if_neg hrate, if_neg (Nat.not_le.2 hroom), hfaultCounted]
  exact ⟨_, _, _, rfl, rfl, rfl, rfl, rfl, rfl, rfl⟩

theorem hello_refuses {n : Nat} (hfault : helloFault s m = some n) : ∃ t, exec (.hello mac m) s = .next t ∧
    t.mgmt.shakes = s.mgmt.shakes ∧
    t = { s with mgmt := t.mgmt, out := s.out ++ [.frame mac (cairnMsg 7 0 0 [BitVec.ofNat 8 n])] } := by
  have hfaultCounted : helloFault { s with mgmt := { s.mgmt with hellos := within s 1 s.mgmt.hellos ++ [(mac, s.prc)] } } m
      = some n := hfault
  have hrate : ¬(4 ≤ ((within s 1 s.mgmt.hellos).filter fun e => e.1 == mac).length ∨ 16 ≤ (within s 1 s.mgmt.hellos).length) := by
    omega
  refine ⟨emit { s with mgmt := { s.mgmt with hellos := within s 1 s.mgmt.hellos ++ [(mac, s.prc)] } }
    (.frame mac (cairnMsg 7 0 0 [BitVec.ofNat 8 n])), congrArg Host.Outcome.next ((if_neg (takes_frames hup hopen)).trans
    ((if_neg hrate).trans ((if_neg (Nat.not_le.2 hroom)).trans ?_))), rfl, rfl⟩
  rw [hfaultCounted]

end

theorem finish_opens {sid : BitVec 16} {sig tag : List Byte} {h : Handshake}
    (hshake : (s.mgmt.shakes.find? fun h => h.sid == sid && h.mac == mac) = some h)
    (htag : tag = tagOf h.keyIn (cairnMsg 3 sid 0 sig)) (hok : finishOk h sig = true) (hroom : s.mgmt.sessions.length < 8) :
    ∃ t, exec (.finish mac sid sig tag) s = .next t ∧ t.cores = s.cores ∧ KeepsMem s t ∧
      t.mgmt.sessions = s.mgmt.sessions ++ [⟨sid, mac, h.level, h.keyIn, h.keyOut, none, s.prc, [], h.cert⟩] ∧
      t.mgmt.shakes = s.mgmt.shakes.filter fun x => x.sid != sid := by
  let opened : State := { s with mgmt := { s.mgmt with
    shakes := s.mgmt.shakes.filter fun x => x.sid != sid,
    sessions := s.mgmt.sessions ++ [⟨sid, mac, h.level, h.keyIn, h.keyOut, none, s.prc, [], h.cert⟩] } }
  have hraises := raises_raise opened 0x0A08 0xFF (pf 0 16 sid.toNat ||| pf 16 2 h.level ||| pf 64 48 mac.toNat)
  refine ⟨_, congrArg Host.Outcome.next ((if_neg (takes_frames hup hopen)).trans ?_), hraises.events.cores,
    hraises.events.keepsMem, hraises.mgmt.sessions, hraises.mgmt.shakes⟩
  rw [hshake]
  dsimp only
  rw [if_neg (not_not.2 htag), if_neg (by rw [hok]; decide), if_neg (Nat.not_le.2 hroom)]

end

theorem failShake_keeps (s : State) (mac : BitVec 48) : OnlyEvents s (failShake s mac) ∧
    (failShake s mac).mgmt.shakes = s.mgmt.shakes := by
  unfold failShake
  dsimp only
  split
  · refine ⟨.trans ?_ (onlyEvents_raise ..), (raises_raise ..).mgmt.shakes⟩
    rfl
  · exact ⟨rfl, rfl⟩

theorem finishTimeout_ends {sid : BitVec 16} {s : State} {h : Handshake}
    (hshake : (s.mgmt.shakes.find? fun h => h.sid == sid) = some h) (hdue : h.start + secTicks ≤ s.prc) :
    ∃ t, exec (.finishTimeout sid) s = .next t ∧ t.cores = s.cores ∧ KeepsMem s t ∧
      t.mgmt.shakes = s.mgmt.shakes.filter fun x => x.sid != sid := by
  obtain ⟨hevents, hshakes⟩ := failShake_keeps
    { s with mgmt := { s.mgmt with shakes := s.mgmt.shakes.filter fun x => x.sid != sid } } h.mac
  refine ⟨_, ?_, hevents.cores, hevents.keepsMem, hshakes⟩
  change Host.Outcome.next _ = _
  rw [hshake]
  exact congrArg Host.Outcome.next (if_neg (Nat.not_lt.2 hdue))

/-! ## Requests (R465, R466) -/

/-- A request of one read is answered with its status and data (R466). -/
theorem runOps_read {body : List Byte} (hlength : body.length = 8) (hread : leNat body % 256 = 1) (s : State) (who : Who) :
    let n := bits (leNat body) 31 8
    let y := cairnRead s who (n / 256) (n % 256)
    runOps 2 s who body [] = (s, leBytes 8 (setBits (leNat body) 63 48 y.1) ++ padded y.2) := by
  have htake : body.take 8 = body := List.take_of_length_le (by omega)
  have hrest : body.drop 8 = [] := List.drop_of_length_le (by omega)
  have hop : bits (leNat body) 7 0 = 1 := by rw [bits, Nat.pow_zero, Nat.div_one]; exact hread
  have hrun : runOp s who (leNat body) [] = ⟨s, (cairnRead s who (bits (leNat body) 31 8 / 256) (bits (leNat body) 31 8 % 256)).1,
      padded (cairnRead s who (bits (leNat body) 31 8 / 256) (bits (leNat body) 31 8 % 256)).2, 8⟩ := by
    unfold runOp
    dsimp only
    rw [if_pos hop]
  simp only [runOps, hlength, htake, hrest, hrun, Nat.lt_irrefl, if_false, List.length_nil, List.nil_append, Nat.zero_lt_succ,
    if_true]

/-- A response of an accepted request goes out, and of the state the sessions alone keep it. -/
theorem acceptRequest_read {body tag : List Byte} {x : Session} {s : State} {seq : Nat} (hlength : body.length = 8)
    (hread : leNat body % 256 = 1) (hlast : seq ≠ 2 ^ 32 - 1) :
    let n := bits (leNat body) 31 8
    let y := cairnRead s (.session x.sid) (n / 256) (n % 256)
    let m := cairnMsg 5 x.sid seq (leBytes 8 (setBits (leNat body) 63 48 y.1) ++ padded y.2)
    acceptRequest s x seq body tag = { s with mgmt := (acceptRequest s x seq body tag).mgmt,
                                              out := s.out ++ [.frame x.mac (m ++ tagOf x.keyOut m)] } := by
  unfold acceptRequest
  rw [hlength, runOps_read hlength hread, if_neg hlast]
  rfl

section
variable {s : State} {x : Session} {seq : Nat} {body tag : List Byte}

/-- A sequence number above the last is accepted, and so is any but 0 as the first. -/
theorem takeRequest_accepts (hfirst : seq ≠ 0) (hnext : ∀ l, x.last = some l → l.1 < seq) :
    takeRequest s x seq body tag = acceptRequest s x seq body tag := by
  unfold takeRequest
  split
  case h_1 => exact if_neg hfirst
  case h_2 q t resp hlast =>
    have hq : q < seq := hnext _ hlast
    rw [if_neg (by omega), if_neg (by omega)]

theorem takeRequest_repeats {resp : List Byte} (hlast : x.last = some (seq, tag, resp)) :
    takeRequest s x seq body tag = sendResponse s x seq resp := by
  unfold takeRequest
  rw [hlast]
  exact if_pos ⟨rfl, rfl⟩

theorem takeRequest_discards {l : Nat × List Byte × List Byte} (hlast : x.last = some l) (hearlier : seq < l.1) :
    takeRequest s x seq body tag = s := by
  obtain ⟨q, t, resp⟩ := l
  have hq : seq < q := hearlier
  unfold takeRequest
  rw [hlast]
  exact (if_neg (by omega)).trans (if_pos (by omega))

end

section
variable {mac : BitVec 48} {sid : BitVec 16} {x : Session} {s : State} (hup : firmwareUp s = true)
  (hopen : isBlocked s mac = false)
  (hsession : (s.mgmt.sessions.find? fun x => x.sid == sid && x.mac == mac) = some x)

include hsession in
theorem station_of_session : x.sid = sid ∧ x.mac = mac := by
  have hboth := List.find?_some hsession
  rwa [Bool.and_eq_true, beq_iff_eq, beq_iff_eq] at hboth

include hup hopen hsession

theorem exec_request {seq : BitVec 32} {body tag : List Byte} (hlength : body.length ≤ 1400)
    (htag : tag = tagOf x.keyIn (cairnMsg 4 sid seq.toNat body)) :
    exec (.request mac sid seq body tag) s = .next
      (if s.mgmt.bus.taken && opsNeedBus (body.length / 8 + 1) body then waitBus s 3 else takeRequest s x seq.toNat body tag) := by
  have htakes : ¬(firmwareUp s = false ∨ isBlocked s mac = true ∨ 1400 < body.length) := by
    rw [hup, hopen]
    simp only [Bool.true_eq_false, Bool.false_eq_true, false_or]
    omega
  refine congrArg Host.Outcome.next ((if_neg htakes).trans ?_)
  rw [hsession]
  exact if_pos htag

/-- A close whose tag verifies ends the session (R467). -/
theorem close_ends {seq : BitVec 32} {tag : List Byte} (htag : tag = tagOf x.keyIn (cairnMsg 6 sid seq.toNat [])) :
    exec (.close mac sid seq tag) s = .next (endSession s sid 1) := by
  refine congrArg Host.Outcome.next ((if_neg (takes_frames hup hopen)).trans ?_)
  rw [hsession]
  exact if_pos htag

end

/-! ## The end of a session (R467, R468) -/

theorem endSession_ends {s : State} {sid : BitVec 16} {x : Session} (hfound : findSession s sid = some x) (cause : Nat) :
    (endSession s sid cause).cores = s.cores ∧ KeepsMem s (endSession s sid cause) ∧
      (endSession s sid cause).mgmt.sessions = s.mgmt.sessions.filter fun x => x.sid != sid :=
  ⟨(onlyEvents_endSession s sid cause).cores, (onlyEvents_endSession s sid cause).keepsMem,
    (raises_endSession s sid cause hfound).mgmt.sessions.trans (sessions_sessionGone s sid)⟩

/-- The session of a station is found by its sid. -/
theorem findSession_of_station {mac : BitVec 48} {sid : BitVec 16} {x : Session} {s : State}
    (hsession : (s.mgmt.sessions.find? fun x => x.sid == sid && x.mac == mac) = some x) : ∃ y, findSession s sid = some y := by
  refine Option.isSome_iff_exists.1 (List.find?_isSome.2 ⟨x, List.mem_of_find?_eq_some hsession, ?_⟩)
  rw [(station_of_session hsession).1]
  exact beq_self_eq_true sid

theorem sessionIdleTimeout_ends {s : State} {sid : BitVec 16} {x : Session} (hfound : findSession s sid = some x)
    (hdue : x.at_ + dget s 0x8000 5 * secTicks ≤ s.prc) : exec (.sessionIdleTimeout sid) s = .next (endSession s sid 2) := by
  change Host.Outcome.next _ = _
  rw [hfound]
  exact congrArg Host.Outcome.next (if_pos hdue)

theorem stationUnblock_frees {mac : BitVec 48} {s : State} (hdue : ∀ e ∈ s.mgmt.blocked, e.1 = mac → e.2 + 60 * secTicks ≤ s.prc) :
    ∃ t, exec (.stationUnblock mac) s = .next t ∧ t = { s with mgmt := { s.mgmt with blocked := t.mgmt.blocked } } ∧
      isBlocked t mac = false := by
  refine ⟨_, rfl, rfl, List.any_eq_false.2 fun e he hmac => ?_⟩
  obtain ⟨hblocked, hkept⟩ := List.mem_filter.1 he
  have hdone := hdue e hblocked (beq_iff_eq.1 hmac)
  rw [hmac, decide_eq_true hdone] at hkept
  exact Bool.false_ne_true hkept

/-! ## The statement -/

/-- Settles O57: each clause is what its frame or timeout does. -/
theorem cairnSessions : Obligations.CairnSessions := by
  refine ⟨fun mac m s hup hopen hstation hall hroom => ⟨hello_opens hup hopen hstation hall hroom,
      fun n => hello_refuses hup hopen hstation hall hroom⟩, fun mac sid sig tag h s hup hopen => finish_opens hup hopen,
    fun mac sid seq body tag x s hup hopen hlength hsession htag => ?_, fun mac sid seq tag x s hup hopen hsession htag => ?_,
    fun sid s => ⟨fun x hfound hdue => ⟨_, sessionIdleTimeout_ends hfound hdue, endSession_ends hfound 2⟩,
      fun h => finishTimeout_ends⟩, fun mac s => stationUnblock_frees⟩
  case refine_1 =>
    obtain ⟨rfl, rfl⟩ := station_of_session hsession
    have hexec := exec_request hup hopen hsession hlength htag
    intro waits
    refine ⟨fun hwaits => hexec.trans (congrArg Host.Outcome.next (if_pos hwaits)),
      fun hwaits height hread hfirst hlast hnext => ?_, fun resp hwaits hlast => ?_, fun l hwaits hlast hearlier => ?_⟩
    all_goals rw [hexec, if_neg (Bool.eq_false_iff.1 hwaits)]
    · exact ⟨_, congrArg Host.Outcome.next (takeRequest_accepts hfirst hnext), acceptRequest_read height hread hlast⟩
    · rw [takeRequest_repeats hlast]; rfl
    · rw [takeRequest_discards hlast hearlier]
  case refine_2 =>
    obtain ⟨y, hfound⟩ := findSession_of_station hsession
    exact ⟨_, close_ends hup hopen hsession htag, endSession_ends hfound 1⟩

end Sys2Proof.Machine

/-!
What is observed of positions and dies (R412 to R427): hours, sweeps, heartbeats, probes and liveness.
-/
namespace Sys2Proof.Machine

open Sys2Proof

/-- What each step of a fold leaves of a state, the fold leaves. -/
theorem foldl_keeps {α β : Type} (f : State → β) {g : State → α → State} (hg : ∀ s a, f (g s a) = f s) (l : List α) (s : State) :
    f (l.foldl g s) = f s := by
  induction l generalizing s with
  | nil => rfl
  | cons a l ih => exact (ih _).trans (hg s a)

/-! ## Counts in a position's record (R410) -/

section
variable (s : State) (p hi lo : Nat)

theorem healthBump_eq : healthBump s p hi lo =
    { s with health := { s.health with recs := (healthBump s p hi lo).health.recs } } := by
  simp only [healthBump]
  split <;> rfl

theorem repair_healthBump : (healthBump s p hi lo).health.repair = s.health.repair := by rw [healthBump_eq]

theorem bits_healthBump : bits (healthRec (healthBump s p hi lo) p) hi lo =
    min (2 ^ (hi + 1 - lo) - 1) (bits (healthRec s p) hi lo + 1) := by
  have hlt : bits (healthRec s p) hi lo < 2 ^ (hi + 1 - lo) := Nat.mod_lt _ (Nat.two_pow_pos _)
  simp only [healthBump]
  split
  case isTrue hroom => rw [healthRec_setHealthRec_same, bits_setBits, Nat.mod_eq_of_lt hroom]; omega
  case isFalse hfull => omega

variable {hi lo} (hfield : lo ≤ hi + 1) (q : Nat)
include hfield

theorem testBit_healthBump {k : Nat} (hapart : k < lo ∨ hi < k) :
    bit (healthRec (healthBump s p hi lo) q) k = bit (healthRec s q) k := by
  simp only [healthBump]
  split
  case isTrue =>
    by_cases hq : q = p
    · rw [hq, healthRec_setHealthRec_same, bit_setBits_other hfield hapart]
    · rw [healthRec_setHealthRec_other s hq]
  case isFalse => rfl

theorem bits_healthBump_other {hi' lo' : Nat} (hapart : hi' < lo ∨ hi < lo') :
    bits (healthRec (healthBump s p hi lo) q) hi' lo' = bits (healthRec s q) hi' lo' := by
  simp only [healthBump]
  split
  case isTrue =>
    by_cases hq : q = p
    · rw [hq, healthRec_setHealthRec_same, bits_setBits_other hfield hapart]
    · rw [healthRec_setHealthRec_other s hq]
  case isFalse => rfl

theorem condOf_healthBump (hlo : 2 < lo) : condOf (healthBump s p hi lo) q = condOf s q :=
  bits_healthBump_other s p hfield q (.inl hlo)

end

/-! ## The end of a powered hour (R418) -/

theorem uncheckedHour_restarts (pcid : BitVec 14) {s : State} (hrise : keysRise s.health.hourTiles = true) :
    ∃ t, exec (.uncheckedHour pcid) s = .next t ∧ t.cores = s.cores ∧ KeepsMem s t ∧ aget pcid.toNat t.health.hourTiles = none ∧
      bits (healthRec t pcid.toNat) 55 40 = 0 ∧ condOf t pcid.toNat = condOf s pcid.toNat := by
  let hour : State := { s with health := { s.health with hourTiles := adel pcid.toNat s.health.hourTiles } }
  let counted := if bits (healthRec hour pcid.toNat) 55 40 = 0 then hour
    else setHealthRec hour pcid.toNat (setBits (healthRec hour pcid.toNat) 55 40 0)
  have hcounted : counted = { hour with health := { hour.health with recs := counted.health.recs } } := by
    unfold counted
    split <;> rfl
  have hclear : bits (healthRec counted pcid.toNat) 55 40 = 0 := by
    unfold counted
    split
    case isTrue h => exact h
    case isFalse => rw [healthRec_setHealthRec_same, bits_setBits]; rfl
  have hcond : condOf counted pcid.toNat = condOf s pcid.toNat := by
    unfold counted
    split
    case isTrue => rfl
    case isFalse =>
      rw [condOf, healthRec_setHealthRec_same, bits_setBits_other (by decide) (by decide)]
      rfl
  obtain ⟨t, hexec, ht⟩ : ∃ t, exec (.uncheckedHour pcid) s = .next t ∧ OnlyEvents counted t := by
    refine ⟨_, rfl, ?_⟩
    dsimp only
    split
    · exact onlyEvents_recommend ..
    · exact .refl counted
  have hmem : KeepsMem s counted := by rw [hcounted]; exact .refl s
  refine ⟨t, hexec, ?_, hmem.trans ht.keepsMem, ?_, ?_, ?_⟩
  · rw [ht.cores, hcounted]
  · rw [ht.health, hcounted]
    exact aget_adel_same hrise
  · rw [healthRec_of_recs (congrArg HealthSt.recs ht.health), hclear]
  · rw [condOf_of_recs (congrArg HealthSt.recs ht.health), hcond]

/-! ## A sweep (R420, R421) -/

section
variable (s : State) (c : Nat)

theorem core_sweepTrace : (core (sweepTrace s c) c).st = (core s c).st ∧ (core (sweepTrace s c) c).ibuf = [] := by
  have hcore : core (sweepTrace s c) c = { core s c with
      ibuf := [], mat := { MatSt.reset with free := some s.fresh, lfsr := (core s c).mat.lfsr },
      vec := { VecSt.reset with free := some s.fresh, lfsr := (core s c).vec.lfsr } } := core_setCore_same ..
  rw [hcore]
  exact ⟨rfl, rfl⟩

end

/-- What a position that is made suspect changes besides the records of events: its condition and the time. -/
theorem makeSuspect_eq (s : State) (p cause : Nat) : ∃ u, OnlyEvents u (makeSuspect s p cause) ∧
    ∃ x, u = { (if condOf s p = 0 then setCond s p 1 cause else s) with
      health := { (if condOf s p = 0 then setCond s p 1 cause else s).health with suspectAt := x } } := by
  unfold makeSuspect
  extract_lets again placed health noted told
  refine ⟨noted, ?_, _, rfl⟩
  have htold : OnlyEvents noted told := onlyEvents_recommend ..
  split
  · split
    · exact htold.trans (onlyEvents_recommend ..)
    · exact htold
  · split
    · exact onlyEvents_recommend ..
    · exact .refl noted

section
variable (s : State) (p cause : Nat)

theorem cores_makeSuspect : (makeSuspect s p cause).cores = s.cores := by
  obtain ⟨u, hu, x, rfl⟩ := makeSuspect_eq s p cause
  rw [hu.cores]
  dsimp only
  split
  · exact (onlyRepair_setCondD ..).cores
  · rfl

theorem condOf_makeSuspect : condOf (makeSuspect s p cause) p = if condOf s p = 0 then 1 else condOf s p := by
  obtain ⟨u, hu, x, rfl⟩ := makeSuspect_eq s p cause
  rw [condOf_of_recs (congrArg HealthSt.recs hu.health)]
  split
  · exact condOf_setCondD s false p cause (by decide)
  · rfl

theorem bits_makeSuspect {hi lo : Nat} (hlo : 7 < lo) :
    bits (healthRec (makeSuspect s p cause) p) hi lo = bits (healthRec s p) hi lo := by
  obtain ⟨u, hu, x, rfl⟩ := makeSuspect_eq s p cause
  rw [healthRec_of_recs (congrArg HealthSt.recs hu.health)]
  split
  · refine Eq.trans (congrArg (fun v => bits v hi lo) ?_) (bits_healthRec_condSet s p 1 cause (.inr hlo))
    exact healthRec_of_recs (congrArg HealthSt.recs (raises_setCond ..).events.health) p
  · rfl

end

theorem onlyEvents_sweepFail (s : State) (p : Nat) (pushed : Bool) (temp unit_ : Nat) :
    OnlyEvents (healthBump s p 39 32) (sweepFail s p pushed temp unit_) := onlyEvents_raise ..

section
variable {pcid : BitVec 14} {c : Nat} {s : State} (hserves : coreOfPcid s pcid.toNat = some c) (hmay : maySweep s c = true)
include hserves hmay

theorem maySweep_idle : (core s c).st = .idle ∧ condOf s pcid.toNat ≤ 1 := by
  unfold maySweep at hmay
  rw [Bool.and_eq_true, Bool.and_eq_true, Bool.and_eq_true] at hmay
  obtain ⟨⟨⟨hidle, -⟩, hcond⟩, -⟩ := hmay
  rw [pcidOf_of_coreOfPcid hserves] at hcond
  exact ⟨beq_iff_eq.1 hidle, of_decide_eq_true hcond⟩

theorem exec_sweep (pass : Bool) (temp : BitVec 16) (u : BitVec 4) : exec (.sweep pcid pass temp u) s = .next
    (if startComes s c then sweepTrace s c
    else if pass then healthBump (sweepTrace s c) pcid.toNat 31 16
    else makeSuspect (sweepFail (sweepTrace s c) pcid.toNat false temp.toNat u.toNat) pcid.toNat 3) := by
  change Host.Outcome.next _ = _
  dsimp only
  rw [hserves]
  exact congrArg Host.Outcome.next (if_pos hmay)

variable (temp : BitVec 16) (u : BitVec 4)

theorem sweep_abandoned (hstart : startComes s c = true) (pass : Bool) : ∃ t, exec (.sweep pcid pass temp u) s = .next t ∧
    t = { s with cores := t.cores, fresh := s.fresh + 1 } ∧ (core t c).st = .idle ∧ (core t c).ibuf = [] :=
  ⟨sweepTrace s c, (exec_sweep hserves hmay pass temp u).trans (congrArg Host.Outcome.next (if_pos hstart)), rfl,
    (core_sweepTrace s c).1.trans (maySweep_idle hserves hmay).1, (core_sweepTrace s c).2⟩

variable (hstart : startComes s c = false)
include hstart

theorem sweep_passes : ∃ t, exec (.sweep pcid true temp u) s = .next t ∧ KeepsMem s t ∧ (core t c).st = .idle ∧
    (core t c).ibuf = [] ∧ bits (healthRec t pcid.toNat) 31 16 = min 0xFFFF (bits (healthRec s pcid.toNat) 31 16 + 1) ∧
    condOf t pcid.toNat = condOf s pcid.toNat := by
  have hcore : core (healthBump (sweepTrace s c) pcid.toNat 31 16) c = core (sweepTrace s c) c := by rw [healthBump_eq]; rfl
  refine ⟨_, (exec_sweep hserves hmay true temp u).trans (congrArg Host.Outcome.next (if_neg (by rw [hstart]; decide))),
    keepsMem_of_mems (by simp), ?_, ?_, bits_healthBump .., condOf_healthBump _ _ (by decide) _ (by decide)⟩
  · exact (congrArg Core.st hcore).trans ((core_sweepTrace s c).1.trans (maySweep_idle hserves hmay).1)
  · exact (congrArg Core.ibuf hcore).trans (core_sweepTrace s c).2

theorem sweep_fails : ∃ t, exec (.sweep pcid false temp u) s = .next t ∧ KeepsMem s t ∧ (core t c).st = .idle ∧
    bits (healthRec t pcid.toNat) 39 32 = min 0xFF (bits (healthRec s pcid.toNat) 39 32 + 1) ∧
    condOf t pcid.toNat = 1 := by
  have hfail := onlyEvents_sweepFail (sweepTrace s c) pcid.toNat false temp.toNat u.toNat
  have hrec := healthRec_of_recs (congrArg HealthSt.recs hfail.health) pcid.toNat
  refine ⟨_, (exec_sweep hserves hmay false temp u).trans (congrArg Host.Outcome.next (if_neg (by rw [hstart]; decide))),
    keepsMem_of_mems (by simp), ?_, ?_, ?_⟩
  · have hcores : (makeSuspect (sweepFail (sweepTrace s c) pcid.toNat false temp.toNat u.toNat) pcid.toNat 3).cores
        = (sweepTrace s c).cores := by
      rw [cores_makeSuspect, hfail.cores, healthBump_eq]
    exact (congrArg Core.st (core_of_cores hcores c)).trans ((core_sweepTrace s c).1.trans (maySweep_idle hserves hmay).1)
  · exact (bits_makeSuspect _ _ _ (by decide)).trans ((congrArg (fun v => bits v 39 32) hrec).trans (bits_healthBump ..))
  · have hcond : condOf (sweepFail (sweepTrace s c) pcid.toNat false temp.toNat u.toNat) pcid.toNat = condOf s pcid.toNat :=
      (condOf_of_recs (congrArg HealthSt.recs hfail.health) _).trans (condOf_healthBump (sweepTrace s c) _ (by decide) _ (by decide))
    refine (condOf_makeSuspect ..).trans ?_
    rw [hcond]
    have hle := (maySweep_idle hserves hmay).2
    split <;> omega

end

/-! ## A sweep with margin pushed (R421) -/

/-- What a sweep with margin pushed does to one core of the region. -/
def pushedSwept (aborted : Bool) (failed : List Nat) (temp unit_ : Nat) (s : State) (c : Nat) : State :=
  let t := sweepTrace s c
  if aborted then t
  else if failed.contains (pcidOf t c) then pushedFail t (pcidOf t c) temp unit_ else healthBump t (pcidOf t c) 31 16

section
variable (failed : List Nat) (temp unit_ : Nat)

theorem health_pushedSwept_aborted (s : State) (c : Nat) : (pushedSwept true failed temp unit_ s c).health = s.health := rfl

@[simp] theorem mems_pushedSwept (aborted : Bool) (s : State) (c : Nat) :
    (pushedSwept aborted failed temp unit_ s c).mems = s.mems := by
  unfold pushedSwept
  dsimp only
  split
  · simp
  · split <;> simp

section
variable (s : State) (p : Nat)

theorem repair_pushedFail : (pushedFail s p temp unit_).health.repair = s.health.repair := by
  rw [pushedFail, (onlyEvents_sweepFail ..).health, repair_healthBump]
  rfl

/-- The marginal flag after a failure: that of the position is set, every other stays. -/
theorem marginal_pushedFail (q : Nat) : bit (healthRec (pushedFail s p temp unit_) q) 3 =
    (q == p || bit (healthRec s q) 3) := by
  rw [pushedFail, healthRec_of_recs (congrArg HealthSt.recs (onlyEvents_sweepFail ..).health),
    testBit_healthBump _ _ (by decide) _ (by decide)]
  by_cases hq : q = p
  · rw [hq, healthRec_setHealthRec_same, bit_setBits_single, beq_self_eq_true]
    rfl
  · rw [healthRec_setHealthRec_other s hq, beq_false_of_ne hq, Bool.false_or]

end

variable (s : State) (c : Nat)

theorem repair_pushedSwept : (pushedSwept false failed temp unit_ s c).health.repair = s.health.repair := by
  unfold pushedSwept
  dsimp only
  split
  · contradiction
  · split
    · rw [repair_pushedFail]; rfl
    · rw [repair_healthBump]; rfl

theorem marginal_pushedSwept (q : Nat) : bit (healthRec (pushedSwept false failed temp unit_ s c) q) 3 =
    ((failed.contains (pcidOf s c) && q == pcidOf s c) || bit (healthRec s q) 3) := by
  have hpcid : pcidOf (sweepTrace s c) c = pcidOf s c := rfl
  unfold pushedSwept
  dsimp only
  rw [hpcid, if_neg Bool.false_ne_true]
  split
  case isTrue h => rw [marginal_pushedFail, h, Bool.true_and]; rfl
  case isFalse h =>
    rw [testBit_healthBump _ _ (by decide) _ (by decide), Bool.eq_false_iff.2 h, Bool.false_and, Bool.false_or]
    rfl

variable {c}

theorem marginal_foldl_pushedSwept {l : List Nat} (hc : c ∈ l) (hfailed : pcidOf s c ∈ failed) :
    bit (healthRec (l.foldl (pushedSwept false failed temp unit_) s) (pcidOf s c)) 3 = true := by
  have hkeeps : ∀ (l : List Nat) (s : State) (q : Nat), bit (healthRec s q) 3 = true →
      bit (healthRec (l.foldl (pushedSwept false failed temp unit_) s) q) 3 = true := by
    intro l
    induction l with
    | nil => exact fun _ _ h => h
    | cons d l ih => exact fun s q h => ih _ _ (by rw [marginal_pushedSwept, h, Bool.or_true])
  induction l generalizing s with
  | nil => cases hc
  | cons d l ih =>
    have hpcid : pcidOf (pushedSwept false failed temp unit_ s d) c = pcidOf s c := pcidOf_of_repair (repair_pushedSwept ..) c
    rw [List.foldl_cons]
    obtain rfl | hc := List.mem_cons.1 hc
    · exact hkeeps _ _ _ (by rw [marginal_pushedSwept, List.contains_iff_mem.2 hfailed, beq_self_eq_true]; rfl)
    · have hrest := ih (pushedSwept false failed temp unit_ s d) hc (by rw [hpcid]; exact hfailed)
      rwa [hpcid] at hrest

end

section
variable {r : RegionNo} {s : State} (hidle : ∀ c ∈ coresOfRegion r, coreGated s c = false → (core s c).st = .idle ∧ sweepOpen s c = true)
  (hneutral : diePerturbed s (siteOfRegion r) = false) (hmargin : dget s 0x7000 4 ≠ 0)
include hidle hneutral hmargin

theorem exec_pushedSweep (failed : List (BitVec 14)) (temp : BitVec 16) (u : BitVec 4) :
    exec (.pushedSweep r failed temp u) s = .next
      ((((coresOfRegion r).filter fun c => !coreGated s c).filter (maySweep s)).foldl
        (pushedSwept (((coresOfRegion r).filter fun c => !coreGated s c).any (startComes s)) (failed.map BitVec.toNat)
          temp.toNat u.toNat) s) := by
  have hall : (((coresOfRegion r).filter fun c => !coreGated s c).all fun c => (core s c).st == .idle && sweepOpen s c) = true := by
    refine List.all_eq_true.2 fun c hc => ?_
    obtain ⟨hin, hopen⟩ := List.mem_filter.1 hc
    obtain ⟨hst, hsweep⟩ := hidle c hin (Bool.not_eq_true' _ ▸ hopen)
    rw [hst, hsweep]
    rfl
  refine congrArg Host.Outcome.next (if_pos ?_)
  rw [hall, hneutral, decide_eq_true (Nat.pos_of_ne_zero hmargin)]
  rfl

theorem pushedSweep_sweeps (failed : List (BitVec 14)) (temp : BitVec 16) (u : BitVec 4) :
    ∃ t, exec (.pushedSweep r failed temp u) s = .next t ∧ KeepsMem s t ∧
      ((∃ c ∈ coresOfRegion r, coreGated s c = false ∧ startComes s c = true) → t.health = s.health) ∧
      ((∀ c ∈ coresOfRegion r, coreGated s c = false → startComes s c = false) →
        ∀ c ∈ coresOfRegion r, coreGated s c = false → maySweep s c = true → pcidOf s c ∈ failed.map BitVec.toNat →
          bit (healthRec t (pcidOf s c)) 3 = true) := by
  have hmem {c : Nat} : c ∈ ((coresOfRegion r).filter fun c => !coreGated s c) ↔ c ∈ coresOfRegion r ∧ coreGated s c = false := by
    rw [List.mem_filter, Bool.not_eq_true']
  refine ⟨_, exec_pushedSweep hidle hneutral hmargin failed temp u, ?_, fun hstart => ?_, fun hnone c hc hopen hmay hfailed => ?_⟩
  · generalize ((coresOfRegion r).filter fun c => !coreGated s c).any (startComes s) = aborted
    generalize ((coresOfRegion r).filter fun c => !coreGated s c).filter (maySweep s) = l
    exact keepsMem_of_mems (mems_foldl fun t c => mems_pushedSwept _ _ _ _ t c)
  · obtain ⟨c, hc, hopen, hstart⟩ := hstart
    have haborted : (((coresOfRegion r).filter fun c => !coreGated s c).any (startComes s)) = true :=
      List.any_eq_true.2 ⟨c, hmem.2 ⟨hc, hopen⟩, hstart⟩
    rw [haborted]
    exact foldl_keeps State.health (health_pushedSwept_aborted _ _ _) _ s
  · have haborted : (((coresOfRegion r).filter fun c => !coreGated s c).any (startComes s)) = false :=
      List.any_eq_false.2 fun c hc => Bool.eq_false_iff.1 (hnone c (hmem.1 hc).1 (hmem.1 hc).2)
    rw [haborted]
    exact marginal_foldl_pushedSwept _ _ _ s (List.mem_filter.2 ⟨hmem.2 ⟨hc, hopen⟩, hmay⟩) hfailed

end

/-! ## Heartbeats and probes that do not come (R423 to R426) -/

/-- Base-camp firmware watches a die that has power and is not lost. -/
theorem watches_die {s : State} {site : Nat} (hpowered : powered s = true) (hserves : site ∉ s.health.lostDies) :
    (powered s && !s.health.lostDies.contains site) = true := by
  simp [hpowered, hserves]

section
variable {s : State} {site : SiteNo} (hpowered : powered s = true) (hserves : site.val ∉ s.health.lostDies)

theorem probesOf_addProbe (s : State) (k j : Nat) :
    probesOf (addProbe s k) j = if j = k then min 3 (probesOf s k + 1) else probesOf s j := agetD_aput ..

/-- A die is not given up as long as its transit domain's probes are not missed three times. -/
theorem siteSilent_few {t : State} {k : Nat} (h : probesOf t (16384 + k) < 3) : siteSilent t k = false := by
  unfold siteSilent
  rw [decide_eq_false (by omega), Bool.false_and]

theorem onlyRepair_probes {t : State} (h : OnlyRepair s t) (k : Nat) : probesOf t k = probesOf s k := by
  unfold probesOf
  rw [h]

/-- What a probe of a core that is not answered does. -/
def coreProbed (s : State) (p : Nat) : State :=
  let u := addProbe s p
  if probesOf s p = 2 then
    match coreOfPcid s p with
    | some c => if coreGated u c then u else coreLost u c 3
    | none => if condOf u p = 4 then u else fencePcid u p 5
  else u

/-- A die whose transit domain and cores do not answer is given up. -/
def givenUp (u : State) (site : Nat) : State := if siteSilent u site then dieLost u site else u

theorem givenUp_few {u : State} {k : Nat} (h : probesOf u (16384 + k) < 3) : givenUp u k = u :=
  if_neg (by rw [siteSilent_few h]; decide)

include hpowered hserves

theorem probed_now : ¬(s.health.lostDies.contains site.val || !powered s) = true := by
  simp [hpowered, hserves]

section
variable {p : BitVec 14} (hfew : probesOf s (16384 + site.val) < 3) (hcell : isMemSite site = false)
  (hdie : dieOfSite site = p.toNat / 64) (hprobes : probesCore s p.toNat = true)
include hfew hcell hdie hprobes

/-- A probe of a core changes the core's count, and loses no die. -/
theorem exec_probeTimeout_core (hkept : probesOf (coreProbed s p.toNat) (16384 + site.val) = probesOf s (16384 + site.val)) :
    exec (.probeTimeout site (some p)) s = .next (coreProbed s p.toNat) := by
  have hasked : ¬(isMemSite site = true ∨ dieOfSite site ≠ p.toNat / 64 ∨ probesCore s p.toNat = false) := by
    simp [hcell, hdie, hprobes]
  have hexec : exec (.probeTimeout site (some p)) s = .next
      (givenUp (if isMemSite site = true ∨ dieOfSite site ≠ p.toNat / 64 ∨ probesCore s p.toNat = false then s
        else coreProbed s p.toNat) site) :=
    congrArg Host.Outcome.next (if_neg (probed_now hpowered hserves))
  rw [hexec, if_neg hasked, givenUp_few (hkept ▸ hfew)]

theorem probeTimeout_counts (hcount : probesOf s p.toNat < 2) : ∃ t, exec (.probeTimeout site (some p)) s = .next t ∧
    t = { s with health := t.health } ∧ probesOf t p.toNat = probesOf s p.toNat + 1 := by
  have hadds : coreProbed s p.toNat = addProbe s p.toNat := if_neg (by omega)
  have hother : 16384 + site.val ≠ p.toNat := by have := p.isLt; omega
  refine ⟨_, exec_probeTimeout_core hpowered hserves hfew hcell hdie hprobes ?_, ?_, ?_⟩
  · rw [hadds, probesOf_addProbe, if_neg hother]
  · rw [hadds]; rfl
  · rw [hadds, probesOf_addProbe, if_pos rfl]
    omega

theorem probeTimeout_loses {c : Nat} (hcount : probesOf s p.toNat = 2) (hcore : coreOfPcid s p.toNat = some c)
    (hopen : coreGated s c = false) : ∃ t, exec (.probeTimeout site (some p)) s = .next t ∧ KeepsMem s t ∧
      core t c = { Core.reset with st := .gated } ∧ condOf t p.toNat = 4 := by
  have hloses : coreProbed s p.toNat = coreLost (addProbe s p.toNat) c 3 := by
    simp only [coreProbed, if_pos hcount, hcore]
    exact if_neg (Bool.eq_false_iff.1 hopen)
  have hother : 16384 + site.val ≠ p.toNat := by have := p.isLt; omega
  have hhole : isHole (addProbe s p.toNat) c = false := (Bool.or_eq_false_iff.1 hopen).2
  have hpcid : pcidOf (addProbe s p.toNat) c = p.toNat := pcidOf_of_coreOfPcid hcore
  have hrepair := onlyRepair_coreLostD (addProbe s p.toNat) false c 3
  refine ⟨_, exec_probeTimeout_core hpowered hserves hfew hcell hdie hprobes ?_, keepsMem_of_mems ?_, ?_, ?_⟩
  · rw [hloses]
    refine (onlyRepair_probes hrepair _).trans ?_
    exact (probesOf_addProbe s p.toNat _).trans (if_neg hother)
  · rw [hloses, mems_coreLost, mems_addProbe]
  · rw [hloses]
    exact core_coreLostD_same ..
  · have hcond := condOf_coreLostD (addProbe s p.toNat) c 3 (by decide) hhole
    rw [hpcid] at hcond
    rw [hloses]
    exact hcond

end

theorem exec_probeTimeout_site : exec (.probeTimeout site none) s = .next
    (givenUp (if 3 ≤ agetD site 0 s.health.missed then addProbe s (16384 + site) else s) site) :=
  congrArg Host.Outcome.next (if_neg (probed_now hpowered hserves))

theorem probeTimeout_waits (hcount : probesOf s (16384 + site.val) = 2) (hbeats : agetD site 0 s.health.missed < 3) :
    exec (.probeTimeout site none) s = .next s := by
  rw [exec_probeTimeout_site hpowered hserves, if_neg (Nat.not_le.2 hbeats), givenUp_few (by omega)]

end

/-- A memory site that does not answer is lost with its die. -/
theorem lost_dieLost {s : State} {site : Nat} (hmem : isMemSite site = true) :
    site ∈ (dieLost s site).health.lostDies ∧ memOfSite site ∈ (dieLost s site).health.lostSites := by
  simp only [dieLost, hmem, if_true]
  rw [(onlyEvents_recommend ..).health, health_touchTopo]
  exact ⟨List.mem_cons_self, List.mem_cons_self⟩

theorem probeTimeout_losesSite {s : State} {site : SiteNo} (hpowered : powered s = true)
    (hserves : site.val ∉ s.health.lostDies) (hmem : isMemSite site = true) (hcount : probesOf s (16384 + site.val) = 2)
    (hmissed : 3 ≤ agetD site 0 s.health.missed) : ∃ t, exec (.probeTimeout site none) s = .next t ∧ KeepsMem s t ∧
      site.val ∈ t.health.lostDies ∧ memOfSite site ∈ t.health.lostSites := by
  have hsilent : siteSilent (addProbe s (16384 + site.val)) site = true := by
    unfold siteSilent
    rw [probesOf_addProbe, if_pos rfl, hcount, hmem]
    rfl
  refine ⟨dieLost (addProbe s (16384 + site.val)) site, ?_, keepsMem_of_mems (by simp), lost_dieLost hmem⟩
  rw [exec_probeTimeout_site hpowered hserves, if_pos hmissed]
  exact congrArg Host.Outcome.next (if_pos hsilent)

theorem heartbeatMissing_counts {d : DieNo} {s : State} (hpowered : powered s = true) (hserves : d.val ∉ s.health.lostDies) :
    exec (.heartbeatMissing d none) s = .next { s with health := { s.health with
      missed := aput d (agetD d 0 s.health.missed + 1) s.health.missed } } ∧
    ∀ p : BitVec 14, siteOfDie (p.toNat / 64) = d → exec (.heartbeatMissing d (some p)) s = .next { s with health := { s.health with
      silent := aput p.toNat (agetD p.toNat 0 s.health.silent + 1) s.health.silent } } :=
  ⟨congrArg Host.Outcome.next (if_pos (watches_die hpowered hserves)), fun _ hp =>
    congrArg Host.Outcome.next ((if_pos (watches_die hpowered hserves)).trans (if_pos hp))⟩

/-! ## Liveness (R427) -/

section
variable {c : CoreId} {s : State} (a b : BitVec 16)

/-- A liveness condition that is met opens its episode, and does so once. -/
def OpensEpisode (s : State) (i : Instr) (key : Nat) : Prop :=
  (key ∉ s.health.episodes → ∃ t, exec i s = .next t ∧
    OnlyEvents { s with health := { s.health with episodes := key :: s.health.episodes } } t) ∧
  (key ∈ s.health.episodes → exec i s = .next s)

theorem opens_of_met {kind : BitVec 3} {key : Nat} (hkey : (if kind = 1 then c.val else 8192 + siteOfDie (dieOfCore c)) = key)
    (hmet : ((kind == 1 && noProgress s c) || (kind == 2 && beatlessDie s (dieOfCore c))) = true) :
    OpensEpisode s (.liveness c kind a b) key := by
  subst hkey
  refine ⟨fun hnew => ⟨_, congrArg Host.Outcome.next (if_pos ?_), onlyEvents_raise ..⟩, fun hold =>
    congrArg Host.Outcome.next (if_neg ?_)⟩
  · simp only [hmet, Bool.true_and, Bool.not_eq_true']
    exact Bool.eq_false_iff.2 fun h => hnew (List.contains_iff_mem.1 h)
  · simp only [hmet, Bool.true_and, Bool.not_eq_true']
    exact Bool.eq_false_iff.not.2 (not_not.2 (List.contains_iff_mem.2 hold))

theorem liveness_unmet {kind : BitVec 3}
    (hunmet : ((kind == 1 && noProgress s c) || (kind == 2 && beatlessDie s (dieOfCore c))) = false) :
    exec (.liveness c kind a b) s = .next s := by
  refine congrArg Host.Outcome.next (if_neg ?_)
  simp only [hunmet, Bool.false_and]
  exact Bool.false_ne_true

section
variable {x : Nat × Nat} (hbeats : agetD (siteOfDie (dieOfCore c)) 0 s.health.missed = 0) (hrun : (core s c).st = .run)
  (hseen : aget c.val s.health.progress = some x)
include hbeats hrun hseen

theorem noProgress_eq : noProgress s c = decide (x.2 + usTicks (1000 * dget s 0x7000 6) ≤ s.prc) := by
  unfold noProgress
  rw [hbeats, hrun, hseen]
  rfl

end

section
variable (hanswer : ∀ k, k < 32 → isHole s (32 * dieOfCore c + k) = false → probesOf s (pcidOf s (32 * dieOfCore c + k)) = 0)
include hanswer

theorem beatlessDie_eq : beatlessDie s (dieOfCore c) = decide (3 ≤ agetD (siteOfDie (dieOfCore c)) 0 s.health.missed) := by
  have hall : ((List.range 32).all fun i => isHole s (32 * dieOfCore c + i) || probesOf s (pcidOf s (32 * dieOfCore c + i)) == 0)
      = true := by
    refine List.all_eq_true.2 fun k hk => ?_
    cases hhole : isHole s (32 * dieOfCore c + k) with
    | true => rfl
    | false => rw [hanswer k (List.mem_range.1 hk) hhole]; rfl
  unfold beatlessDie
  rw [hall, Bool.and_true]

end

end

/-! ## A heartbeat (R425, R427) -/

section
variable {s t : State} {c d : Nat}

theorem inRect_of_dict (hdict : t.dict = s.dict) (p col row : Nat) : inRect t p col row = inRect s p col row := by
  unfold inRect hasRect dget
  rw [hdict]

theorem partOfDie_of_parts (hdict : t.dict = s.dict) (hparts : t.parts = s.parts) (d : Nat) : partOfDie t d = partOfDie s d := by
  unfold partOfDie
  simp only [inRect_of_dict hdict, hparts]

theorem progressCount_of_parts (hcores : t.cores = s.cores) (hdict : t.dict = s.dict) (hparts : t.parts = s.parts) (c : Nat) :
    progressCount t c = progressCount s c := by
  have hcore : core t c = core s c := core_of_cores hcores c
  have hpart : partOfCore t c = partOfCore s c := partOfDie_of_parts hdict hparts _
  have hget : dget t (0x7100 + partOfCore s c) 1 = dget s (0x7100 + partOfCore s c) 1 := by
    unfold dget
    rw [hdict]
  unfold progressCount
  rw [hcore, hpart, hget]

variable (s c) in
theorem takeProgress_eq : takeProgress s c = { s with health := { s.health with
    progress := (takeProgress s c).health.progress, episodes := (takeProgress s c).health.episodes } } := by
  unfold takeProgress
  dsimp only
  split
  · split <;> rfl
  · split <;> rfl

variable (s c d) in
theorem progressCount_takeProgress : progressCount (takeProgress s d) c = progressCount s c :=
  progressCount_of_parts (by rw [takeProgress_eq]) (by rw [takeProgress_eq]) (by rw [takeProgress_eq]) c

/-- The core's progress has been seen now, and it has no open episode. -/
def Progressed (s : State) (c : Nat) : Prop :=
  aget c s.health.progress = some (progressCount s c, s.prc) ∧ c ∉ s.health.episodes

theorem takeProgress_same {x : Nat × Nat} (hx : aget c s.health.progress = some x) (hsame : x.1 = progressCount s c) :
    takeProgress s c = s := by
  unfold takeProgress
  rw [hx]
  exact if_pos (beq_iff_eq.2 hsame)

theorem takeProgress_new (hnew : ∀ x, aget c s.health.progress = some x → x.1 ≠ progressCount s c) :
    takeProgress s c = { s with health := { s.health with progress := aput c (progressCount s c, s.prc) s.health.progress,
                                                          episodes := s.health.episodes.filter fun e => e != c } } := by
  unfold takeProgress
  cases hx : aget c s.health.progress with
  | none => rfl
  | some x => exact if_neg (by rw [beq_iff_eq]; exact hnew x hx)

theorem progressed_takeProgress (hnew : ∀ x, aget c s.health.progress = some x → x.1 ≠ progressCount s c) :
    Progressed (takeProgress s c) c := by
  unfold Progressed
  rw [progressCount_takeProgress, takeProgress_new hnew]
  exact ⟨aget_aput_same .., fun h => (bne_iff_ne.1 (List.mem_filter.1 h).2) rfl⟩

theorem takeProgress_other (hd : d ≠ c) : aget c (takeProgress s d).health.progress = aget c s.health.progress := by
  unfold takeProgress
  dsimp only
  split
  · split
    · rfl
    · exact aget_aput_other hd.symm ..
  · split
    · rfl
    · exact aget_aput_other hd.symm ..

theorem episodes_takeProgress {e : Nat} (he : e ∉ s.health.episodes) : e ∉ (takeProgress s d).health.episodes := by
  have hfilter : e ∉ s.health.episodes.filter fun e => e != d := fun h => he (List.mem_filter.1 h).1
  unfold takeProgress
  dsimp only
  split
  · split
    · exact he
    · exact hfilter
  · split
    · exact he
    · exact hfilter

/-- Progress that has been seen stays seen. -/
theorem Progressed.takeProgress (h : Progressed s c) (d : Nat) : Progressed (takeProgress s d) c := by
  obtain ⟨hseen, hclosed⟩ := h
  by_cases hd : d = c
  · rw [hd, takeProgress_same hseen rfl]
    exact ⟨hseen, hclosed⟩
  · refine ⟨?_, episodes_takeProgress hclosed⟩
    rw [takeProgress_other hd, hseen, progressCount_takeProgress, takeProgress_eq]

theorem progressed_foldl {l : List Nat} (h : Progressed s c) : Progressed (l.foldl takeProgress s) c := by
  induction l generalizing s with
  | nil => exact h
  | cons d l ih => exact ih (h.takeProgress d)

theorem progressed_foldl_mem {l : List Nat} (hc : c ∈ l)
    (hnew : ∀ x, aget c s.health.progress = some x → x.1 ≠ progressCount s c) : Progressed (l.foldl takeProgress s) c := by
  induction l generalizing s with
  | nil => cases hc
  | cons d l ih =>
    by_cases hd : d = c
    · subst hd
      exact progressed_foldl (s := takeProgress s d) (progressed_takeProgress hnew)
    · refine ih (List.mem_of_ne_of_mem (Ne.symm hd) hc) fun x hx => ?_
      rw [takeProgress_other hd] at hx
      rw [progressCount_takeProgress]
      exact hnew x hx

theorem episodes_foldl_takeProgress {l : List Nat} {e : Nat} (he : e ∉ s.health.episodes) :
    e ∉ (l.foldl takeProgress s).health.episodes := by
  induction l generalizing s with
  | nil => exact he
  | cons d l ih => exact ih (episodes_takeProgress he)

end

theorem foldl_takeProgress_eq (l : List Nat) (s : State) : l.foldl takeProgress s = { s with health := { s.health with
    progress := (l.foldl takeProgress s).health.progress, episodes := (l.foldl takeProgress s).health.episodes } } := by
  induction l generalizing s with
  | nil => rfl
  | cons c l ih => rw [List.foldl_cons, ih, takeProgress_eq]

theorem heartbeat_closes {c : CoreId} {d : DieNo} {s : State} {silent : List (BitVec 14)} (mw : Nat) (hpowered : powered s = true)
    (hserves : d.val ∉ s.health.lostDies) (hsite : siteOfDie (dieOfCore c) = d) (hlive : (aget c.val s.cores).isSome = true)
    (htask : inTask (core s c) = true) (hbeats : pcidOf s c ∉ silent.map BitVec.toNat)
    (hnew : ∀ x, aget c.val s.health.progress = some x → x.1 ≠ progressCount s c) :
    ∃ t, exec (.heartbeat d mw silent) s = .next t ∧ c.val ∉ t.health.episodes ∧ 8192 + d.val ∉ t.health.episodes ∧
      aget c.val t.health.progress = some (progressCount s c, s.prc) := by
  let mute := silent.map BitVec.toNat
  let beaten := if d.val < 240 then modRail s d fun r => { r with beat := mw } else s
  let taken := takeBeat beaten d mute
  let seen := (beatCores taken d mute).foldl takeProgress taken
  let counted := if decide (d.val < 240) && !isMemSite d then countSilent seen (dieOfSite d) mute else seen
  have hexec : ∃ x, exec (.heartbeat d mw silent) s = .next { counted with pwr := { counted.pwr with share := x } } :=
    ⟨_, congrArg Host.Outcome.next (if_pos (watches_die hpowered hserves))⟩
  have hbeaten : beaten = { s with pwr := beaten.pwr } := by
    unfold beaten
    split <;> rfl
  have hcores : taken.cores = s.cores := by unfold taken takeBeat; rw [hbeaten]
  have hprc : seen.prc = s.prc := by
    unfold seen
    rw [foldl_takeProgress_eq]
    unfold taken takeBeat
    rw [hbeaten]
  have hcount : progressCount taken c = progressCount s c :=
    progressCount_of_parts hcores (by unfold taken takeBeat; rw [hbeaten]) (by unfold taken takeBeat; rw [hbeaten]) c
  have hin : c.val ∈ beatCores taken d mute := by
    have hrepair : taken.health.repair = s.health.repair := by unfold taken takeBeat; rw [hbeaten]
    obtain ⟨k, hk⟩ := Option.isSome_iff_exists.1 hlive
    refine List.mem_filter.2 ⟨by rw [hcores]; exact mem_keys_of_aget hk, ?_⟩
    rw [hsite, core_of_cores hcores, htask, pcidOf_of_repair hrepair]
    simp [hbeats, mute]
  have hprogress : Progressed seen c := by
    refine progressed_foldl_mem hin fun x hx => ?_
    rw [hcount]
    refine hnew x ?_
    rwa [show taken.health.progress = s.health.progress by unfold taken takeBeat; rw [hbeaten]] at hx
  have hgone : 8192 + d.val ∉ seen.health.episodes :=
    episodes_foldl_takeProgress fun h => (bne_iff_ne.1 (List.mem_filter.1 h).2) rfl
  have hcounted : counted.health.progress = seen.health.progress ∧ counted.health.episodes = seen.health.episodes := by
    unfold counted
    split <;> exact ⟨rfl, rfl⟩
  have hseenCount : progressCount seen c = progressCount s c := by
    refine (progressCount_of_parts ?_ ?_ ?_ c).trans hcount
    all_goals unfold seen; rw [foldl_takeProgress_eq]
  obtain ⟨x, hexec⟩ := hexec
  obtain ⟨hseen, hclosed⟩ := hprogress
  rw [hseenCount, hprc] at hseen
  obtain ⟨hkeptProgress, hkeptEpisodes⟩ := hcounted
  exact ⟨_, hexec, by rw [hkeptEpisodes]; exact hclosed, by rw [hkeptEpisodes]; exact hgone, by rw [hkeptProgress]; exact hseen⟩

/-! ## The statement -/

/-- Settles O53: each clause is what its hour, sweep, heartbeat, probe or window does. -/
theorem healthObservations : Obligations.HealthObservations := by
  refine ⟨fun pcid s => uncheckedHour_restarts pcid, fun pcid temp u c s hserves hmay =>
      ⟨sweep_abandoned hserves hmay temp u, sweep_passes hserves hmay temp u, sweep_fails hserves hmay temp u⟩,
    fun r failed temp u s hidle hneutral hmargin => pushedSweep_sweeps hidle hneutral hmargin failed temp u,
    fun d s => heartbeatMissing_counts, fun site p s hpowered hserves hfew hcell hdie hprobes =>
      ⟨probeTimeout_counts hpowered hserves hfew hcell hdie hprobes,
        fun c => probeTimeout_loses hpowered hserves hfew hcell hdie hprobes⟩,
    fun site s hpowered hserves hmem hcount => ⟨probeTimeout_losesSite hpowered hserves hmem hcount,
      probeTimeout_waits hpowered hserves hcount⟩, fun c a b s => ⟨fun x hbeats hrun hseen => ?_, fun hanswer => ?_,
      fun d mw silent => heartbeat_closes mw⟩⟩
  case refine_1 =>
    have hunseen := noProgress_eq hbeats hrun hseen
    exact ⟨fun hdue => opens_of_met a b rfl (by rw [hunseen, decide_eq_true hdue]; rfl),
      fun hearly => liveness_unmet a b (by rw [hunseen, decide_eq_false (by omega)]; rfl)⟩
  case refine_2 =>
    have hbeatless := beatlessDie_eq hanswer
    exact ⟨fun hmissed => opens_of_met a b rfl (by rw [hbeatless, decide_eq_true hmissed]; rfl),
      fun hbeats => liveness_unmet a b (by rw [hbeatless, decide_eq_false (by omega)]; rfl)⟩

end Sys2Proof.Machine

/-!
What settling the commands and queue pairs of a partition leaves (R322, R406): the stored entries but one counter, the management
unit but its logs, the salts of the host dies.
-/
namespace Sys2Proof.Machine

open Sys2Proof

/-- Events, completions and the ends of queue pairs: nothing but the logs, the rings and the commands of the host dies differs. -/
structure Calm (s t : State) : Prop where
  events : OnlyEvents s t
  salts : t.host.salts = s.host.salts
  mgmt : OnlyLogs s.mgmt t.mgmt
  entries : DictBut notKeptSlot s t

section
variable {s t u : State}

theorem Calm.refl (s : State) : Calm s s := ⟨.refl s, rfl, rfl, .refl s⟩

theorem Calm.trans (h : Calm s t) (g : Calm t u) : Calm s u :=
  ⟨h.events.trans g.events, g.salts.trans h.salts, h.mgmt.trans g.mgmt, h.entries.trans g.entries⟩

theorem Calm.foldl {α : Type} {f : State → α → State} (hf : ∀ s a, Calm s (f s a)) (l : List α) (s : State) :
    Calm s (l.foldl f s) := by
  induction l generalizing s with
  | nil => exact .refl s
  | cons a l ih => exact (hf s a).trans (ih _)

theorem Raises.calm (h : Raises s t) : Calm s t := ⟨h.events, by rw [h.host], h.mgmt, h.dict⟩

theorem Calm.romHalt (h : Calm s t) : t.mgmt.romHalt = s.mgmt.romHalt := by rw [h.mgmt]

theorem Calm.dget (h : Calm s t) {i j : Nat} (hk : cairnSlot i j ≠ cairnSlot 0x9000 6) :
    Machine.dget t i j = Machine.dget s i j := h.entries.dget hk

end

/-! ## Commands and rings -/

section
variable (s : State) (r i : Nat)

theorem calm_emit (o : Out) : Calm s (emit s o) := ⟨rfl, rfl, rfl, .refl s⟩

theorem calm_setEring (e : ERing) : Calm s (setEring s r e) := ⟨rfl, rfl, rfl, .refl s⟩

theorem calm_setCring (c : CRing) : Calm s (setCring s r c) := ⟨rfl, rfl, rfl, .refl s⟩

theorem calm_addCmd (rec_ : List Byte) : Calm s (addCmd s r rec_) := ⟨rfl, rfl, rfl, .refl s⟩

theorem calm_modCmd (f : Cmd → Cmd) : Calm s (modCmd s r i f) := ⟨rfl, rfl, rfl, .refl s⟩

theorem calm_modQp (h : Nat) (qpn : BitVec 24) (f : Qp → Qp) : Calm s (modQp s h qpn f) := ⟨rfl, rfl, rfl, .refl s⟩

theorem calm_eringPut (e : Ev) : Calm s (eringPut s r e) := by
  unfold eringPut
  split <;> exact ⟨rfl, rfl, rfl, .refl s⟩

theorem calm_putAborts (xs : List (Nat × Nat)) : Calm s (putAborts s xs) := by
  induction xs generalizing s with
  | nil => exact .refl s
  | cons x xs ih =>
    unfold putAborts
    split
    · exact (calm_modCmd ..).trans ((calm_eringPut ..).trans (ih _))
    · exact ih s

theorem calm_finishCmd (cstat : Nat) : Calm s (finishCmd s r i cstat) := by
  unfold finishCmd
  split
  · exact .refl s
  · split
    · exact .refl s
    · exact (calm_modCmd ..).trans ((calm_eringPut ..).trans (calm_putAborts ..))

theorem calm_launchCheck : Calm s (launchCheck s r i) := by
  unfold launchCheck
  split
  · split
    · exact calm_finishCmd ..
    · exact .refl s
  · exact .refl s

theorem calm_reportLost (c : Nat) : Calm s (reportLost s r i c) := by
  unfold reportLost
  split
  · split
    · exact (calm_modCmd ..).trans (calm_launchCheck ..)
    · exact .refl s
  · exact .refl s

theorem calm_copyPart (ok : Bool) : Calm s (copyPart s r i ok) := by
  unfold copyPart
  split
  · split
    · dsimp only
      split
      · exact (calm_modCmd ..).trans (calm_finishCmd ..)
      · exact calm_modCmd ..
    · exact .refl s
  · exact .refl s

theorem calm_flushRing (n : Nat) : Calm s (flushRing n s r) := by
  induction n generalizing s with
  | zero => exact .refl s
  | succ n ih =>
    unfold flushRing
    dsimp only
    split
    · exact .refl s
    · exact (calm_setCring ..).trans ((calm_addCmd ..).trans ((calm_finishCmd ..).trans (ih _)))

end

/-! ## Queue pairs (R305) -/

section
variable (s : State)

theorem calm_outLost (o : OutOp) : Calm s (outLost s o) := by
  unfold outLost
  split
  · exact .refl s
  · exact calm_copyPart ..
  · exact calm_copyPart ..

theorem calm_recordKept (o : OutOp) : Calm s (recordKept s o) := by
  unfold recordKept
  split
  · exact calm_setEring ..
  · exact .refl s

theorem calm_qpToError (h : Nat) (qpn : BitVec 24) (syndrome : Nat) : Calm s (qpToError s h qpn syndrome) := by
  unfold qpToError
  split
  · exact .refl s
  · split
    · exact .refl s
    · extract_lets rs stopped paused kept told
      have hkept : Calm s kept := (calm_modQp ..).trans (.trans (.foldl (fun _ _ => calm_setEring ..) _ _)
        (.foldl calm_recordKept _ _))
      have htold : Calm kept told := by
        unfold told
        split
        · exact .refl kept
        · exact (raises_raise ..).calm
      exact hkept.trans (htold.trans (.foldl calm_outLost _ _))

/-- The queue pairs of a partition that is reset or starts go to error. -/
theorem calm_qpsFail (p : Nat) : Calm s (qpsFail s p) :=
  .foldl (fun _ _ => (calm_qpToError ..).trans (calm_emit ..)) _ s

/-- The open commands of a partition that is reset are completed, and its rings emptied. -/
theorem calm_ringsReset (p : Nat) : Calm s (ringsReset s p) := by
  unfold ringsReset
  refine .trans (.foldl (fun _ _ => calm_finishCmd ..) _ s) (.foldl (fun t r => ?_) _ _)
  split
  · refine .trans ?_ (calm_flushRing ..)
    split
    · exact calm_setCring ..
    · exact .refl t
  · exact .refl t

end

/-! ## Loads (R406) -/

/-- The status entry of a partition's rank map. -/
def loadSlot (k : Nat) : Prop := ∃ p, k = cairnSlot (0x6100 + p) 0x0E

theorem abandonLoad_cases (s : State) (p : Nat) : abandonLoad s p = s ∨ ∃ f v, abandonLoad s p = rmapStatus { s with fab := f } p v := by
  unfold abandonLoad
  split
  · exact .inr ⟨_, _, rfl⟩
  · exact .inl rfl

theorem dictBut_abandonLoad (s : State) (p : Nat) : DictBut loadSlot s (abandonLoad s p) := by
  obtain h | ⟨f, v, h⟩ := abandonLoad_cases s p <;> rw [h]
  · exact .refl s
  · exact dictBut_dset (slots := loadSlot) _ ⟨p, rfl⟩ v

end Sys2Proof.Machine

/-!
What the steps of a boot leave (R390 to R394): the reference counter, the ROM's stop, HBM and host-die SRAM, and a scratchpad
that is empty.
-/
namespace Sys2Proof.Machine

open Sys2Proof

/-! ## The reference counter and the ROM's stop -/

/-- What no step of a boot changes: the reference counter, and why the ROM has started nothing. -/
def State.mark (s : State) : Nat × Option Nat := (s.prc, s.mgmt.romHalt)

section
variable {pending : List Instr} {prc fresh : Nat} {out : List Out} {spm hbm sram : Mem} {dict : Assoc Nat} {cores : Assoc Core}
  {msites : Assoc MSite} {fab : Fab} {links : LinksSt} {host : HostSt} {clk : ClkSt} {pwr : PwrSt} {parts : PartSt}
  {health : HealthSt} {mgmt : MgmtSt} {tray : TraySt}

@[simp] theorem mark_update : State.mark ⟨pending, prc, fresh, out, spm, hbm, sram, dict, cores, msites, fab, links, host, clk,
    pwr, parts, health, mgmt, tray⟩ = (prc, mgmt.romHalt) := (rfl)

end

section
variable {s t : State}

@[simp] theorem mark_pair : (s.prc, s.mgmt.romHalt) = s.mark := (rfl)

theorem Calm.mark (h : Calm s t) : t.mark = s.mark := by rw [State.mark, h.events.prc, h.romHalt, State.mark]

variable {p : Prop} [Decidable p]

@[simp] theorem mark_ite : (if p then s else t).mark = if p then s.mark else t.mark := apply_ite ..

end

@[simp] theorem mark_foldl {α : Type} {f : State → α → State} {l : List α} {s : State} (hf : ∀ s a, (f s a).mark = s.mark) :
    (l.foldl f s).mark = s.mark := foldl_keeps State.mark hf l s

section
variable {s : State} {c cause code d hi index k l lo m n p p' part r reg site slot sub v w : Nat} {drill warm : Bool}
  {payload : BitVec 128} {o : BootObs}

/-! ### Events and the dictionary -/

@[simp] theorem mark_emit {x : Out} : (emit s x).mark = s.mark := (rfl)
@[simp] theorem mark_dset : (dset s index sub v).mark = s.mark := (rfl)
@[simp] theorem mark_bumpGen : (bumpGen s index sub).mark = s.mark := (rfl)
@[simp] theorem mark_raiseD : (raiseD s drill code part payload).mark = s.mark := (raises_raiseD ..).calm.mark
@[simp] theorem mark_raise : (raise s code part payload).mark = s.mark := (raises_raise ..).calm.mark
@[simp] theorem mark_recommend {subject : Nat} : (recommend s part k subject code).mark = s.mark := (raises_recommend ..).calm.mark
@[simp] theorem mark_stage : (stage warm n s).mark = s.mark := by simp [stage]

/-! ### Firmware and licences -/

@[simp] theorem mark_runSlot : (runSlot s k slot).mark = s.mark := by
  unfold runSlot
  split <;> simp

@[simp] theorem mark_fallbackEv : (fallbackEv s k slot).mark = s.mark := by simp [fallbackEv]
@[simp] theorem mark_verifyEv {check : Nat} : (verifyEv s k slot check).mark = s.mark := by simp [verifyEv]
@[simp] theorem mark_bootHalt : (bootHalt s).mark = s.mark := (rfl)

@[simp] theorem mark_loadComp : (loadComp s k).mark = s.mark := by
  simp only [loadComp]
  (repeat' split) <;> simp

@[simp] theorem mark_raiseFloors : (raiseFloors s).mark = s.mark := mark_foldl fun t k => by
  split
  · split <;> simp
  · rfl

@[simp] theorem mark_takeLicences : (takeLicences s).mark = s.mark := (rfl)

@[simp] theorem mark_tripEvent : (tripEvent s).mark = s.mark := by
  unfold tripEvent
  split <;> simp

/-! ### Rails and regions -/

@[simp] theorem mark_setRegion {x : RegionPwr} : (setRegion s r x).mark = s.mark := (rfl)
@[simp] theorem mark_setRail {x : Rail} : (setRail s site x).mark = s.mark := (rfl)
@[simp] theorem mark_applyFall : (applyFall s r).mark = s.mark := by simp [applyFall, temperEv]
@[simp] theorem mark_applyFalls : (applyFalls s r).mark = s.mark := by simp [applyFalls]
@[simp] theorem mark_raiseRails : (raiseRails s).mark = s.mark := by simp [raiseRails, bootRegions, writePoints]
@[simp] theorem mark_regionOff : (regionOff s r).mark = s.mark := by simp [regionOff]
@[simp] theorem mark_haltOff : (haltOff s).mark = s.mark := by simp [haltOff]
@[simp] theorem mark_wakeRegion : (wakeRegion s r).mark = s.mark := by simp [wakeRegion]
@[simp] theorem mark_takeLimits : (takeLimits s).mark = s.mark := (rfl)
@[simp] theorem mark_identify : (identify n s).mark = s.mark := by simp [identify]
@[simp] theorem mark_calibrate : (calibrate o s).mark = s.mark := by simp [calibrate]

/-! ### Positions -/

@[simp] theorem mark_setCore {x : Core} : (setCore s c x).mark = s.mark := (rfl)
@[simp] theorem mark_touchTopo : (touchTopo s).mark = s.mark := by
  unfold touchTopo
  split <;> rfl
@[simp] theorem mark_setHealthRec : (setHealthRec s p v).mark = s.mark := (rfl)
@[simp] theorem mark_bumpRepairGen : (bumpRepairGen s).mark = s.mark := (rfl)
@[simp] theorem mark_setRepair : (setRepair s k w).mark = s.mark := by simp [setRepair]
@[simp] theorem mark_setCondD : (setCondD s drill p n cause).mark = s.mark := by simp [setCondD]
@[simp] theorem mark_setCond : (setCond s p n cause).mark = s.mark := by simp [setCond]
@[simp] theorem mark_fencePcid : (fencePcid s p cause).mark = s.mark := by simp [fencePcid]
@[simp] theorem mark_actionDone : (actionDone s w n).mark = s.mark := by simp [actionDone]

@[simp] theorem mark_unfencePcid : (unfencePcid s p).mark = s.mark := by
  simp only [unfencePcid]
  (repeat' split) <;> simp

@[simp] theorem mark_resetActions : (resetActions o s).mark = s.mark := by
  unfold resetActions
  split
  · (repeat' split) <;> simp
  · rfl

@[simp] theorem mark_gateQuarantined : (gateQuarantined s).mark = s.mark := mark_foldl fun t p => by
  (repeat' split) <;> simp

@[simp] theorem mark_partitionStopAll : (partitionStopAll s p).mark = s.mark := (rfl)

@[simp] theorem mark_coreLost : (coreLost s c cause).mark = s.mark := by
  unfold coreLost coreLostD
  extract_lets k p raised stopped pcid health placed reset gated
  have hgated : gated.mark = s.mark := by simp [gated, placed, stopped, raised, raiseCoreD]
  split
  · split
    · exact (calm_reportLost ..).mark.trans hgated
    · exact hgated
  · exact hgated

@[simp] theorem mark_fenceRouter {q : Nat} : (fenceRouter s site q cause).mark = s.mark := by simp [fenceRouter]

/-! ### Repair -/

@[simp] theorem mark_scrubCore : (scrubCore s c).mark = s.mark := by simp [scrubCore, abandon]

@[simp] theorem mark_switchCore : (switchCore s c).mark = s.mark := by
  simp only [switchCore]
  (repeat' split) <;> simp

@[simp] theorem mark_switchIn : (switchIn s k).mark = s.mark := by simp [switchIn]

@[simp] theorem mark_compactCluster : (compactCluster s k).mark = s.mark := by simp [compactCluster]
@[simp] theorem mark_compactAll : (compactAll s).mark = s.mark := by simp [compactAll]
@[simp] theorem mark_clearHoles : (clearHoles s).mark = s.mark := by simp [clearHoles]
@[simp] theorem mark_testCores : (testCores o s).mark = s.mark := by simp [testCores]

/-! ### Links, ports and partitions -/

@[simp] theorem mark_takeTopo : (takeTopo s).mark = s.mark := (rfl)
@[simp] theorem mark_moveLink {x : Link} : (moveLink s l x).mark = s.mark := by simp [moveLink, setLink]
@[simp] theorem mark_release {x : Link} : (release s l x).mark = s.mark := by simp [release]
@[simp] theorem mark_releaseLinks : (releaseLinks s).mark = s.mark := by simp [releaseLinks]
@[simp] theorem mark_takePort : (takePort s p).mark = s.mark := (rfl)
@[simp] theorem mark_portsUp : (portsUp o s).mark = s.mark := by simp [portsUp]
@[simp] theorem mark_setPart : (setPart s p n).mark = s.mark := by simp [setPart]
@[simp] theorem mark_restoreParts : (restoreParts s).mark = s.mark := by simp [restoreParts]
@[simp] theorem mark_qpsFail : (qpsFail s p).mark = s.mark := (calm_qpsFail ..).mark
@[simp] theorem mark_startPart : (startPart s p).mark = s.mark := by simp [startPart]
@[simp] theorem mark_autostart : (autostart s).mark = s.mark := by simp [autostart]
@[simp] theorem mark_enterBivouac {x : Nat × Nat × Nat} : (enterBivouac o s x).mark = s.mark := by simp [enterBivouac]

@[simp] theorem mark_bootThen {f : State → State} (hf : ∀ t, (f t).mark = t.mark) : (bootThen s f).mark = s.mark := by
  simp [bootThen, hf]

@[simp] theorem mark_loadFirmware : (loadFirmware o s).mark = s.mark := by
  simp only [loadFirmware]
  (repeat' split) <;> simp

/-! ### The end of a boot -/

@[simp] theorem mark_topoEv {item die : Nat} : (topoEv s item die).mark = s.mark := by simp [topoEv]
@[simp] theorem mark_topoEvNone {item : Nat} : (topoEvNone s item k).mark = s.mark := by simp [topoEvNone]

@[simp] theorem mark_fenceHalf {e : Nat × Nat} : (fenceHalf s e).mark = s.mark := by
  simp only [fenceHalf]
  split <;> simp

@[simp] theorem mark_topoCheck : (topoCheck o s).1.mark = s.mark := by simp [topoCheck]
@[simp] theorem mark_publishMaps : (publishMaps s).mark = s.mark := by simp [publishMaps]

@[simp] theorem mark_bootEnd : (bootEnd warm o s).mark = s.mark := by
  cases warm <;> simp [bootEnd]

@[simp] theorem mark_awaitLinks : (awaitLinks warm o s).mark = s.mark := by simp [awaitLinks]

/-! ### The sequences -/

@[simp] theorem mark_coldPowered : (coldPowered o s).mark = s.mark := by simp [coldPowered]
@[simp] theorem mark_coldLocked : (coldLocked o n s).mark = s.mark := by simp [coldLocked]
@[simp] theorem mark_coldSteps : (coldSteps o s).mark = s.mark := by simp [coldSteps]

end

end Sys2Proof.Machine

/-!
The memories through a boot (R394, R398): HBM and host-die SRAM stay, and an empty scratchpad stays empty.
-/
namespace Sys2Proof.Machine

open Sys2Proof

/-- HBM and host-die SRAM stay, and scratchpads are scrubbed at most. -/
structure Scrubs (s t : State) : Prop where
  hbm : t.hbm = s.hbm
  sram : t.sram = s.sram
  spm : s.spm = [] → t.spm = []

section
variable {s t u : State}

theorem Scrubs.refl (s : State) : Scrubs s s := ⟨rfl, rfl, id⟩

theorem Scrubs.trans (h : Scrubs s t) (g : Scrubs t u) : Scrubs s u :=
  ⟨g.hbm.trans h.hbm, g.sram.trans h.sram, g.spm ∘ h.spm⟩

theorem Scrubs.foldl {α : Type} {f : State → α → State} (hf : ∀ s a, Scrubs s (f s a)) (l : List α) (s : State) :
    Scrubs s (l.foldl f s) := by
  induction l generalizing s with
  | nil => exact .refl s
  | cons a l ih => exact (hf s a).trans (ih _)

theorem scrubs_of_mems (h : t.mems = s.mems) : Scrubs s t := by
  obtain ⟨hspm, hhbm, hsram⟩ := keepsMem_of_mems h
  exact ⟨hhbm, hsram, fun hempty => hspm.trans hempty⟩

end

section
variable (o : BootObs) (s : State)

theorem memZero_nil (a n : Nat) : memZero [] a n = [] := rfl

theorem scrubs_scrubCore (c : Nat) : Scrubs s (scrubCore s c) := by
  have hzero : Scrubs s { s with spm := memZero s.spm (spmKey c 0) spmSize } :=
    ⟨rfl, rfl, fun h => by rw [h, memZero_nil]⟩
  refine hzero.trans (scrubs_of_mems ?_)
  simp only [scrubCore]
  split
  · rfl
  · rfl

theorem scrubs_switchCore (c : Nat) : Scrubs s (switchCore s c) := by
  unfold switchCore
  dsimp only
  split
  · exact scrubs_of_mems (by simp)
  · refine .trans (t := scrubCore _ c) (.trans ?_ (scrubs_scrubCore _ c)) (scrubs_of_mems mems_raiseD)
    exact scrubs_of_mems (by simp)

theorem scrubs_switchIn (k : Nat) : Scrubs s (switchIn s k) :=
  .foldl (fun t j => by
    split
    · exact scrubs_switchCore ..
    · exact .refl t) _ s

theorem scrubs_compactAll : Scrubs s (compactAll s) := by
  unfold compactAll
  split
  · exact .trans (t := dset s 0x7000 5 0) (scrubs_of_mems rfl)
      (.foldl (fun t k => (scrubs_switchIn t k).trans (scrubs_of_mems (by simp))) _ _)
  · exact .refl s

theorem scrubs_testCores : Scrubs s (testCores o s) := by
  unfold testCores
  extract_lets acted bad fenced tested dead
  have hfenced : Scrubs s fenced := scrubs_of_mems (by simp [fenced, acted])
  have htested : Scrubs fenced tested :=
    (Scrubs.foldl scrubs_switchIn _ fenced).trans (scrubs_of_mems mems_gateQuarantined)
  exact hfenced.trans (htested.trans (scrubs_of_mems rfl))

variable {s} in
theorem scrubs_bootThen {f : State → State} (hf : ∀ t, Scrubs t (f t)) : Scrubs s (bootThen s f) := by
  unfold bootThen
  split
  · exact .refl s
  · exact hf s

theorem scrubs_stage (warm : Bool) (n : Nat) : Scrubs s (stage warm n s) := scrubs_of_mems (by simp)

theorem scrubs_loadFirmware : Scrubs s (loadFirmware o s) := by
  unfold loadFirmware
  extract_lets mgmt cleared loaded
  have hcomp (k : Nat) : ∀ t, Scrubs t (loadComp t k) := fun t => scrubs_of_mems (by simp)
  have hloaded : Scrubs s loaded := .trans (t := cleared) (scrubs_of_mems rfl)
    (.trans (scrubs_bootThen (hcomp 1)) (.trans (scrubs_bootThen (hcomp 2)) (scrubs_bootThen (hcomp 3))))
  refine hloaded.trans ?_
  split
  · exact scrubs_of_mems (by simp)
  · split
    · exact scrubs_of_mems (by simp)
    · exact .refl loaded

/-- One step of a sequence, and what it does unless the boot has stopped. -/
theorem scrubs_step {f : State → State} (hf : ∀ t, Scrubs t (f t)) (warm : Bool) (n : Nat) :
    Scrubs s (bootThen (stage warm n s) f) := (scrubs_stage s warm n).trans (scrubs_bootThen hf)

theorem scrubs_coldPowered : Scrubs s (coldPowered o s) := by
  unfold coldPowered
  have hload := fun t => scrubs_loadFirmware o t
  have hcalibrate : ∀ t, Scrubs t (calibrate o t) := fun t => scrubs_of_mems (by simp)
  have hcompact : ∀ t, Scrubs t (clearHoles (compactAll t)) := fun t => (scrubs_compactAll t).trans (scrubs_of_mems (by simp))
  have htest := fun t => scrubs_testCores o t
  have hlinks : ∀ t, Scrubs t (releaseLinks (takeTopo t)) := fun t => scrubs_of_mems (by simp)
  have hports : ∀ t, Scrubs t (portsUp o t) := fun t => scrubs_of_mems (by simp)
  refine .trans (scrubs_step s hload false 5) (.trans (scrubs_step _ hcalibrate false 6) (.trans (scrubs_step _ hcompact false 7)
    (.trans (scrubs_step _ htest false 8) (.trans (scrubs_step _ hlinks false 9) (.trans (scrubs_step _ hports false 10)
      (scrubs_of_mems ?_))))))
  simp

theorem scrubs_coldLocked (fault : Nat) : Scrubs s (coldLocked o fault s) := by
  unfold coldLocked
  extract_lets clk locked identified powered
  have hpowered : Scrubs s powered := by
    refine .trans (t := identified) (scrubs_of_mems (by simp [identified, locked])) (scrubs_bootThen fun t => ?_)
    exact scrubs_of_mems (by simp)
  refine hpowered.trans ?_
  split
  · exact .refl powered
  · exact scrubs_coldPowered ..

theorem scrubs_coldSteps : Scrubs s (coldSteps o s) := by
  unfold coldSteps
  extract_lets staged
  have hstaged : Scrubs s staged := scrubs_of_mems (by simp [staged])
  refine hstaged.trans ?_
  split
  · exact scrubs_coldLocked ..
  · exact .refl staged

theorem scrubs_warmRest : Scrubs (warmClear o s) (warmSteps o s) := by
  unfold warmSteps
  have hload := fun t => scrubs_loadFirmware o t
  have hcalibrate : ∀ t, Scrubs t (calibrate o t) := fun t => scrubs_of_mems (by simp)
  have htest : ∀ t, Scrubs t (testCores o (clearHoles (compactAll t))) := fun t =>
    (scrubs_compactAll t).trans (.trans (scrubs_of_mems (by simp)) (scrubs_testCores ..))
  have hports : ∀ t, Scrubs t (portsUp o (releaseLinks (takeTopo t))) := fun t => scrubs_of_mems (by simp)
  refine .trans (t := takeLicences (raiseRails (warmClear o s))) (scrubs_of_mems (by simp))
    (.trans (scrubs_step _ hload true 2) (.trans (scrubs_step _ hcalibrate true 3) (.trans (scrubs_step _ htest true 4)
      (.trans (scrubs_step _ hports true 5) (scrubs_of_mems (by simp))))))

end

end Sys2Proof.Machine

/-!
The serial monitor (R473 to R475): what its commands answer, the unlock and its end, the service bus, and the resets.
-/
namespace Sys2Proof.Machine

open Sys2Proof

/-! ## Resets (R390, R394, R442) -/

section
variable (o : BootObs) (s : State)

theorem DictBut.mono {slots slots' : Nat → Prop} {s t : State} (h : DictBut slots s t) (hle : ∀ k, slots k → slots' k) :
    DictBut slots' s t := fun k hk => h k fun hin => hk (hle k hin)

/-- Slots that taking over the resets and loads may change, besides the step that is complete. -/
def takenOverSlot (k : Nat) : Prop := notKeptSlot k ∨ loadSlot k ∨ k = cairnSlot 0x6000 2

theorem dictBut_stage (warm : Bool) (n : Nat) : DictBut takenOverSlot s (stage warm n s) := by
  unfold stage
  split
  · exact .refl s
  · exact .trans (t := dset s 0x6000 2 n) (dictBut_dset s (slots := takenOverSlot) (.inr (.inr rfl)) n)
      ((raises_raise ..).dict.mono fun _ => .inl)

/-- A warm panel reset that is asked for is the panel's state. -/
theorem panelState_askWarm (hmay : mayWarm s = true) : dget (askWarm s) 0x6000 1 = 3 := by
  have hkept : ¬takenOverSlot (cairnSlot 0x6000 1) := by
    rintro (h | ⟨p, h⟩ | h)
    · exact absurd h (by unfold notKeptSlot; decide)
    · unfold cairnSlot at h
      omega
    · exact absurd h (by decide)
  unfold askWarm
  rw [if_pos hmay]
  extract_lets asked settled parts cleared
  have hsettled : DictBut takenOverSlot asked settled := .foldl (fun t p =>
    ((dictBut_abandonLoad t p).mono fun _ h => .inr (.inl h)).trans
      (((calm_ringsReset ..).trans (calm_qpsFail ..)).entries.mono fun _ => .inl)) _ asked
  clear_value settled
  have hcleared : DictBut takenOverSlot settled cleared := .of_dict rfl
  have hstage : DictBut takenOverSlot cleared (stage true 1 cleared) := dictBut_stage cleared true 1
  refine (((hsettled.trans hcleared).trans hstage).dget hkept).trans ?_
  exact dget_dset_same ..

/-- The ROM leaves the reference counter and the memories. -/
theorem romStart_keeps : (romStart o s).prc = s.prc ∧ Scrubs s (romStart o s) := by
  have hmark : ∀ {t : State}, t.mark = s.mark → t.prc = s.prc := fun h => congrArg Prod.fst h
  unfold romStart
  dsimp only
  split
  · exact ⟨rfl, scrubs_of_mems rfl⟩
  · split
    · exact ⟨rfl, scrubs_of_mems rfl⟩
    · split
      · exact ⟨hmark (by simp), scrubs_of_mems (by simp)⟩
      · split
        · exact ⟨hmark (by simp), scrubs_of_mems (by simp)⟩
        · exact ⟨rfl, scrubs_of_mems rfl⟩

theorem prc_coldSteps : (coldSteps o s).prc = s.prc := congrArg Prod.fst (mark_coldSteps (s := s) (o := o))

theorem romHalt_coldSteps : (coldSteps o s).mgmt.romHalt = s.mgmt.romHalt := congrArg Prod.snd (mark_coldSteps (s := s) (o := o))

/-- A cold boot starts at 0 with every memory empty. -/
theorem coldStart_clears : (coldStart o s).prc = 0 ∧ (coldStart o s).spm = [] ∧ (coldStart o s).hbm = [] ∧
    (coldStart o s).sram = [] := by
  obtain ⟨hprc, hscrubs⟩ := romStart_keeps o (emit (coldClear o s) (.pins 1 1))
  have hsteps := scrubs_coldSteps o (romStart o (emit (coldClear o s) (.pins 1 1)))
  unfold coldStart
  dsimp only
  split
  · exact ⟨hprc, hscrubs.spm rfl, hscrubs.hbm, hscrubs.sram⟩
  · exact ⟨(prc_coldSteps ..).trans hprc, hsteps.spm (hscrubs.spm rfl), hsteps.hbm.trans hscrubs.hbm,
      hsteps.sram.trans hscrubs.sram⟩

/-- A bundle that starts base-camp firmware where the ROM had started nothing (R475). -/
theorem startRecovered_starts {s : State} (hbooting : s.parts.booting = some (false, o)) :
    (startRecovered s).mgmt.romHalt = none ∧ (startRecovered s).prc = s.prc := by
  have hmark : (startRecovered s).mark = (s.prc, none) := by
    unfold startRecovered
    rw [hbooting]
    simp
  exact ⟨congrArg Prod.snd hmark, congrArg Prod.fst hmark⟩

end

/-! ## Commands (R473, R474) -/

section
variable (s : State)

/-- The state in which a command runs: it counts as activity while the monitor is unlocked. -/
def commandRun : State := setMon s fun m => { m with unlocked := m.unlocked.map fun _ => s.prc }

variable {s} (hstby : s.tray.stbyOk = true)
include hstby

theorem command_runs (f : State → State) : command s f = .next (f (commandRun s)) := congrArg Host.Outcome.next (if_pos hstby)

theorem unlockedCommand_runs (f : State → State) (hunlocked : s.mgmt.mon.unlocked ≠ none) :
    unlockedCommand s f = .next (f (commandRun s)) := by
  have hsome : (commandRun s).mgmt.mon.unlocked.isSome = true :=
    (Option.isSome_map ..).trans (Option.isSome_iff_ne_none.2 hunlocked)
  exact (command_runs hstby _).trans (congrArg Host.Outcome.next (if_pos hsome))

theorem unlockedCommand_refuses (f : State → State) (hlocked : s.mgmt.mon.unlocked = none) :
    unlockedCommand s f = .next (errLine (commandRun s) 1) := by
  have hnone : ¬(commandRun s).mgmt.mon.unlocked.isSome = true := by
    rw [show (commandRun s).mgmt.mon.unlocked = s.mgmt.mon.unlocked.map fun _ => s.prc from rfl, hlocked]
    exact Bool.false_ne_true
  exact (command_runs hstby _).trans (congrArg Host.Outcome.next (if_neg hnone))

theorem state_answers : ∃ l, exec .state s = .next (emit (commandRun s) (.line ([0x6F, 0x6B] ++ l))) := by
  have hexec : exec .state s = execState s := rfl
  rw [hexec, execState, command_runs hstby]
  split <;> exact ⟨_, rfl⟩

theorem help_answers : ∃ l, exec .help s = .next (emit (commandRun s) (.line ([0x6F, 0x6B] ++ l))) := by
  have hexec : exec .help s = execHelp s := rfl
  rw [hexec, execHelp, command_runs hstby]
  exact ⟨_, rfl⟩

theorem ver_answers : ∃ l, exec .ver s = .next (emit (commandRun s) (.line ([0x6F, 0x6B] ++ l))) := by
  have hexec : exec .ver s = execVer s := rfl
  rw [hexec, execVer, command_runs hstby]
  exact ⟨_, rfl⟩

theorem id_answers : ∃ l, exec .id s = .next (emit (commandRun s) (.line ([0x6F, 0x6B] ++ l))) := by
  have hexec : exec .id s = execId s := rfl
  rw [hexec, execId, command_runs hstby]
  exact ⟨_, rfl⟩

theorem log_answers {n : Nat} (hlow : 1 ≤ n) (hhigh : n ≤ 64) (a : Option Nat) (ha : a.getD 16 = n) :
    ∃ l, exec (.log a) s = .next (emit (commandRun s) (.line ([0x6F, 0x6B] ++ l))) := by
  have hexec : exec (.log a) s = execLog a s := rfl
  rw [hexec, execLog, command_runs hstby]
  dsimp only
  rw [if_neg (by omega)]
  exact ⟨_, rfl⟩

theorem get_answers {index : BitVec 16} {sub : Byte} {bs : List Byte} (hup : firmwareUp s = true)
    (hread : cairnRead (commandRun s) .monitor index.toNat sub.toNat = (0, bs)) :
    exec (.get index sub) s = .next (okLine (commandRun s) [hexBytes bs]) := by
  have hexec : exec (.get index sub) s = execGet index sub s := rfl
  rw [hexec, execGet, command_runs hstby]
  have hrunning : ¬firmwareUp (commandRun s) = false := by
    rw [show firmwareUp (commandRun s) = firmwareUp s from rfl, hup]
    decide
  dsimp only
  rw [if_neg hrunning, hread]
  rfl

theorem baud_sets {n : Nat} (hlow : 115200 ≤ n) (hhigh : n ≤ 3000000) : ∃ t, exec (.baud n) s = .next t ∧
    t.mgmt.mon.baud = n ∧ t = { s with mgmt := { s.mgmt with mon := t.mgmt.mon }, out := s.out ++ [.line [0x6F, 0x6B]] } :=
  ⟨setMon (okLine (commandRun s) []) fun m => { m with baud := n },
    congrArg Host.Outcome.next ((if_pos hstby).trans (if_neg (by omega))), rfl, rfl⟩

/-! ## The unlock (R474) -/

section
variable {k : List Byte} (hopen : unlockLocked s = false) (hkey : ownerKey48 s = some k)
include hopen hkey

theorem exec_unlock (a : Option (List Byte)) : exec (.unlock a) s = .next
    (match a with
      | none =>
        let c := Config.challenge s.fresh
        okLine (setMon { commandRun s with fresh := s.fresh + 1 } fun m => { m with challenge := some c }) (hexGroups c)
      | some a => match s.mgmt.mon.challenge with
        | some c =>
          if answerOk s c a then
            okLine (raise (setMon (commandRun s) fun m => { m with unlocked := some s.prc, challenge := none, refused := [] })
              0x0A0C 0xFF (pf 0 1 1)) []
          else refuseUnlock (commandRun s)
        | none => refuseUnlock (commandRun s)) := by
  have hunlocked : ¬unlockLocked (commandRun s) = true := by
    rw [show unlockLocked (commandRun s) = unlockLocked s from rfl, hopen]
    decide
  have hsome : ¬(ownerKey48 (commandRun s)).isNone = true := by
    rw [show ownerKey48 (commandRun s) = ownerKey48 s from rfl, hkey]
    exact Bool.false_ne_true
  have hexec : exec (.unlock a) s = execUnlock a s := rfl
  rw [hexec, execUnlock, command_runs hstby, if_neg hunlocked, if_neg hsome]
  rfl

theorem unlock_challenges : ∃ t c, exec (.unlock none) s = .next t ∧ t.mgmt.mon.challenge = some c ∧ c.length = 32 ∧
    t.cores = s.cores ∧ KeepsMem s t :=
  ⟨_, Config.challenge s.fresh, exec_unlock hstby hopen hkey none, rfl, by simp [Config.challenge, Config.fit], rfl, rfl, rfl, rfl⟩

variable {a c : List Byte} (hchallenge : s.mgmt.mon.challenge = some c)
include hchallenge

theorem unlock_unlocks (hok : answerOk s c a = true) : ∃ t, exec (.unlock (some a)) s = .next t ∧
    t.mgmt.mon.unlocked = some s.prc ∧ t.mgmt.mon.challenge = none ∧ t.cores = s.cores ∧ KeepsMem s t := by
  let unlocked := setMon (commandRun s) fun m => { m with unlocked := some s.prc, challenge := none, refused := [] }
  have hraises := raises_raise unlocked 0x0A0C 0xFF (pf 0 1 1)
  have hmon : (raise unlocked 0x0A0C 0xFF (pf 0 1 1)).mgmt.mon = unlocked.mgmt.mon := by rw [hraises.mgmt]
  refine ⟨okLine (raise unlocked 0x0A0C 0xFF (pf 0 1 1)) [], ?_, congrArg MonSt.unlocked hmon, congrArg MonSt.challenge hmon,
    hraises.events.cores, hraises.events.keepsMem⟩
  rw [exec_unlock hstby hopen hkey, hchallenge]
  exact congrArg Host.Outcome.next (if_pos hok)

theorem unlock_refuses (hbad : answerOk s c a = false) (htwice : s.mgmt.mon.refused.length = 2) :
    ∃ t, exec (.unlock (some a)) s = .next t ∧ t.mgmt.mon.lockedAt = some (s.prc + 60 * secTicks) ∧
      t.mgmt.mon.challenge = none := by
  have hmon : (refuseUnlock (commandRun s)).mgmt.mon.lockedAt = some (s.prc + 60 * secTicks) ∧
      (refuseUnlock (commandRun s)).mgmt.mon.challenge = none := by
    have hcount : ¬(commandRun s).mgmt.mon.refused.length + 1 < 3 := by
      change ¬s.mgmt.mon.refused.length + 1 < 3
      omega
    unfold refuseUnlock
    extract_lets n refused
    have hkept : (errLine (raise refused 0x0A0C 0xFF 0) 1).mgmt.mon = refused.mgmt.mon := by
      change (raise refused 0x0A0C 0xFF 0).mgmt.mon = refused.mgmt.mon
      rw [(raises_raise ..).mgmt]
    rw [hkept]
    exact ⟨if_neg hcount, rfl⟩
  refine ⟨_, ?_, hmon⟩
  rw [exec_unlock hstby hopen hkey, hchallenge]
  exact congrArg Host.Outcome.next (if_neg (Bool.eq_false_iff.1 hbad))

end

/-! ## The service bus (R471) -/

theorem busTake_takes (hunlocked : s.mgmt.mon.unlocked ≠ none) : ∃ t, exec .busTake s = .next t ∧
    t.mgmt.bus.taken = true ∧ t = { s with mgmt := t.mgmt, out := s.out ++ [.line [0x6F, 0x6B]] } := by
  refine ⟨okLine (takeBus (commandRun s)) [], unlockedCommand_runs hstby (fun t => okLine (takeBus t) []) hunlocked, ?_⟩
  unfold takeBus
  split
  case isTrue htaken => exact ⟨htaken, rfl⟩
  case isFalse => exact ⟨rfl, rfl⟩

/-! ## Resets and recovery (R394, R475) -/

omit hstby in
theorem cairnRow_warmReset : cairnRow 0x6000 3 = some ⟨0x6000, 1, 3, 3, .num 1, .rwp, 0, .oneOf [1]⟩ := by decide

omit hstby in
/-- The monitor's write of 1 asks for the reset. -/
theorem cairnWrite_warmReset (hmay : mayWarm s = true) : cairnWrite s .monitor 0x6000 3 [1] = (askWarm s, 0) := by
  have hstate : dget s 0x6000 1 ≠ 3 := by
    unfold mayWarm panelReady inBivouac at hmay
    rw [Bool.and_eq_true, Bool.and_eq_true, Bool.or_eq_true, beq_iff_eq, beq_iff_eq] at hmay
    omega
  have hval : writeVal s .monitor 0x6000 3 1 = (askWarm s, 0) := by
    have hwrites : writeVal s .monitor 0x6000 3 1 =
        if dget s 0x6000 1 = 3 then (s, 4) else if mayWarm s then (askWarm s, 0) else (s, 3) := rfl
    rw [hwrites, if_neg hstate, if_pos hmay]
  have hforeign : foreignEntry s .monitor 0x6000 = false := rfl
  have hbus : busLocked s .monitor true 0x6000 3 = false := rfl
  simp only [cairnWrite, whoLevel, cairnRow_warmReset, writeRow, hforeign, hbus]
  exact hval

theorem warmReset_accepts (hunlocked : s.mgmt.mon.unlocked ≠ none) (hup : firmwareUp s = true) (hmay : mayWarm s = true) :
    ∃ t, exec .resetWarm s = .next t ∧ dget t 0x6000 1 = 3 ∧ KeepsMem s t := by
  have hwrite := cairnWrite_warmReset (s := commandRun s) hmay
  have hrunning : ¬firmwareUp (commandRun s) = false := by
    rw [show firmwareUp (commandRun s) = firmwareUp s from rfl, hup]
    decide
  refine ⟨okLine (askWarm (commandRun s)) [], ?_, panelState_askWarm (commandRun s) hmay, keepsMem_of_mems ?_⟩
  · have hexec : exec .resetWarm s = execResetWarm s := rfl
    rw [hexec, execResetWarm, unlockedCommand_runs hstby _ hunlocked]
    dsimp only
    rw [if_neg hrunning, hwrite]
    rfl
  · exact mems_emit.trans (mems_askWarm.trans rfl)

theorem resetCold_boots (o : BootObs) (hunlocked : s.mgmt.mon.unlocked ≠ none) : ∃ t, exec (.resetCold o) s = .next t ∧
    t.prc = 0 ∧ t.spm = [] ∧ t.hbm = [] ∧ t.sram = [] := by
  have hexec : exec (.resetCold o) s = execResetCold o s := rfl
  rw [hexec, execResetCold, unlockedCommand_runs hstby _ hunlocked]
  exact ⟨_, rfl, coldStart_clears o _⟩

/-- What needs the unlock is refused without it. -/
theorem locked_refuses (hlocked : s.mgmt.mon.unlocked = none) (index : BitVec 16) (sub : Byte) (v : List Byte) (o : BootObs)
    {i : Instr} (hi : i ∈ [.set index sub v, .busTake, .busGive, .resetWarm, .resetCold o]) :
    exec i s = .next (errLine (commandRun s) 1) := by
  have hrefused : ∀ f, unlockedCommand s f = .next (errLine (commandRun s) 1) := fun f =>
    unlockedCommand_refuses hstby f hlocked
  simp only [List.mem_cons, List.not_mem_nil, or_false] at hi
  obtain rfl | rfl | rfl | rfl | rfl := hi
  · exact (show exec (.set index sub v) s = execSet index sub v s from rfl).trans (hrefused _)
  · exact (show exec .busTake s = execBusTake s from rfl).trans (hrefused _)
  · exact (show exec .busGive s = execBusGive s from rfl).trans (hrefused _)
  · exact (show exec .resetWarm s = execResetWarm s from rfl).trans (hrefused _)
  · exact (show exec (.resetCold o) s = execResetCold o s from rfl).trans (hrefused _)

theorem set_writes {index : BitVec 16} {sub : Byte} {v : List Byte} {u : State} (hunlocked : s.mgmt.mon.unlocked ≠ none)
    (hup : firmwareUp s = true) (hwrite : cairnWrite (commandRun s) .monitor index.toNat sub.toNat v = (u, 0)) :
    exec (.set index sub v) s = .next (okLine u []) := by
  have hrunning : ¬firmwareUp (commandRun s) = false := by
    rw [show firmwareUp (commandRun s) = firmwareUp s from rfl, hup]
    decide
  have hexec : exec (.set index sub v) s = execSet index sub v s := rfl
  rw [hexec, execSet, unlockedCommand_runs hstby _ hunlocked]
  dsimp only
  rw [if_neg hrunning, hwrite]
  rfl

theorem recover_stores {comp : Byte} {b : List Byte} {u : State} (hunlocked : s.mgmt.mon.unlocked ≠ none)
    (hrunning : s.mgmt.romHalt = none) (hlow : 1 ≤ comp.toNat) (hhigh : comp.toNat ≤ 4)
    (hput : putBundle (commandRun s) comp.toNat b = (u, none)) : exec (.recover comp b) s = .next (okLine u []) := by
  have hhalt : ¬s.mgmt.romHalt.isSome = true := by
    rw [hrunning]
    decide
  have hhaltRun : ¬((commandRun s).mgmt.romHalt.isSome = true ∧ comp.toNat = 1) := fun hand => hhalt hand.1
  have hexec : exec (.recover comp b) s = execRecover comp b s := rfl
  rw [hexec, execRecover, if_neg hhalt, unlockedCommand_runs hstby _ hunlocked, recover, if_neg (by omega), hput]
  exact congrArg Host.Outcome.next (if_neg hhaltRun)

theorem recover_starts {b : List Byte} {o : BootObs} {u : State} (hhalted : s.mgmt.romHalt ≠ none)
    (hbooting : s.parts.booting = some (false, o)) (hput : putBundle (commandRun s) 1 b = (u, none)) :
    ∃ t, exec (.recover 1 b) s = .next t ∧ t.mgmt.romHalt = none ∧ t.prc = s.prc := by
  have hhalt : s.mgmt.romHalt.isSome = true := Option.isSome_iff_ne_none.2 hhalted
  have hkept : OnlyEvents (commandRun s) u := by
    have hputs := (putBundle_puts (commandRun s) 1 b).1
    rwa [hput] at hputs
  have hbootingU : (okLine u []).parts.booting = some (false, o) := (congrArg PartSt.booting hkept.parts).trans hbooting
  obtain ⟨hstarted, hprc⟩ := startRecovered_starts o hbootingU
  refine ⟨startRecovered (okLine u []), ?_, hstarted, hprc.trans hkept.prc⟩
  have hexec : exec (.recover 1 b) s = execRecover 1 b s := rfl
  have hone : (1 : Byte).toNat = 1 := rfl
  rw [hexec, execRecover, if_pos hhalt, command_runs hstby, recover, hone, if_neg (by omega), hput]
  exact congrArg Host.Outcome.next (if_pos ⟨hhalt, rfl⟩)

end

/-! ## The statement -/

/-- Settles O58: each clause is what its command or timeout does. -/
theorem serialMonitor : Obligations.SerialMonitor := by
  intro s hstby
  refine ⟨?reads, fun n hlow hhigh => log_answers hstby hlow hhigh (some n) rfl,
    fun index sub bs hup => get_answers hstby hup, fun n => baud_sets hstby, fun hopen k hkey =>
      ⟨unlock_challenges hstby hopen hkey, fun a c hchallenge =>
      ⟨unlock_unlocks hstby hopen hkey hchallenge, unlock_refuses hstby hopen hkey hchallenge⟩⟩,
    command_runs hstby fun t => okLine (endUnlock t) [], fun t0 hunlocked hdue => ?idle, fun t0 hunlocked hearly => ?active,
    fun u hnone => ?noEntries, fun hlocked index sub v o i => locked_refuses hstby hlocked index sub v o,
    fun hunlocked => ⟨fun index sub v u => set_writes hstby hunlocked, busTake_takes hstby hunlocked,
      unlockedCommand_runs hstby (fun t => okLine (giveBus t) []) hunlocked, warmReset_accepts hstby hunlocked,
      fun o => resetCold_boots hstby o hunlocked,
      fun comp b u hrunning hlow hhigh => recover_stores hstby hunlocked hrunning hlow hhigh⟩,
    fun b o u => recover_starts hstby⟩
  case reads =>
    intro i hi
    simp only [List.mem_cons, List.not_mem_nil, or_false] at hi
    obtain rfl | rfl | rfl | rfl | rfl := hi
    · exact help_answers hstby
    · exact ver_answers hstby
    · exact id_answers hstby
    · exact state_answers hstby
    · exact log_answers hstby (n := 16) (by decide) (by decide) none rfl
  case idle =>
    change Host.Outcome.next _ = _
    rw [hunlocked]
    exact congrArg Host.Outcome.next (if_pos hdue)
  case active =>
    change Host.Outcome.next _ = _
    rw [hunlocked]
    exact congrArg Host.Outcome.next (if_neg (Nat.not_le.2 hearly))
  case noEntries =>
    dsimp only
    rw [hnone]
    rfl

end Sys2Proof.Machine

/-!
Full panel resets (R390, R394, R442): what a cold boot starts from and where it stops, what a warm panel reset keeps, and how
either ends.
-/
namespace Sys2Proof.Machine

open Sys2Proof

/-! ## Cold boots that stop (R390, R442) -/

theorem aget_filter_none {α : Type} {keep : Nat × α → Bool} {k : Nat} (h : ∀ x, keep (k, x) = false) (l : Assoc α) :
    aget k (l.filter keep) = none := by
  induction l with
  | nil => rfl
  | cons e l ih =>
    obtain ⟨i, x⟩ := e
    rw [List.filter_cons]
    split
    case isTrue hkept =>
      have hne : i ≠ k := by
        rintro rfl
        exact absurd (h x) (Bool.not_eq_false _ ▸ hkept)
      exact (if_neg hne).trans ih
    case isFalse => exact ih

/-- What decides whether the sequence has stopped. -/
theorem bootStopped_eq {s t : State} (hrom : t.mgmt.romHalt = s.mgmt.romHalt) (hparts : t.parts = s.parts)
    (hstate : dget t 0x6000 1 = dget s 0x6000 1) : bootStopped t = bootStopped s := by
  unfold bootStopped inBivouac
  rw [hrom, hparts, hstate]

section
variable {s : State} (h : bootStopped s = false) (warm : Bool) (n : Nat)
include h

theorem stage_goes : stage warm n s = raise (dset s 0x6000 2 n) 0x0801 0xFF (pf 0 4 n ||| pf 4 1 (boolBit warm)) :=
  if_neg (Bool.eq_false_iff.1 h)

theorem calm_stage : Calm (dset s 0x6000 2 n) (stage warm n s) := stage_goes h warm n ▸ (raises_raise ..).calm

theorem bootStopped_stage : bootStopped (stage warm n s) = false := by
  have hcalm := calm_stage h warm n
  rw [bootStopped_eq (s := s) hcalm.romHalt hcalm.events.parts]
  · exact h
  · rw [hcalm.dget (by decide), dget_dset_other _ _ (by decide)]

theorem dget_stage : dget (stage warm n s) 0x6000 2 = n :=
  ((calm_stage h warm n).dget (by decide)).trans (dget_dset_same ..)

end

section
variable (o : BootObs) (s : State)

theorem tripEvent_keeps : (tripEvent s).clk = s.clk ∧ bootStopped (tripEvent s) = bootStopped s := by
  unfold tripEvent
  split
  · refine ⟨(raises_raise ..).events.clk, bootStopped_eq (raises_raise ..).calm.romHalt (raises_raise ..).events.parts ?_⟩
    exact (raises_raise ..).calm.dget (by decide)
  · exact ⟨rfl, rfl⟩

/-- Without a reference the mesh stays unlocked and step 2 is the last. DESIGN CHOICE (log 86). -/
theorem coldSteps_noRef {s : State} (h : bootStopped s = false) (href : o.refPresent = false) :
    (coldSteps o s).clk = s.clk ∧ dget (coldSteps o s) 0x6000 2 = 2 := by
  obtain ⟨hclk, hstop⟩ := tripEvent_keeps s
  have hfirst := bootStopped_stage (hstop.trans h) false 1
  have hsteps : coldSteps o s = stage false 2 (stage false 1 (tripEvent s)) := if_neg (Bool.eq_false_iff.1 href)
  rw [hsteps]
  refine ⟨?_, dget_stage hfirst false 2⟩
  rw [(calm_stage hfirst false 2).events.clk]
  exact (calm_stage (hstop.trans h) false 1).events.clk.trans hclk

theorem runSlot_eq (k slot : Nat) : ∃ b, runSlot s k slot = { s with mgmt := { s.mgmt with
    running := b, active := (runSlot s k slot).mgmt.active } } := by
  unfold runSlot
  split
  · exact ⟨_, rfl⟩
  · exact ⟨s.mgmt.running, rfl⟩

/-- After the loss of power nothing has stopped the sequence yet. -/
theorem bootStopped_coldClear : bootStopped (coldClear o s) = false := by
  have hlive : (!resetClass (cairnSlot 0x6000 1) && !baseClass (cairnSlot 0x6000 1) && !liveEntry (cairnSlot 0x6000 1)) = false := by
    decide
  have hstate : dget (coldClear o s) 0x6000 1 = 0 := by
    have hnone : aget (cairnSlot 0x6000 1) (coldDict (restoreSlice s).dict) = none := 
      aget_filter_none (fun _ => hlive) _
    unfold dget
    rw [show (coldClear o s).dict = coldDict (restoreSlice s).dict from rfl, hnone]
    decide
  unfold bootStopped inBivouac
  rw [hstate]
  rfl

/-- The state in which the ROM decides. -/
def poweredUp : State := emit (coldClear o s) (.pins 1 1)

variable {o s}

/-- A cold boot in which the ROM starts nothing is over. -/
theorem coldStart_stops {n : Nat} (h : romStart o (poweredUp o s) = romStop (poweredUp o s) o n) :
    (coldStart o s).mgmt.romHalt = some n ∧ (coldStart o s).cores = [] := by
  have hstart : coldStart o s = romStop (poweredUp o s) o n := by
    unfold coldStart
    dsimp only
    rw [show romStart o (emit (coldClear o s) (.pins 1 1)) = _ from h]
    rfl
  rw [hstart]
  exact ⟨rfl, rfl⟩

theorem coldStart_noPuf (hpuf : o.pufOk = false) : (coldStart o s).mgmt.romHalt = some 2 ∧ (coldStart o s).cores = [] :=
  coldStart_stops (if_pos hpuf)

variable (hpuf : o.pufOk = true)
include hpuf

theorem coldStart_noFloor (hfloors : o.floorsOk = false) :
    (coldStart o s).mgmt.romHalt = some 3 ∧ (coldStart o s).cores = [] :=
  coldStart_stops ((if_neg (by rw [hpuf]; decide)).trans (if_pos hfloors))

variable (hfloors : o.floorsOk = true)
include hfloors

theorem coldStart_noSlot (hfault : ∀ a, slotFault (coldClear o s) 0 a ≠ none) :
    (coldStart o s).mgmt.romHalt = some 1 ∧ (coldStart o s).cores = [] :=
  coldStart_stops (((if_neg (by rw [hpuf]; decide)).trans (if_neg (by rw [hfloors]; decide))).trans
    ((if_neg (hfault _)).trans (if_neg (hfault _))))

theorem coldStart_noRef (hslot : slotFault (coldClear o s) 0 (activeSlot (coldClear o s) 0) = none)
    (href : o.refPresent = false) :
    (coldStart o s).mgmt.romHalt = none ∧ (coldStart o s).clk.mesh = false ∧ dget (coldStart o s) 0x6000 2 = 2 := by
  let started := runSlot (poweredUp o s) 0 (activeSlot (coldClear o s) 0)
  obtain ⟨b, hstarted⟩ : ∃ b, started = { poweredUp o s with mgmt := { (poweredUp o s).mgmt with
    running := b, active := started.mgmt.active } } := runSlot_eq ..
  have hrom : started.mgmt.romHalt = none := by rw [hstarted]; rfl
  have hstop : bootStopped started = false := by
    rw [hstarted]
    exact bootStopped_coldClear o s
  have hclk : started.clk = ClkSt.reset := by rw [hstarted]; rfl
  have hromStart : romStart o (poweredUp o s) = started :=
    ((if_neg (by rw [hpuf]; decide)).trans (if_neg (by rw [hfloors]; decide))).trans (if_pos hslot)
  have hstart : coldStart o s = coldSteps o started := by
    unfold coldStart
    dsimp only
    rw [show romStart o (emit (coldClear o s) (.pins 1 1)) = _ from hromStart, hrom]
    rfl
  obtain ⟨hmesh, hstep⟩ := coldSteps_noRef o hstop href
  rw [hstart]
  refine ⟨(romHalt_coldSteps ..).trans hrom, ?_, hstep⟩
  rw [hmesh, hclk]
  rfl

end

/-! ## A warm panel reset (R394) -/

section
variable (o : BootObs) {s : State}

theorem mark_neutral (drill : Bool) (die reg : Nat) : (neutral s drill die reg).mark = s.mark := by
  simp [neutral, perturbEv, refitRail, orderRail]

theorem mark_restoreSlice : (restoreSlice s).mark = s.mark := by
  unfold restoreSlice
  (repeat' split) <;> simp

theorem mark_warmClear : (warmClear o s).mark = s.mark :=
  (show (warmClear o s).mark = (restoreSlice (neutralAll s false)).mark from rfl).trans
    (mark_restoreSlice.trans (mark_foldl fun _ _ => mark_neutral ..))

theorem mark_warmSteps : (warmSteps o s).mark = s.mark := by
  simp [warmSteps, mark_warmClear]

theorem mark_abandonLoad (p : Nat) : (abandonLoad s p).mark = s.mark := by
  obtain h | ⟨f, v, h⟩ := abandonLoad_cases s p
  · rw [h]
  · rw [h]
    rfl

theorem mark_askWarm : (askWarm s).mark = s.mark := by
  have hsettle : ∀ (t : State) (p : Nat), (qpsFail (ringsReset (abandonLoad t p) p) p).mark = t.mark := fun t p => by
    rw [mark_qpsFail, (calm_ringsReset ..).mark, mark_abandonLoad]
  simp [askWarm, hsettle]

/-- The memories that survive, from the acceptance to the links' release. -/
theorem warmSteps_keeps : (warmSteps o s).spm = [] ∧ (warmSteps o s).hbm = s.hbm ∧ (warmSteps o s).sram = s.sram ∧
    (warmSteps o s).prc = s.prc := by
  have hrest := scrubs_warmRest o s
  have hclear : KeepsMem s (restoreSlice (neutralAll s false)) := keepsMem_of_mems (by simp)
  obtain ⟨-, hhbm, hsram⟩ := hclear
  exact ⟨hrest.spm rfl, hrest.hbm.trans hhbm, hrest.sram.trans hsram, congrArg Prod.fst (mark_warmSteps o)⟩

theorem warmPanelReset_keeps (hbooting : s.parts.booting = none) (hmay : mayWarm s = true) :
    ∃ t, exec (.warmPanelReset o) s = .next t ∧ t.spm = [] ∧ t.hbm = s.hbm ∧ t.sram = s.sram ∧ t.prc = s.prc := by
  have hexec : exec (.warmPanelReset o) s = execWarmPanelReset o s := rfl
  have hasked := panelState_askWarm s hmay
  have hstate : dget s 0x6000 1 ≠ 3 := by
    unfold mayWarm panelReady inBivouac at hmay
    rw [Bool.and_eq_true, Bool.and_eq_true, Bool.or_eq_true, beq_iff_eq, beq_iff_eq] at hmay
    omega
  obtain ⟨hspm, hhbm, hsram, hprc⟩ := warmSteps_keeps o (s := askWarm s)
  obtain ⟨-, ahbm, asram⟩ : KeepsMem s (askWarm s) := keepsMem_of_mems mems_askWarm
  refine ⟨warmSteps o (askWarm s), ?_, hspm, hhbm.trans ahbm, hsram.trans asram, hprc.trans (congrArg Prod.fst mark_askWarm)⟩
  rw [hexec, execWarmPanelReset, hbooting]
  dsimp only
  rw [if_neg hstate, if_pos hasked]

end

/-! ## The end of a boot (R390, Table 12.1) -/

theorem bootEnd_ready (warm : Bool) (o : BootObs) (s : State) :
    dget (bootEnd warm o s) 0x6000 1 = 2 ∧ dget (bootEnd warm o s) 0x6000 4 = o.durationMs.toNat := by
  unfold bootEnd
  extract_lets parts started entered checked published parts' counted told restored staged raised ready pw limited limits pwr'
    pwr'' settled done parts'' recorded
  clear_value raised
  have hone : dget ready 0x6000 1 = 2 := (dget_dset_other _ _ (by decide)).trans (dget_dset_same ..)
  have hfour : dget ready 0x6000 4 = o.durationMs.toNat := dget_dset_same ..
  have hsettled (j : Nat) : dget settled 0x6000 j = dget ready 0x6000 j := by
    unfold settled
    cases warm
    case true => rfl
    case false => exact dget_dset_other _ _ (by unfold cairnSlot; omega)
  have hdone : DictBut takenOverSlot settled done := dictBut_stage settled warm _
  have hrecorded : DictBut takenOverSlot settled recorded := hdone.trans (.of_dict rfl)
  have hkept {j : Nat} (hj : cairnSlot 0x6000 j ≠ cairnSlot 0x6000 2) (hlow : j < 256) :
      dget (raise recorded 0x0802 0xFF (pf 0 1 (boolBit warm) ||| pf 4 4 checked.2 ||| pf 32 32 o.durationMs.toNat)) 0x6000 j
        = dget ready 0x6000 j := by
    rw [(raises_raise ..).calm.dget (by unfold cairnSlot; omega), hrecorded.dget, hsettled]
    rintro (h | ⟨p, h⟩ | h)
    · unfold notKeptSlot cairnSlot at h
      omega
    · unfold cairnSlot at h
      omega
    · exact hj h
  exact ⟨(hkept (by decide) (by decide)).trans hone, (hkept (by decide) (by decide)).trans hfour⟩

theorem boot_ends (o o' : BootObs) (s : State) :
    (s.parts.booting = some (false, o') → s.mgmt.romHalt = none → powered s = true →
      ∃ t, exec (.coldBoot o) s = .next t ∧ dget t 0x6000 1 = 2 ∧ dget t 0x6000 4 = o'.durationMs.toNat) ∧
    (s.parts.booting = some (true, o') →
      ∃ t, exec (.warmPanelReset o) s = .next t ∧ dget t 0x6000 1 = 2 ∧ dget t 0x6000 4 = o'.durationMs.toNat) := by
  have hcold : exec (.coldBoot o) s = execColdBoot o s := rfl
  have hwarm : exec (.warmPanelReset o) s = execWarmPanelReset o s := rfl
  refine ⟨fun hbooting hrom hpowered => ⟨_, ?_, bootEnd_ready false o' s⟩, fun hbooting => ⟨_, ?_, bootEnd_ready true o' s⟩⟩
  · rw [hcold, execColdBoot, hbooting, hrom, hpowered]
    rfl
  · rw [hwarm, execWarmPanelReset, hbooting]

end Sys2Proof.Machine

/-!
Partitions: their definition (R397), switching on with its scrubs and fills (R180, R237, R298, R399) and deletion (R400).
-/
namespace Sys2Proof.Machine

open Sys2Proof

/-! ## A change of state (R398) -/

section
variable (s : State) (p new : Nat)

/-- The state in which a partition has changed state, before the event. -/
def partMoved : State :=
  if partSt s p = new then s
  else { s with parts := { s.parts with st := if new = 0 then adel p s.parts.st else aput p new s.parts.st } }

theorem raises_setPart : Raises (partMoved s p new) (setPart s p new) := by
  unfold partMoved setPart
  dsimp only
  split
  · exact .refl s
  · exact raises_raise ..

theorem partMoved_eq : partMoved s p new = { s with parts := { s.parts with st := (partMoved s p new).parts.st } } := by
  unfold partMoved
  split <;> rfl

theorem dict_partMoved : (partMoved s p new).dict = s.dict := by rw [partMoved_eq]

theorem partSt_of_parts {t : State} (h : t.parts = s.parts) (q : Nat) : partSt t q = partSt s q := by rw [partSt, h, ← partSt]

variable {s p new} in
theorem partSt_setPart (hnew : new ≠ 0) : partSt (setPart s p new) p = new := by
  rw [partSt_of_parts _ (raises_setPart s p new).events.parts, partMoved]
  split
  case isTrue h => exact h
  case isFalse => exact agetD_aput_same ..

variable {s p} in
theorem partSt_setPart_undefined (hrise : keysRise s.parts.st = true) : partSt (setPart s p 0) p = 0 := by
  rw [partSt_of_parts _ (raises_setPart s p 0).events.parts, partMoved]
  split
  case isTrue h => exact h
  case isFalse =>
    show agetD p 0 (adel p s.parts.st) = 0
    rw [agetD, aget_adel_same hrise]
    rfl

theorem cores_setPart : (setPart s p new).cores = s.cores := by
  rw [(raises_setPart ..).events.cores, partMoved_eq]

theorem keepsMem_setPart : KeepsMem s (setPart s p new) := keepsMem_of_mems mems_setPart

end

/-! ## Owners of memory sites (R236) -/

section
variable (p mask : Nat)

/-- The owner of a site once a mask of a partition is in force. -/
def ownerAfter (m old : Nat) : Nat := if bit mask m then p else if old = p then 0xFF else old

/-- One site takes its owner from the mask. -/
def ownSite (t : State) (m : Nat) : State :=
  if bit mask m then dset t (0xA100 + m) 3 p
  else if ownerOfSite t m = p then dset t (0xA100 + m) 3 0xFF
  else t

theorem setOwners_eq_foldl (s : State) : setOwners s p mask = (List.range 16).foldl (ownSite p mask) s := rfl

theorem ownerOfSite_ownSite (t : State) (m k : Nat) :
    ownerOfSite (ownSite p mask t m) k = if k = m then ownerAfter p mask m (ownerOfSite t m) else ownerOfSite t k := by
  have hset (v : Nat) : ownerOfSite (dset t (0xA100 + m) 3 v) k = if k = m then v else ownerOfSite t k := by
    split
    case isTrue h => rw [h]; exact dget_dset_same ..
    case isFalse h => exact dget_dset_other t v (by unfold cairnSlot; omega)
  unfold ownSite ownerAfter
  split
  · exact hset p
  · split
    · exact hset 0xFF
    · split
      case isTrue h => rw [h]
      case isFalse => rfl

theorem ownerOfSite_foldl_ownSite (s : State) (n k : Nat) : ownerOfSite ((List.range n).foldl (ownSite p mask) s) k =
    if k < n then ownerAfter p mask k (ownerOfSite s k) else ownerOfSite s k := by
  induction n with
  | zero => rfl
  | succ n ih =>
    rw [List.range_succ, List.foldl_append, List.foldl_cons, List.foldl_nil, ownerOfSite_ownSite]
    by_cases hk : k = n
    · subst hk
      rw [if_pos rfl, ih, if_neg (Nat.lt_irrefl k), if_pos (Nat.lt_succ_self k)]
    · rw [if_neg hk, ih]
      exact if_congr (by omega) rfl rfl

theorem ownerOfSite_setOwners (s : State) (m : Fin 16) :
    ownerOfSite (setOwners s p mask) m = ownerAfter p mask m (ownerOfSite s m) :=
  (ownerOfSite_foldl_ownSite p mask s 16 m).trans (if_pos m.isLt)

/-- The owners of memory sites in the dictionary. -/
def ownerSlot (k : Nat) : Prop := ∃ m, k = cairnSlot (0xA100 + m) 3

/-- Nothing differs but entries of the dictionary. -/
def OnlyDict (s t : State) : Prop := t = { s with dict := t.dict }

theorem ownSite_entries (t : State) (m : Nat) : OnlyDict t (ownSite p mask t m) ∧ DictBut ownerSlot t (ownSite p mask t m) := by
  have hset (v : Nat) : OnlyDict t (dset t (0xA100 + m) 3 v) ∧ DictBut ownerSlot t (dset t (0xA100 + m) 3 v) :=
    ⟨rfl, dictBut_dset t ⟨m, rfl⟩ v⟩
  unfold ownSite
  split
  · exact hset p
  · split
    · exact hset 0xFF
    · exact ⟨rfl, .refl t⟩

theorem setOwners_entries (s : State) : OnlyDict s (setOwners s p mask) ∧ DictBut ownerSlot s (setOwners s p mask) := by
  rw [setOwners_eq_foldl]
  generalize List.range 16 = l
  induction l generalizing s with
  | nil => exact ⟨rfl, .refl s⟩
  | cons m l ih =>
    obtain ⟨honly, hbut⟩ := ownSite_entries p mask s m
    obtain ⟨ionly, ibut⟩ := ih (ownSite p mask s m)
    refine ⟨?_, hbut.trans ibut⟩
    unfold OnlyDict at *
    rw [List.foldl_cons, ionly, honly]

end

/-! ## Definition (R397, R398) -/

section
variable (s : State) (p : PartNo) (f : PartField)

/-- A definition write is stored. -/
def fieldStored : State := match f with
  | .rect v => dset s (0x6100 + p) 2 v.toNat
  | .sites v => setOwners (dset s (0x6100 + p) 3 v.toNat) p v.toNat
  | .owner v => dset s (0x6100 + p) 4 v.toNat

theorem onlyDict_fieldStored : OnlyDict s (fieldStored s p f) := by
  cases f with
  | rect => rfl
  | sites v =>
    have honly := (setOwners_entries p v.toNat (dset s (0x6100 + p) 3 v.toNat)).1
    unfold OnlyDict at honly
    exact honly
  | owner => rfl

theorem define_eq : define s p f = if partSt s p = 0 then setPart (fieldStored s p f) p 1 else fieldStored s p f := by
  have hpart : partSt (fieldStored s p f) p = partSt s p := partSt_of_parts s (by rw [onlyDict_fieldStored]) p
  rw [← hpart]
  cases f <;> rfl

/-- A write in place, and the event of a partition that it takes to off. -/
theorem define_keeps : KeepsMem s (define s p f) ∧ (define s p f).cores = s.cores ∧
    DictBut notKeptSlot (fieldStored s p f) (define s p f) := by
  have hstored : KeepsMem s (fieldStored s p f) ∧ (fieldStored s p f).cores = s.cores := by
    rw [onlyDict_fieldStored]
    exact ⟨.refl s, rfl⟩
  obtain ⟨hmem, hcores⟩ := hstored
  rw [define_eq]
  split
  · refine ⟨hmem.trans (keepsMem_setPart ..), (cores_setPart ..).trans hcores, ?_⟩
    exact .trans (.of_dict (dict_partMoved ..)) (raises_setPart (fieldStored s p f) p 1).dict
  · exact ⟨hmem, hcores, .refl _⟩

theorem partSt_define : partSt (define s p f) p = if partSt s p = 0 then 1 else partSt s p := by
  rw [define_eq]
  split
  · exact partSt_setPart (by decide)
  · exact partSt_of_parts s (by rw [onlyDict_fieldStored]) p

/-- What a stored field of a definition reads as: the entry, and the owners of memory sites under a mask. -/
def FieldReads (t : State) : PartField → Prop
  | .rect v => dget t (0x6100 + p) 2 = v.toNat ∧ hasRect t p = true
  | .sites v => dget t (0x6100 + p) 3 = v.toNat ∧ ∀ m : Fin 16, ownerOfSite t m = ownerAfter p v.toNat m (ownerOfSite s m)
  | .owner v => dget t (0x6100 + p) 4 = v.toNat

theorem partitionDefine_stores (hok : defineOk s p f = true) :
    ∃ t, exec (.partitionDefine p f) s = .next t ∧ KeepsMem s t ∧ t.cores = s.cores ∧
      partSt t p = (if partSt s p = 0 then 1 else partSt s p) ∧ FieldReads s p t f := by
  obtain ⟨hmem, hcores, hdict⟩ := define_keeps s p f
  refine ⟨define s p f, congrArg Host.Outcome.next (if_pos hok), hmem, hcores, partSt_define .., ?_⟩
  have hentry (j : Nat) (hj : j < 5) : ¬notKeptSlot (cairnSlot (0x6100 + p) j) := by
    unfold notKeptSlot cairnSlot
    omega
  cases f with
  | rect v =>
    refine ⟨(hdict.dget (hentry 2 (by decide))).trans (dget_dset_same ..), ?_⟩
    rw [hasRect, hdict _ (hentry 2 (by decide))]
    exact congrArg Option.isSome (aget_aput_same ..)
  | sites v =>
    have howners := (setOwners_entries p v.toNat (dset s (0x6100 + p) 3 v.toNat)).2
    refine ⟨(hdict.dget (hentry 3 (by decide))).trans ?_, fun m => ?_⟩
    · refine (howners.dget ?_).trans (dget_dset_same ..)
      rintro ⟨m, hm⟩
      unfold cairnSlot at hm
      omega
    · have hslot : ¬notKeptSlot (cairnSlot (0xA100 + m) 3) := by
        unfold notKeptSlot cairnSlot
        omega
      have hsame : ownerOfSite (dset s (0x6100 + p) 3 v.toNat) m = ownerOfSite s m :=
        dget_dset_other s _ (by unfold cairnSlot; omega)
      refine (hdict.dget hslot).trans ?_
      refine (ownerOfSite_setOwners ..).trans ?_
      rw [hsame]
  | owner v => exact (hdict.dget (hentry 4 (by decide))).trans (dget_dset_same ..)

end

/-! ## Dies of a partition -/

/-- A defined partition that changes to another defined state keeps its place in the table. -/
theorem find?_aput {k x y : Nat} (hx : x ≠ 0) (hy : y ≠ 0) (g : Nat → Bool) {l : Assoc Nat} (hrise : keysRise l = true)
    (haget : aget k l = some x) :
    ((aput k y l).find? fun e => e.2 != 0 && g e.1).map Prod.fst = (l.find? fun e => e.2 != 0 && g e.1).map Prod.fst := by
  induction l with
  | nil => cases haget
  | cons e l ih =>
    obtain ⟨i, z⟩ := e
    rw [aget] at haget
    rw [aput]
    split at haget
    case isTrue hik =>
      subst hik
      cases haget
      rw [if_neg (Nat.lt_irrefl i), if_pos rfl, List.find?_cons, List.find?_cons, bne_iff_ne.2 hx, bne_iff_ne.2 hy,
        Bool.true_and]
      split <;> rfl
    case isFalse hik =>
      obtain ⟨e, he, hkey⟩ := List.mem_map.1 (mem_keys_of_aget haget)
      have hlt : i < k := hkey ▸ keysRise_head hrise e he
      rw [if_neg (by omega), if_neg (by omega), List.find?_cons, List.find?_cons]
      split
      · rfl
      · exact ih (keysRise_tail hrise) haget

theorem partOfDie_eq (s : State) (d : Nat) : partOfDie s d =
    ((s.parts.st.find? fun e => e.2 != 0 && inRect s e.1 (siteCol (siteOfDie d)) (siteRow (siteOfDie d))).map
      Prod.fst).getD 0xFF := by
  unfold partOfDie
  dsimp only
  split
  case h_1 h => rw [h]; rfl
  case h_2 h => rw [h]; rfl

section
variable {s t : State}

theorem inRect_of_entries (h : DictBut notKeptSlot s t) (p col row : Nat) : inRect t p col row = inRect s p col row := by
  have hslot : ¬notKeptSlot (cairnSlot (0x6100 + p) 2) := by
    unfold notKeptSlot cairnSlot
    omega
  unfold inRect hasRect
  rw [h.dget hslot, h _ hslot]

theorem regionsOfPart_of_dies (h : ∀ d, partOfDie t d = partOfDie s d) (p : Nat) : regionsOfPart t p = regionsOfPart s p := by
  simp only [regionsOfPart, diesOfPart, h]

/-- The dies of a partition stay its dies when it begins to start. -/
theorem partOfDie_starts {p : Nat} (hrise : keysRise s.parts.st = true) (hoff : partSt s p = 1)
    (hparts : t.parts.st = aput p 2 s.parts.st) (hdict : DictBut notKeptSlot s t) (d : Nat) : partOfDie t d = partOfDie s d := by
  have haget : aget p s.parts.st = some 1 := by
    rw [partSt, agetD] at hoff
    cases h : aget p s.parts.st with
    | none => rw [h] at hoff; exact absurd hoff (by decide)
    | some x => rw [h] at hoff; exact congrArg some hoff
  rw [partOfDie_eq, partOfDie_eq, hparts]
  simp only [inRect_of_entries hdict]
  exact congrArg (Option.getD · _) (find?_aput (x := 1) (y := 2) (by decide) (by decide)
    (fun q => inRect s q (siteCol (siteOfDie d)) (siteRow (siteOfDie d))) hrise haget)

end

end Sys2Proof.Machine

/-!
Switching a partition on, from its start to the end of its scrubs and fills (R180, R237, R298, R399), and its deletion (R400).
-/
namespace Sys2Proof.Machine

open Sys2Proof

/-- What one element of a list brings about, and the others leave, holds after all. -/
theorem foldl_reaches {α : Type} {inv goal : State → Prop} {f : State → α → State} (hinv : ∀ s a, inv s → inv (f s a))
    (hstay : ∀ s a, goal s → goal (f s a)) {a : α} (hreach : ∀ s, inv s → goal (f s a)) {l : List α} (ha : a ∈ l) {s : State}
    (hs : inv s) : goal (l.foldl f s) := by
  have hkept : ∀ (l : List α) (s : State), goal s → goal (l.foldl f s) := fun l => by
    induction l with
    | nil => exact fun _ => id
    | cons b l ih => exact fun s h => ih _ (hstay s b h)
  induction l generalizing s with
  | nil => cases ha
  | cons b l ih =>
    obtain rfl | ha := List.mem_cons.1 ha
    · exact hkept l _ (hreach s hs)
    · exact ih ha (hinv s b hs)

/-! ## Regions that are woken (R399) -/

/-- A region is in retention or off. -/
def RegionPwr.sleeps (x : RegionPwr) : Prop := x.pstate = 1 ∨ x.pstate = 2

section
variable (s : State) (r q : Nat)

theorem pstate_wakeRegion : (region (wakeRegion s q) r).pstate = (region s r).pstate := by
  unfold wakeRegion
  split
  · rw [modRegion, region_setRegion]
    split
    case isTrue h => rw [h]
    case isFalse => rfl
  · rfl

theorem wake_wakeRegion (h : (region s r).wake = true) : (region (wakeRegion s q) r).wake = true := by
  unfold wakeRegion
  split
  · rw [modRegion, region_setRegion]
    split
    · rfl
    · exact h
  · exact h

theorem wakeRegion_wakes (h : (region s r).sleeps) : (region (wakeRegion s r) r).wake = true := by
  have hwoken : wakeRegion s r = modRegion s r fun x => { x with wake := true } := if_pos h
  rw [hwoken, modRegion, region_setRegion_same]

theorem foldl_wakeRegion_wakes {l : List Nat} (hr : r ∈ l) (h : (region s r).sleeps) :
    (region (l.foldl wakeRegion s) r).wake = true :=
  foldl_reaches (inv := fun t => (region t r).sleeps) (goal := fun t => (region t r).wake = true)
    (fun t q ht => by rwa [RegionPwr.sleeps, pstate_wakeRegion]) (fun t q => wake_wakeRegion t r q)
    (fun t => wakeRegion_wakes t r) hr h

theorem foldl_wakeRegion_pwr (l : List Nat) : l.foldl wakeRegion s = { s with pwr := (l.foldl wakeRegion s).pwr } := by
  induction l generalizing s with
  | nil => rfl
  | cons q l ih => rw [List.foldl_cons, ih (wakeRegion s q), wakeRegion_pwr]

end

/-! ## Switching on begins (R295, R298, R399) -/

section
variable (s : State) (p : Nat)

/-- What changes owner is marked, the salt is drawn and the queue pairs fail. -/
def takenInto : State :=
  if (handedOver s p).isEmpty then setPart s p 2
  else
    let moved := setPart s p 2
    qpsFail { moved with
      parts := { moved.parts with scrub := moved.parts.scrub ++ handedOver s p },
      host := { moved.host with salts := aput p (moved.fresh + 16) moved.host.salts }, fresh := moved.fresh + 1 } p

theorem startPart_eq : startPart s p = (regionsOfPart (takenInto s p) p).foldl wakeRegion (takenInto s p) := rfl

variable {s p} (hoff : partSt s p = 1)
include hoff

theorem partMoved_starts : partMoved s p 2 = { s with parts := { s.parts with st := aput p 2 s.parts.st } } :=
  if_neg (by omega)

theorem setPart_starts : Raises { s with parts := { s.parts with st := aput p 2 s.parts.st } } (setPart s p 2) :=
  partMoved_starts hoff ▸ raises_setPart s p 2

theorem takenInto_keeps : KeepsMem s (takenInto s p) ∧ (takenInto s p).cores = s.cores ∧ (takenInto s p).pwr = s.pwr ∧
    (takenInto s p).parts.st = aput p 2 s.parts.st ∧ DictBut notKeptSlot s (takenInto s p) := by
  have hmoved := setPart_starts hoff
  have hdict : DictBut notKeptSlot s (setPart s p 2) := hmoved.dict
  unfold takenInto
  split
  · exact ⟨keepsMem_setPart .., hmoved.events.cores, hmoved.events.pwr, congrArg PartSt.st hmoved.events.parts, hdict⟩
  · have hcalm := calm_qpsFail { setPart s p 2 with
      parts := { (setPart s p 2).parts with scrub := (setPart s p 2).parts.scrub ++ handedOver s p },
      host := { (setPart s p 2).host with salts := aput p ((setPart s p 2).fresh + 16) (setPart s p 2).host.salts },
      fresh := (setPart s p 2).fresh + 1 } p
    exact ⟨(keepsMem_setPart ..).trans hcalm.events.keepsMem, hcalm.events.cores.trans hmoved.events.cores,
      hcalm.events.pwr.trans hmoved.events.pwr,
      (congrArg PartSt.st hcalm.events.parts).trans (congrArg PartSt.st hmoved.events.parts), hdict.trans hcalm.entries⟩

theorem takenInto_marks : (∀ k ∈ handedOver s p, k ∈ (takenInto s p).parts.scrub) ∧
    (handedOver s p ≠ [] → aget p (takenInto s p).host.salts = some (s.fresh + 16)) := by
  have hmoved := setPart_starts hoff
  unfold takenInto
  split
  case isTrue hnone =>
    rw [List.isEmpty_iff] at hnone
    rw [hnone]
    exact ⟨fun _ h => absurd h (List.not_mem_nil), fun h => absurd rfl h⟩
  case isFalse =>
    refine ⟨fun k hk => ?_, fun _ => ?_⟩
    · rw [(calm_qpsFail ..).events.parts]
      exact List.mem_append_right _ hk
    · rw [(calm_qpsFail ..).salts]
      refine (aget_aput_same ..).trans ?_
      rw [hmoved.events.fresh]

end

theorem switchOn_starts {p : PartNo} {s : State} (hmay : mayStart s p = true) (hready : panelReady s = true) :
    ∃ t, exec (.switchOn p) s = .next t ∧ KeepsMem s t ∧ t.cores = s.cores ∧
      partSt t p = 2 ∧ (∀ k ∈ handedOver s p, k ∈ t.parts.scrub) ∧
      (handedOver s p ≠ [] → aget p.val t.host.salts = some (s.fresh + 16)) ∧
      (keysRise s.parts.st = true → ∀ r ∈ regionsOfPart s p, (region s r).pstate = 1 ∨ (region s r).pstate = 2 →
        (region t r).wake = true) := by
  have hoff : partSt s p = 1 := by
    unfold mayStart at hmay
    simp only [Bool.and_eq_true, beq_iff_eq] at hmay
    exact hmay.1.1.1
  have hbivouac : ¬inBivouac s = true := by
    rw [panelReady, beq_iff_eq] at hready
    rw [inBivouac, hready]
    decide
  obtain ⟨hmem, hcores, hpwr, hst, hdict⟩ := takenInto_keeps hoff
  obtain ⟨hscrub, hsalt⟩ := takenInto_marks hoff
  have hexec : exec (.switchOn p) s = .next (startPart s p) :=
    congrArg Host.Outcome.next ((if_pos hmay).trans ((if_neg hbivouac).trans (if_pos hready)))
  have hwoken := foldl_wakeRegion_pwr (takenInto s p) (regionsOfPart (takenInto s p) p)
  rw [← startPart_eq] at hwoken
  refine ⟨startPart s p, hexec, ?_, ?_, ?_, ?_, ?_, fun hrise r hr hsleeps => ?_⟩
  · rw [hwoken]; exact hmem
  · rw [hwoken]; exact hcores
  · rw [hwoken, partSt, hst]; exact agetD_aput_same ..
  · rw [hwoken]; exact hscrub
  · rw [hwoken]; exact hsalt
  · have hregions : regionsOfPart (takenInto s p) p = regionsOfPart s p :=
      regionsOfPart_of_dies (partOfDie_starts hrise hoff hst hdict) p
    rw [startPart_eq, hregions]
    refine foldl_wakeRegion_wakes _ r hr ?_
    rw [region_of_pwr hpwr]
    exact hsleeps

/-! ## Scrubs and fills (R179, R180, R237) -/

section
variable (s : State)

theorem memGet_scrubCore (c b : Nat) : memGet (scrubCore s c).spm b =
    if spmKey c 0 ≤ b ∧ b < spmKey c 0 + spmSize then 0 else memGet s.spm b := by
  have hspm : (scrubCore s c).spm = memZero s.spm (spmKey c 0) spmSize := by
    simp only [scrubCore]
    split <;> rfl
  rw [hspm, memGet_memZero]
  rfl

theorem scrubCore_keepsZero {b : Nat} (c : Nat) (h : memGet s.spm b = 0) : memGet (scrubCore s c).spm b = 0 := by
  rw [memGet_scrubCore]
  split
  · rfl
  · exact h

theorem scrubCore_zeroes {c a : Nat} (ha : a < spmSize) : memGet (scrubCore s c).spm (spmKey c a) = 0 := by
  rw [memGet_scrubCore, if_pos]
  unfold spmKey
  omega

theorem scrubDie_keepsZero {b : Nat} (d : Nat) (h : memGet s.spm b = 0) : memGet (scrubDie s d).spm b = 0 := by
  unfold scrubDie
  generalize List.range 32 = l
  induction l generalizing s with
  | nil => exact h
  | cons k l ih => exact ih _ (scrubCore_keepsZero s _ h)

theorem scrubDie_zeroes {d k a : Nat} (hk : k < 32) (ha : a < spmSize) :
    memGet (scrubDie s d).spm (spmKey (32 * d + k) a) = 0 :=
  foldl_reaches (inv := fun _ => True) (goal := fun t => memGet t.spm (spmKey (32 * d + k) a) = 0) (fun _ _ => id)
    (fun t j => scrubCore_keepsZero t (32 * d + j)) (fun t _ => scrubCore_zeroes t ha) (List.mem_range.2 hk) trivial

theorem foldl_scrubDie_zeroes {l : List Nat} {d k a : Nat} (hd : d ∈ l) (hk : k < 32) (ha : a < spmSize) :
    memGet (l.foldl scrubDie s).spm (spmKey (32 * d + k) a) = 0 :=
  foldl_reaches (inv := fun _ => True) (goal := fun t => memGet t.spm (spmKey (32 * d + k) a) = 0) (fun _ _ => id)
    (fun t => scrubDie_keepsZero t) (fun t _ => scrubDie_zeroes t hk ha) hd trivial

theorem memGet_fillSite (m b : Nat) : memGet (fillSite s m).hbm b =
    if m * 2 ^ 36 ≤ b ∧ b < m * 2 ^ 36 + 2 ^ 36 then 0 else memGet s.hbm b := memGet_memZero ..

theorem foldl_fillSite_zeroes {l : List Nat} {m a : Nat} (hm : m ∈ l) (ha : a < 2 ^ 36) :
    memGet (l.foldl fillSite s).hbm (m * 2 ^ 36 + a) = 0 := by
  refine foldl_reaches (inv := fun _ => True) (goal := fun t => memGet t.hbm (m * 2 ^ 36 + a) = 0) (fun _ _ => id)
    (fun t j h => ?_) (fun t _ => ?_) hm trivial
  · rw [memGet_fillSite]
    split
    · rfl
    · exact h
  · rw [memGet_fillSite, if_pos ⟨by omega, by omega⟩]

theorem parts_scrubCore (c : Nat) : (scrubCore s c).parts = s.parts := by
  simp only [scrubCore]
  split <;> rfl

theorem parts_scrubs (l : List Nat) : (l.foldl scrubDie s).parts = s.parts :=
  foldl_keeps State.parts (fun t _ => foldl_keeps State.parts (fun u _ => parts_scrubCore u _) _ t) l s

theorem fills_eq (l : List Nat) : l.foldl fillSite s = { s with hbm := (l.foldl fillSite s).hbm } := by
  induction l generalizing s with
  | nil => rfl
  | cons m l ih => rw [List.foldl_cons, ih (fillSite s m), fillSite]

/-- What a partition's start scrubs and fills. -/
def scrubbed (p : Nat) : State :=
  ((sitesOf s p).filter fun m => s.parts.scrub.contains (256 + m)).foldl fillSite
    (((diesOfPart s p).filter fun d => s.parts.scrub.contains d).foldl scrubDie s)

theorem parts_scrubbed (p : Nat) : (scrubbed s p).parts = s.parts := by
  exact (foldl_keeps (g := fillSite) State.parts (fun _ _ => rfl) _ _).trans (parts_scrubs s _)

/-- The state in which a partition's start ends, with other marks and last owners. -/
def scrubsEnded (p : Nat) (scrub : List Nat) (owners : Assoc Nat) : State :=
  { scrubbed s p with parts := { (scrubbed s p).parts with scrub := scrub, owners := owners } }

variable {s} in
theorem exec_partitionStarted {p : PartNo} (hstarts : partSt s p = 2) : ∃ scrub owners,
    exec (.partitionStarted p []) s = .next (startWaiting (setPart (scrubsEnded s p scrub owners) p 3) p) :=
  ⟨_, _, congrArg Host.Outcome.next (if_pos hstarts)⟩

variable {s} in
theorem partitionStarted_ends {p : PartNo} (hstarts : partSt s p = 2) (hnone : aget p.val s.parts.waiting = none) :
    ∃ t, exec (.partitionStarted p []) s = .next t ∧ partSt t p = 3 ∧
      (∀ d ∈ diesOfPart s p, d ∈ s.parts.scrub → ∀ k a, k < 32 → a < spmSize → spmRead t (32 * d + k) a 1 = [0]) ∧
      (∀ m ∈ sitesOf s p, 256 + m ∈ s.parts.scrub → ∀ a, a < 2 ^ 36 → memGet t.hbm (m * 2 ^ 36 + a) = 0) := by
  obtain ⟨scrub, owners, hexec⟩ := exec_partitionStarted hstarts
  have hscrubbed : (scrubbed s p).parts.waiting = s.parts.waiting := congrArg PartSt.waiting (parts_scrubbed s p)
  let ended := scrubsEnded s p scrub owners
  have hwaiting : (setPart ended p 3).parts.waiting = s.parts.waiting := by
    refine (congrArg PartSt.waiting (raises_setPart ended p 3).events.parts).trans ?_
    rw [partMoved_eq]
    exact hscrubbed
  have hstart : startWaiting (setPart ended p 3) p = setPart ended p 3 := by
    unfold startWaiting
    rw [hwaiting, hnone]
  obtain ⟨hspm, hhbm, -⟩ := keepsMem_setPart ended p 3
  have hfilled : (scrubbed s p).spm = (((diesOfPart s p).filter fun d => s.parts.scrub.contains d).foldl scrubDie s).spm := by
    rw [scrubbed, fills_eq]
  refine ⟨_, hexec.trans (congrArg Host.Outcome.next hstart), partSt_setPart (by decide), fun d hd hmark k a hk ha => ?_,
    fun m hm hmark a ha => ?_⟩
  · have hmem : d ∈ (diesOfPart s p).filter fun d => s.parts.scrub.contains d :=
      List.mem_filter.2 ⟨hd, List.contains_iff_mem.2 hmark⟩
    have hzero := foldl_scrubDie_zeroes s hmem hk ha
    rw [spmRead, memRead, memRead, hspm]
    exact congrArg (· :: []) ((congrArg (memGet · _) hfilled).trans hzero)
  · rw [hhbm]
    exact foldl_fillSite_zeroes _ (List.mem_filter.2 ⟨hm, List.contains_iff_mem.2 hmark⟩) ha

end

/-! ## Deletion (R398, R400) -/

theorem delete_frees {p : PartNo} {s : State} (hoff : partSt s p = 1) (hrise : keysRise s.parts.st = true) :
    ∃ t, exec (.delete p) s = .next t ∧ KeepsMem s t ∧ t.cores = s.cores ∧
      partSt t p = 0 ∧ ∀ m : Fin 16, ownerOfSite s m = p.val → ownerOfSite t m = 0xFF := by
  have hexec : exec (.delete p) s = .next (deletePart s p) := rfl
  rw [hexec, deletePart, if_neg (by omega)]
  extract_lets keys freed parts cleared
  have hfailed := calm_qpsFail s p
  obtain ⟨honly, -⟩ := setOwners_entries p 0 (qpsFail s p)
  have hfreed : OnlyDict (qpsFail s p) freed := honly
  have howners : ownerOfSite freed = fun m => ownerOfSite (setOwners (qpsFail s p) p 0) m := rfl
  clear_value freed
  have hparts : freed.parts = s.parts := by rw [hfreed]; exact hfailed.events.parts
  have hcores : cleared.cores = s.cores := by
    change freed.cores = s.cores
    rw [hfreed]
    exact hfailed.events.cores
  have hmem : KeepsMem s cleared := by
    change KeepsMem s freed
    rw [hfreed]
    exact hfailed.events.keepsMem
  have hst : keysRise cleared.parts.st = true := by
    change keysRise freed.parts.st = true
    rw [hparts]
    exact hrise
  refine ⟨_, rfl, hmem.trans (keepsMem_setPart ..), (cores_setPart ..).trans hcores, partSt_setPart_undefined hst,
    fun m howned => ?_⟩
  have hslot : ¬notKeptSlot (cairnSlot (0xA100 + m) 3) := by
    unfold notKeptSlot cairnSlot
    omega
  have hmoved : DictBut notKeptSlot cleared (setPart cleared p 0) :=
    .trans (.of_dict (dict_partMoved ..)) (raises_setPart cleared p 0).dict
  have hcleared : ownerOfSite cleared m = ownerOfSite freed m := by
    have hentry : aget (cairnSlot (0xA100 + m) 3) cleared.dict = aget (cairnSlot (0xA100 + m) 3) freed.dict := by
      refine (aget_adel_other ?_ _).trans ((aget_adel_other ?_ _).trans (aget_adel_other ?_ _)) <;>
        (unfold cairnSlot; omega)
    unfold ownerOfSite dget
    rw [hentry]
  have hkept : ownerOfSite (qpsFail s p) m = p.val := (hfailed.entries.dget hslot).trans howned
  calc ownerOfSite (setPart cleared p 0) m = ownerOfSite cleared m := hmoved.dget hslot
    _ = ownerAfter p 0 m (ownerOfSite (qpsFail s p) m) := hcleared.trans ((congrFun howners m).trans (ownerOfSite_setOwners ..))
    _ = 0xFF := by rw [hkept, ownerAfter, if_neg (by simp [bit]), if_pos rfl]

end Sys2Proof.Machine

/-!
Switching a partition off (R399, R404) and the switch-in of a spare (R416, R417).
-/
namespace Sys2Proof.Machine

open Sys2Proof

/-! ## A switch-off begins (R399, R404, Table 12.7) -/

section
variable (s : State)

theorem parts_siteReset (m : Nat) : (siteReset s m).parts = s.parts := by
  have hfault : ∀ (t : State) (eng tag : Nat), (engineFault t m eng 8 tag).parts = t.parts :=
    fun t eng tag => (raises_raise t _ _ _).events.parts
  unfold siteReset
  extract_lets x streamed gathered released
  have hstreamed : streamed.parts = s.parts := foldl_keeps State.parts (fun _ _ => hfault ..) _ s
  have hgathered : gathered.parts = streamed.parts := foldl_keeps State.parts (fun _ _ => hfault ..) _ streamed
  have hreleased : released.parts = gathered.parts := foldl_keeps State.parts (fun _ _ => hfault ..) _ gathered
  exact hreleased.trans (hgathered.trans hstreamed)

theorem parts_abandonLoad (p : Nat) : (abandonLoad s p).parts = s.parts := by
  obtain h | ⟨f, v, h⟩ := abandonLoad_cases s p
  · rw [h]
  · rw [h]
    rfl

variable {s} in
theorem partSt_beginPart {p lcid : Nat} : partSt (beginPart s p lcid true) p = 5 := by
  unfold beginPart
  extract_lets cores resets parts begun moved stopped host told cleared
  have hmoved : partSt moved p = 5 := partSt_setPart (by decide)
  have hcleared : cleared.parts = moved.parts := foldl_keeps State.parts (fun t m => parts_siteReset t m) _ told
  refine (partSt_of_parts moved ?_ p).trans hmoved
  rw [(calm_qpsFail ..).events.parts, (calm_ringsReset ..).events.parts, parts_abandonLoad, hcleared]

variable {s} in
theorem switchOff_stops {p : PartNo} (hready : panelReady s = true) (hnone : runReset s 4 p = none) (hon : partSt s p = 3) :
    ∃ t, exec (.switchOff p) s = .next t ∧ partSt t p = 5 := by
  refine ⟨beginPart s p 0 true, congrArg Host.Outcome.next ((if_pos hready).trans ?_), partSt_beginPart⟩
  rw [partRow, hnone]
  exact if_pos hon

end

/-! ## Its cores are reset -/

section
variable (s : State)

theorem resetCore_eq (c : Nat) : resetCore s c =
    { s with cores := (resetCore s c).cores, fab := (resetCore s c).fab, fresh := (resetCore s c).fresh } := by
  unfold resetCore
  dsimp only
  split <;> rfl

theorem foldl_resetCore_eq (l : List Nat) : l.foldl resetCore s =
    { s with cores := (l.foldl resetCore s).cores, fab := (l.foldl resetCore s).fab, fresh := (l.foldl resetCore s).fresh } := by
  induction l generalizing s with
  | nil => rfl
  | cons c l ih => rw [List.foldl_cons, ih (resetCore s c), resetCore_eq]

/-- A core that has been reset is as after any other reset of it: the LFSRs stay. -/
theorem afterReset_afterReset (k : Core) (m n : Nat) : afterReset (afterReset k m) n = afterReset k n := rfl

theorem core_resetCore (c d : Nat) : core (resetCore s c) d =
    if d = c ∧ coreGated s d = false then afterReset (core s d) s.fresh else core s d := by
  unfold resetCore
  split
  case isTrue hgated =>
    rw [if_neg]
    rintro ⟨rfl, hopen⟩
    rw [hgated] at hopen
    exact absurd hopen (by decide)
  case isFalse hopen =>
    by_cases hd : d = c
    · subst hd
      rw [if_pos ⟨rfl, Bool.eq_false_iff.2 hopen⟩]
      exact core_setCore_same ..
    · rw [if_neg fun h => hd h.1]
      exact core_setCore_other _ _ hd

theorem coreGated_resetCore (c d : Nat) : coreGated (resetCore s c) d = coreGated s d := by
  have hhole : isHole (resetCore s c) d = isHole s d := by
    rw [resetCore_eq]
    rfl
  unfold coreGated
  rw [core_resetCore, hhole]
  split
  case isTrue h =>
    obtain ⟨-, hopen⟩ := h
    rw [coreGated, Bool.or_eq_false_iff] at hopen
    rw [hopen.1, hopen.2]
    rfl
  case isFalse => rfl

/-- Every core of a list that has state is as after a core reset. -/
theorem foldl_resetCore_resets {l : List Nat} {d : Nat} (hd : d ∈ l) (hopen : coreGated s d = false) :
    ∃ n, core (l.foldl resetCore s) d = afterReset (core s d) n := by
  refine foldl_reaches (inv := fun t => coreGated t d = false ∧ ∀ n, afterReset (core t d) n = afterReset (core s d) n)
    (goal := fun t => ∃ n, core t d = afterReset (core s d) n) (fun t c => ?_) (fun t c => ?_) (fun t => ?_) hd
    ⟨hopen, fun _ => rfl⟩
  · rintro ⟨ht, hafter⟩
    refine ⟨by rwa [coreGated_resetCore], fun n => ?_⟩
    rw [core_resetCore]
    split
    · rw [afterReset_afterReset, hafter]
    · exact hafter n
  · rintro ⟨n, hn⟩
    rw [core_resetCore]
    split
    · exact ⟨t.fresh, by rw [hn, afterReset_afterReset]⟩
    · exact ⟨n, hn⟩
  · rintro ⟨ht, hafter⟩
    exact ⟨t.fresh, by rw [core_resetCore, if_pos ⟨rfl, ht⟩, hafter]⟩

/-- A partition's reset is noted as swept at a time. -/
def RunReset.sweptAt (p now : Nat) (x : RunReset) : RunReset :=
  if x.level = 4 ∧ x.unit = p then { x with swept := some now } else x

theorem find?_map_sweptAt (p now : Nat) (l : List RunReset) :
    (l.map (RunReset.sweptAt p now)).find? (fun x => x.level == 4 && x.unit == p) =
      (l.find? fun x => x.level == 4 && x.unit == p).map fun x => { x with swept := some now } := by
  induction l with
  | nil => rfl
  | cons x l ih =>
    have hsame : (RunReset.sweptAt p now x).level = x.level ∧ (RunReset.sweptAt p now x).unit = x.unit := by
      unfold RunReset.sweptAt
      split <;> exact ⟨rfl, rfl⟩
    rw [List.map_cons, List.find?_cons, List.find?_cons, hsame.1, hsame.2]
    split
    case h_1 hthis =>
      rw [Bool.and_eq_true, beq_iff_eq, beq_iff_eq] at hthis
      exact congrArg some (if_pos hthis)
    case h_2 => exact ih

variable {s} {p : PartNo} {r : RunReset} (hready : panelReady s = true) (hrun : runReset s 4 p = some r) (hoff : partSt s p = 5)
include hready hrun hoff

theorem switchOff_sweeps (hfresh : r.swept = none) :
    ∃ t, exec (.switchOff p) s = .next t ∧ KeepsMem s t ∧ partSt t p = 5 ∧ runReset t 4 p = some { r with swept := some s.prc } ∧
      ∀ d ∈ coresOfPart s p, coreGated s d = false → ∃ n, core t d = afterReset (core s d) n := by
  have hswept := foldl_resetCore_eq s (coresOfPart s p)
  refine ⟨sweepPart s p, congrArg Host.Outcome.next ((if_pos hready).trans ?_), keepsMem_of_mems mems_sweepPart, ?_, ?_,
    fun d hd hopen => foldl_resetCore_resets s hd hopen⟩
  · rw [partRow, hrun]
    dsimp only
    rw [if_pos hoff, hfresh]
  · have hst : (sweepPart s p).parts.st = s.parts.st := by
      unfold sweepPart
      dsimp only
      rw [hswept]
    rw [partSt, hst]
    exact hoff
  · have hresets : (sweepPart s p).parts.resets = s.parts.resets.map (RunReset.sweptAt p s.prc) := by
      unfold sweepPart
      dsimp only
      rw [hswept]
      rfl
    rw [runReset, hresets]
    refine (find?_map_sweptAt p s.prc _).trans ?_
    exact congrArg (Option.map _) hrun

/-! ## Its end (Table 12.7 steps 6 and 7) -/

omit hready hrun hoff in
theorem pstate_regionOff (t : State) (q g : Nat) : (region (regionOff t q) g).pstate =
    if g = q ∧ (region t g).pstate ≠ 3 then 2 else (region t g).pstate := by
  unfold regionOff
  split
  case isTrue hdark =>
    rw [if_neg]
    rintro ⟨rfl, hlit⟩
    exact hlit hdark
  case isFalse hlit =>
    rw [modRegion, region_setRegion]
    by_cases hg : g = q
    · subst hg
      rw [if_pos rfl, if_pos ⟨rfl, hlit⟩]
    · rw [if_neg hg, if_neg fun h => hg h.1]

omit hready hrun hoff in
theorem foldl_regionOff_off {l : List Nat} {g : Nat} (t : State) (hg : g ∈ l) (hlit : (region t g).pstate ≠ 3) :
    (region (l.foldl regionOff t) g).pstate = 2 := by
  refine foldl_reaches (inv := fun t => (region t g).pstate ≠ 3) (goal := fun t => (region t g).pstate = 2)
    (fun t q ht => ?_) (fun t q ht => ?_) (fun t ht => ?_) hg hlit
  · rw [pstate_regionOff]
    split
    · decide
    · exact ht
  · rw [pstate_regionOff, ht, ite_self]
  · rw [pstate_regionOff, if_pos ⟨rfl, ht⟩]

omit hready hrun hoff in
theorem parts_regionsOff (t : State) (l : List Nat) : (l.foldl regionOff t).parts = t.parts :=
  foldl_keeps State.parts (fun u q => by unfold regionOff; split <;> rfl) l t

omit hready hrun in
theorem endPart_off : partSt (endPart s p r) p = 1 ∧ runReset (endPart s p r) 4 p = none ∧
    ∀ g ∈ regionsOfPart s p, (region s g).pstate ≠ 3 → (region (endPart s p r) g).pstate = 2 := by
  let drained : State := { s with parts := { s.parts with
    resets := s.parts.resets.filter fun x => !(x.level == 4 && x.unit == p.val) } }
  let dark := (regionsOfPart s p).foldl regionOff drained
  have hend : endPart s p r = { setPart dark p 1 with parts := { (setPart dark p 1).parts with
      waiting := adel p (setPart dark p 1).parts.waiting } } := if_pos (beq_iff_eq.2 hoff)
  have hmoved := raises_setPart dark p 1
  rw [hend]
  refine ⟨partSt_setPart (by decide), ?_, fun g hg hlit => ?_⟩
  · have hdark : dark.parts.resets = drained.parts.resets := congrArg PartSt.resets (parts_regionsOff drained _)
    have hresets : (setPart dark p 1).parts.resets = drained.parts.resets := by
      refine (congrArg PartSt.resets hmoved.events.parts).trans ?_
      rw [partMoved_eq]
      exact hdark
    refine (congrArg (List.find? _) hresets).trans ?_
    refine List.find?_eq_none.2 fun x hx => ?_
    have hother := (List.mem_filter.1 hx).2
    rwa [Bool.not_eq_true', ← Bool.not_eq_true] at hother
  · have hpwr : (setPart dark p 1).pwr = dark.pwr := by
      rw [hmoved.events.pwr, partMoved_eq]
    refine (congrArg RegionPwr.pstate (region_of_pwr hpwr g)).trans ?_
    exact foldl_regionOff_off drained hg hlit

theorem switchOff_ends {w : Nat} (hswept : r.swept = some w) :
    (w + twiceTimeout s ≤ s.prc → ∃ t, exec (.switchOff p) s = .next t ∧ partSt t p = 1 ∧ runReset t 4 p = none ∧
      KeepsMem s t ∧ ∀ g ∈ regionsOfPart s p, (region s g).pstate ≠ 3 → (region t g).pstate = 2) ∧
    (s.prc < w + twiceTimeout s → exec (.switchOff p) s = .next s) := by
  have hexec : exec (.switchOff p) s = .next (if partDrained s w then endPart s p r else s) := by
    refine congrArg Host.Outcome.next ((if_pos hready).trans ?_)
    rw [partRow, hrun]
    dsimp only
    rw [if_pos hoff, hswept]
  obtain ⟨hst, hnone, hregions⟩ := endPart_off (r := r) hoff
  refine ⟨fun hdue => ⟨endPart s p r, hexec.trans ?_, hst, hnone, keepsMem_of_mems mems_endPart, hregions⟩, fun hearly =>
    hexec.trans ?_⟩
  · exact congrArg Host.Outcome.next (if_pos (decide_eq_true hdue))
  · exact congrArg Host.Outcome.next (if_neg (by rw [partDrained, decide_eq_true_iff]; omega))

end

/-! ## A spare is switched in (R416) -/

/-- A pass that acts on one element of a list, and on no other before or after, acts on it once. -/
theorem foldl_single {α : Type} {f : State → α → State} {a : α} {s : State} {l : List α} (ha : a ∈ l) (hnodup : l.Nodup)
    (hbefore : ∀ b, b ≠ a → b ∈ l → f s b = s) (hafter : ∀ b, b ≠ a → b ∈ l → f (f s a) b = f s a) : l.foldl f s = f s a := by
  have hid : ∀ (l : List α) (t : State), (∀ b ∈ l, f t b = t) → l.foldl f t = t := fun l t => by
    induction l with
    | nil => exact fun _ => rfl
    | cons b l ih =>
      intro h
      rw [List.foldl_cons, h b List.mem_cons_self]
      exact ih fun c hc => h c (List.mem_cons_of_mem _ hc)
  induction l with
  | nil => cases ha
  | cons b l ih =>
    obtain ⟨hnew, hrest⟩ := List.nodup_cons.1 hnodup
    rw [List.foldl_cons]
    by_cases hb : b = a
    · subst hb
      exact hid l _ fun c hc => hafter c (fun h => hnew (h ▸ hc)) (List.mem_cons_of_mem _ hc)
    · rw [hbefore b hb List.mem_cons_self]
      exact ih (List.mem_of_ne_of_mem (Ne.symm hb) ha) hrest (fun c h hc => hbefore c h (List.mem_cons_of_mem _ hc))
        fun c h hc => hafter c h (List.mem_cons_of_mem _ hc)

/-- The repair word of a cluster whose spare serves logical core j: it has no spare any more. -/
def sparedWord (w j : Nat) : Nat := setBits (setBits w (4 * j + 3) (4 * j) (bits w 35 32)) 35 32 15

section
variable {w j : Nat} (hj : j < 8)
include hj

theorem bits_sparedWord : bits (sparedWord w j) (4 * j + 3) (4 * j) = bits w 35 32 := by
  have hlt : bits w 35 32 < 16 := Nat.mod_lt _ (by decide)
  rw [sparedWord, bits_setBits_other (by omega) (by omega), bits_setBits, show 4 * j + 3 + 1 - 4 * j = 4 by omega]
  exact Nat.mod_eq_of_lt hlt

omit hj in
theorem bits_sparedWord_other {i : Nat} (hi : i < 8) (hne : i ≠ j) :
    bits (sparedWord w j) (4 * i + 3) (4 * i) = bits w (4 * i + 3) (4 * i) := by
  rw [sparedWord, bits_setBits_other (by omega) (by omega), bits_setBits_other (by omega) (by omega)]

theorem bit_sparedWord (q : Nat) : bit (sparedWord w j) (40 + q) = bit w (40 + q) := by
  rw [sparedWord, bit_setBits_other (by omega) (by omega), bit_setBits_other (by omega) (by omega)]

end

section
variable {s : State} {c : Nat}

theorem health_scrubCore (s : State) (c : Nat) : (scrubCore s c).health = s.health := by
  simp only [scrubCore]
  split <;> rfl

theorem core_scrubCore_reset (h : core s c = Core.reset) : core (scrubCore s c) c = Core.reset := by
  simp only [scrubCore]
  split
  · exact h
  · exact core_setCore_same ..

/-- A logical core that no drill has moved takes its cluster's spare. -/
theorem switchCore_spares (hexchange : s.health.exchange = []) (hspare : bits (repairWord s (c / 8)) 35 32 ≠ 15) :
    repairWord (switchCore s c) (c / 8) = sparedWord (repairWord s (c / 8)) (c % 8) ∧
      (switchCore s c).health.exchange = [] ∧ core (switchCore s c) c = Core.reset ∧
      ∀ a, a < spmSize → memGet (switchCore s c).spm (spmKey c a) = 0 := by
  let told : State := { s with health := { s.health with exchange := s.health.exchange.filter fun x => x != pcidOf s c } }
  let repaired := setRepair told (c / 8) (sparedWord (repairWord s (c / 8)) (c % 8))
  let conditioned := setCondD repaired false (c / 8 * 16 + bits (repairWord s (c / 8)) 35 32) 0
    (bits (healthRec s (pcidOf s c)) 7 4)
  let placed := scrubCore (setCore conditioned c Core.reset) c
  obtain ⟨part, payload, hswitch⟩ : ∃ part payload, switchCore s c = raiseD placed false 0x0907 part payload := by
    have hdrill : s.health.exchange.contains (pcidOf s c) = false := by rw [hexchange]; rfl
    unfold switchCore
    dsimp only
    rw [if_neg hspare, hdrill]
    exact ⟨_, _, rfl⟩
  have hraise := raises_raiseD placed false 0x0907 part payload
  have hhealth : (switchCore s c).health = conditioned.health := by
    rw [hswitch, hraise.events.health]
    exact health_scrubCore ..
  have hrepair : (switchCore s c).health.repair = repaired.health.repair := by
    rw [hhealth]
    exact repair_setCondD ..
  have hnone : conditioned.health.exchange = s.health.exchange.filter fun x => x != pcidOf s c := by
    have hcond : (condSet repaired (c / 8 * 16 + bits (repairWord s (c / 8)) 35 32) 0
        (bits (healthRec s (pcidOf s c)) 7 4)).health.exchange = repaired.health.exchange := by
      unfold condSet
      split <;> rfl
    refine (congrArg HealthSt.exchange (raises_setCondD ..).events.health).trans (hcond.trans ?_)
    exact congrArg HealthSt.exchange (health_touchTopo _)
  refine ⟨?_, ?_, ?_, fun a ha => ?_⟩
  · rw [repairWord_of_repair hrepair, repairWord_setRepair, if_pos rfl]
  · rw [hhealth, hnone, hexchange]
    rfl
  · rw [hswitch, hraise.events.core]
    exact core_scrubCore_reset (core_setCore_same ..)
  · rw [hswitch, hraise.events.spm]
    exact scrubCore_zeroes _ ha

end

section
variable {s t : State} {k : ClusterNo} {j : Fin 8}

theorem posOfCore_field (s : State) (k : Nat) {i : Nat} (hi : i < 8) :
    posOfCore s (8 * k + i) = bits (repairWord s k) (4 * i + 3) (4 * i) := by
  rw [posOfCore, show (8 * k + i) / 8 = k by omega, show (8 * k + i) % 8 = i by omega, div_pow_mod_eq_bits]

theorem needsSwitch_of_health (h : t.health = s.health) (c : Nat) : needsSwitch t c = needsSwitch s c := by
  have hrepair : t.health.repair = s.health.repair := congrArg HealthSt.repair h
  unfold needsSwitch posOfCore
  rw [repairWord_of_repair hrepair, pcidOf_of_repair hrepair, h]

theorem needsSwitch_noDrill (h : s.health.exchange = []) (k : Nat) {i : Nat} (hi : i < 8) : needsSwitch s (8 * k + i) =
    (bits (repairWord s k) (4 * i + 3) (4 * i) != 15
      && bit (repairWord s k) (40 + bits (repairWord s k) (4 * i + 3) (4 * i))) := by
  unfold needsSwitch
  rw [posOfCore_field s k hi, h, show (8 * k + i) / 8 = k by omega]
  exact congrArg _ (Bool.or_false _)

variable (hexchange : s.health.exchange = []) (hneeds : needsSwitch s (8 * k.val + j.val) = true)
  (hothers : ∀ i : Fin 8, i ≠ j → needsSwitch s (8 * k.val + i.val) = false) (hspare : bits (repairWord s k) 35 32 ≠ 15)
include hexchange hneeds hothers hspare

/-- The pass over a cluster moves the one core that must move. -/
theorem switchIn_single : switchIn s k = switchCore s (8 * k.val + j.val) := by
  have hdiv : (8 * k.val + j.val) / 8 = k := by omega
  have hmod : (8 * k.val + j.val) % 8 = j := by omega
  obtain ⟨hword, hnone, -, -⟩ := switchCore_spares (s := s) (c := 8 * k.val + j.val) hexchange (by rwa [hdiv])
  rw [hdiv, hmod] at hword
  have hbefore : ∀ i, i ≠ j.val → i ∈ List.range 8 → needsSwitch s (8 * k.val + i) = false := fun i hne hi =>
    hothers ⟨i, List.mem_range.1 hi⟩ (Fin.ne_of_val_ne hne)
  have hafter : ∀ i, i ≠ j.val → i ∈ List.range 8 →
      needsSwitch (switchCore s (8 * k.val + j.val)) (8 * k.val + i) = false := fun i hne hi => by
    have hlt : i < 8 := List.mem_range.1 hi
    have hclear := hbefore i hne hi
    rw [needsSwitch_noDrill hexchange k hlt] at hclear
    rw [needsSwitch_noDrill hnone k hlt, hword, bits_sparedWord_other hlt hne, bit_sparedWord j.isLt]
    exact hclear
  refine (foldl_single (a := j.val) (List.mem_range.2 j.isLt) List.nodup_range (fun i hne hi => ?_) fun i hne hi => ?_).trans
    (if_pos hneeds)
  · exact if_neg (Bool.eq_false_iff.1 (hbefore i hne hi))
  · have hacts : (if needsSwitch s (8 * k.val + j.val) then switchCore s (8 * k.val + j.val) else s) =
        switchCore s (8 * k.val + j.val) := if_pos hneeds
    rw [hacts]
    exact if_neg (Bool.eq_false_iff.1 (hafter i hne hi))

theorem switchIn_serves : posOfCore (switchIn s k) (8 * k.val + j.val) = bits (repairWord s k) 35 32 ∧
    core (switchIn s k) (8 * k.val + j.val) = Core.reset ∧
    ∀ a, a < spmSize → memGet (switchIn s k).spm (spmKey (8 * k.val + j.val) a) = 0 := by
  have hdiv : (8 * k.val + j.val) / 8 = k := by omega
  have hmod : (8 * k.val + j.val) % 8 = j := by omega
  obtain ⟨hword, -, hcore, hzero⟩ := switchCore_spares (s := s) (c := 8 * k.val + j.val) hexchange (by rwa [hdiv])
  rw [hdiv, hmod] at hword
  rw [switchIn_single hexchange hneeds hothers hspare]
  exact ⟨by rw [posOfCore_field _ k j.isLt, hword, bits_sparedWord j.isLt], hcore, hzero⟩

end

section
variable {s : State} {k : ClusterNo}

/-- The state in which a cluster's reset has begun. -/
theorem beginReset_begins (hresets : s.parts.resets = []) (hresetting : partSt s (partOfCore s (8 * k.val)) ≠ 4)
    (hstopping : partSt s (partOfCore s (8 * k.val)) ≠ 5) : ∃ r, runReset (beginReset s 2 k (unitCore 2 k)) 2 k = some r ∧
      (beginReset s 2 k (unitCore 2 k)).health = s.health := by
  have hjoins : joins s 2 k = false := by
    have hfirst : unitCore 2 k = 8 * k.val := rfl
    unfold joins
    dsimp only
    rw [hfirst, hresets, beq_false_of_ne hresetting, beq_false_of_ne hstopping]
    rfl
  unfold beginReset
  rw [if_neg (Bool.eq_false_iff.1 hjoins)]
  extract_lets cores resets parts begun
  have hkeeps : ∀ (t : State) (c : Nat),
      (if coreGated t c then t else modCore t c fun k => { k with st := .reset, hold := .none }).parts = t.parts ∧
      (if coreGated t c then t else modCore t c fun k => { k with st := .reset, hold := .none }).health = t.health := fun t c => by
    split <;> exact ⟨rfl, rfl⟩
  have hparts := foldl_keeps State.parts (fun t c => (hkeeps t c).1) cores begun
  have hhealth := foldl_keeps State.health (fun t c => (hkeeps t c).2) cores begun
  have hlist : begun.parts.resets = [⟨2, k, unitCore 2 k, s.prc, none⟩] := by
    change (s.parts.resets.filter _) ++ _ = _
    rw [hresets]
    rfl
  refine ⟨⟨2, k, unitCore 2 k, s.prc, none⟩, ?_, hhealth⟩
  rw [runReset, congrArg PartSt.resets hparts, hlist, List.find?_cons]
  simp

theorem resetDone_keeps (t : State) (drill : Bool) (part : Nat) (r : RunReset) : OnlyEvents t (resetDone t drill part r) := by
  unfold resetDone
  dsimp only
  refine .trans ?_ (onlyEvents_raiseD ..)
  split
  · rfl
  · exact .refl t

variable {j : Fin 8}

theorem spareSwitchIn_serves (hready : panelReady s = true) (hidle : clusterIdle s k = true) (hresets : s.parts.resets = [])
    (hresetting : partSt s (partOfCore s (8 * k.val)) ≠ 4) (hstopping : partSt s (partOfCore s (8 * k.val)) ≠ 5)
    (hexchange : s.health.exchange = []) (hneeds : needsSwitch s (8 * k.val + j.val) = true)
    (hothers : ∀ i : Fin 8, i ≠ j → needsSwitch s (8 * k.val + i.val) = false) (hspare : bits (repairWord s k) 35 32 ≠ 15) :
    ∃ t, exec (.spareSwitchIn k) s = .next t ∧ posOfCore t (8 * k.val + j.val) = bits (repairWord s k) 35 32 ∧
      core t (8 * k.val + j.val) = Core.reset ∧ ∀ a, a < spmSize → spmRead t (8 * k.val + j.val) a 1 = [0] := by
  obtain ⟨r, hrun, hbegun⟩ := beginReset_begins hresets hresetting hstopping
  let begun := beginReset s 2 k (unitCore 2 k)
  let reset := (unitCores 2 k).foldl resetCore begun
  have hhealth : reset.health = s.health := by
    refine Eq.trans ?_ hbegun
    unfold reset
    rw [foldl_resetCore_eq]
  have hword : repairWord reset k = repairWord s k := repairWord_of_repair (congrArg HealthSt.repair hhealth) k
  obtain ⟨hpos, hcore, hzero⟩ := switchIn_serves (s := reset) (k := k) (j := j) (by rw [hhealth]; exact hexchange)
    ((needsSwitch_of_health hhealth _).trans hneeds) (fun i hne => (needsSwitch_of_health hhealth _).trans (hothers i hne))
    (by rwa [hword])
  have hwants : (unitCores 2 k).any (needsSwitch s) = true :=
    List.any_eq_true.2 ⟨_, List.mem_map.2 ⟨j.val, List.mem_range.2 j.isLt, rfl⟩, hneeds⟩
  have hnone : (runReset s 2 k).isSome = false := by
    rw [runReset, hresets]
    rfl
  have hrow : resetRow s 2 k = endReset begun 2 k := by
    rw [resetRow, if_pos hready, hnone]
    rfl
  obtain ⟨ps, drill, part, hend⟩ : ∃ ps drill part,
      endReset begun 2 k = resetDone { switchIn reset k with parts := ps } drill part r := by
    unfold endReset
    rw [show runReset begun 2 k = some r from hrun]
    exact ⟨_, _, _, rfl⟩
  have hdone := resetDone_keeps { switchIn reset k with parts := ps } drill part r
  refine ⟨endReset begun 2 k, ?_, ?_, ?_, fun a ha => ?_⟩
  · exact congrArg Host.Outcome.next ((if_pos (Bool.and_eq_true_iff.2 ⟨hwants, hidle⟩)).trans hrow)
  · rw [hend, posOfCore, repairWord_of_repair (congrArg HealthSt.repair hdone.health), ← hword]
    exact hpos
  · rw [hend, hdone.core]
    exact hcore
  · rw [hend, spmRead, memRead, memRead, hdone.spm]
    exact congrArg (· :: []) (hzero a ha)

end

/-! ## The statement -/

/-- Settles O52: each clause is what its boot, reset, request or row does. -/
theorem bootsAndPartitions : Obligations.BootsAndPartitions := by
  refine ⟨fun o s hbooting => ?cold, fun o s => warmPanelReset_keeps o, boot_ends, fun p f s hok => ?define,
    fun p s => ⟨switchOn_starts, partitionStarted_ends, switchOff_stops, fun r hready hrun hoff =>
      switchOff_sweeps hready hrun hoff, fun r w hready hrun hoff => switchOff_ends hready hrun hoff, delete_frees⟩,
    fun s => rfl, fun k j s => spareSwitchIn_serves⟩
  case define =>
    obtain ⟨t, hexec, hmem, hcores, hst, hfield⟩ := partitionDefine_stores s p f hok
    refine ⟨t, hexec, hmem, hcores, hst, ?_⟩
    cases f <;> exact hfield
  case cold =>
    obtain ⟨hprc, hspm, hhbm, hsram⟩ := coldStart_clears o s
    have hexec : exec (.coldBoot o) s = execColdBoot o s := rfl
    refine ⟨coldStart o s, ?_, hprc, hspm, hhbm, hsram, coldStart_noPuf, coldStart_noFloor, coldStart_noSlot, coldStart_noRef⟩
    rw [hexec, execColdBoot, hbooting]

end Sys2Proof.Machine
